-- ==== Sys2Proof/Word.lean ====
section
/-! DEFINITION. The word types, and the small data types that operands of steps are made of. -/
namespace Sys2Proof

/-- Eight bits, the smallest addressable unit (R79). -/
abbrev Byte := BitVec 8
/-- A 32-bit register or instruction word (R53, R82). -/
abbrev Word := BitVec 32
/-- A 64-bit register or address (R18, R82). -/
abbrev DWord := BitVec 64

/-- The payload of the E word that belongs to an instruction, if one does (R55, R56). -/
abbrev EPay := Option (BitVec 24)

/-- The registers and tables that firmware, system software, the host, the debugger or a hypervisor reach through
a domain controller. -/
inductive CtlReg where
  | ptroot                       -- R244
  | fqbase | fqsize | fqcons     -- R237
  | chanMap (m w : Nat)          -- R184, word w of map m
  | pctxbase                     -- R329
  | lctxbase                     -- R297
  | tvec (core : Nat)            -- R85, firmware
  | srg (core w : Nat)           -- R317
  | nb (core dir : Nat)          -- R36, R352
  | pos (core : Nat)             -- R252
  | bkpt (core i : Nat)          -- R320
  | wpt (core i : Nat)           -- R320
  | guest | guestNo | guestNodes -- R351, the partition map's items of the domain
  | nodeRow (n w : Nat)          -- R252, fabric bring-up
  | route (e : Nat)              -- R252, route byte (domain, e)
  | retention                    -- R182
  | subst (q : Nat)              -- R352: which quad carries quad q of the domain, 1 + its number, for a guest; 0 none
  | budget (q : Nat)             -- R341, quad q of the domain
  | snapClear (core : Nat)       -- R283
  | slot (q n w : Nat)           -- R242, quad q of the domain, read only as are all that follow
  | wait (n w : Nat)             -- R248
  | watch (n w : Nat)            -- R250, the n-th entry in use
  | vcRec (id w : Nat)           -- R255
  | owner (strip : Nat)          -- R254
  | range (sid n w : Nat)        -- R253
  | pte (off k : Nat)            -- R241: the page-table entry that step k of the walk of an offset reads, from 0
  | bandHeader | bandEntry (d : Nat) -- R339
  | topoHeader                   -- R252
  | domRow (d : Nat)             -- R252
  | coreByte (n : Nat)           -- R252
  | fqprod                       -- R237
  | meas (n w : Nat)             -- R337, 64-bit word w
  | counter (n : Nat)            -- R282, the domain's counters in the order of R285
  | quadCounter (q n : Nat)      -- R282
  | hint (n k : Nat)             -- R178, the n-th most recent remote page hint: 0 the IA of its page, 1 its VC id
  | filter (core n k : Nat)      -- R321, entry n of a core's fault filter: 0 the IA of its page, 1 its token, 2 its union
  | glean (core n w : Nat)       -- R239, word w of entry n of a core's glean log
  | snapField (b : Nat) (n : Nat) -- R283: block b of the domain (0 to 47 a core, 48 to 59 a quad, 60 the domain), field n
deriving DecidableEq, Repr

/-- What the controller reads from the module boot store, field by field in the order of the layout (R336): the header bytes 0x0000 to 0x003F,
the two signatures, the digests of the two public keys, those keys and the body. -/
structure BootImage where
  hdr  : List Byte
  sigA : List Byte
  sigB : List Byte
  digA : List Byte
  digB : List Byte
  keyA : List Byte
  keyB : List Byte
  body : List Byte
deriving DecidableEq, Repr

/-- Who asks a quad's arbiter for current-reservation units (R342). -/
inductive Requester where
  | matrix (core id : Nat)
  | vector (tk : Nat)
  | copy (core id : Nat)
deriving DecidableEq, Repr

/-- A block that holds counters and so a snapshot set (R283, R284). -/
inductive Block where
  | core (c : Nat)
  | quad (q : Nat)
  | dom (d : Nat)
deriving DecidableEq, Repr

end Sys2Proof
end

