-- ==== Sys2Proof/Machine/Flags.lean ====
section
/-! DEFINITION. The formats, the values, the rounding and the flags of floating-point results (R83, R84, R94 to R99). A result is
a pattern and its flags, coded as in TSTAT [4:0]: NX 1, UF 2, OF 4, DZ 8, NV 16 (R84). -/
namespace Sys2Proof.Machine

/-- A binary format (R94): its exponent and fraction widths; E4M3 differs at the top of its range (R95). -/
structure Fmt where
  eb : Nat
  mb : Nat
  e4m3 : Bool := false
deriving DecidableEq, Repr

def Fmt.f64 : Fmt := ⟨11, 52, false⟩
def Fmt.f32 : Fmt := ⟨8, 23, false⟩
def Fmt.f16 : Fmt := ⟨5, 10, false⟩
def Fmt.bf16 : Fmt := ⟨8, 7, false⟩
def Fmt.e5m2 : Fmt := ⟨5, 2, false⟩
def Fmt.e4m3f : Fmt := ⟨4, 3, true⟩

/-- The width of a format in bits. -/
def Fmt.width (f : Fmt) : Nat := f.eb + f.mb + 1
def Fmt.bias (f : Fmt) : Int := 2 ^ (f.eb - 1) - 1
def Fmt.inf (f : Fmt) : Nat := (2 ^ f.eb - 1) * 2 ^ f.mb
/-- The largest finite pattern. -/
def Fmt.max (f : Fmt) : Nat := if f.e4m3 then 0x7E else f.inf - 1
/-- The canonical NaN (R94). -/
def Fmt.nan (f : Fmt) : Nat := if f.e4m3 then 0x7F else f.inf + 2 ^ (f.mb - 1)
def Fmt.signBit (f : Fmt) (neg : Bool) : Nat := if neg then 2 ^ (f.eb + f.mb) else 0

/-- What FMT selects (R83). -/
structure Env where
  rm  : Nat := 0
  ftz : Bool := false
  daz : Bool := false
  sat : Bool := false
deriving DecidableEq, Repr

/-- The environment in which FMT is ignored: nearest even, subnormals kept (R96, R106, R109). -/
def Env.plain : Env := {}

/-- A value: (-1)^neg * m * 2^e, an infinity, or a NaN, quiet or signalling. -/
inductive FV where
  | nan (sig : Bool)
  | inf (neg : Bool)
  | fin (neg : Bool) (m : Nat) (e : Int)
deriving DecidableEq, Repr

/-- A pattern and its flags. -/
abbrev FR := Nat × Nat

def flagNX : Nat := 1
def flagUF : Nat := 2
def flagOF : Nat := 4
def flagDZ : Nat := 8
def flagNV : Nat := 16

/-- The value of a pattern (R95), a subnormal source read as zero with its sign under DAZ (R98). -/
def unpack (f : Fmt) (daz : Bool) (x : Nat) : FV :=
  let neg := x / 2 ^ (f.eb + f.mb) % 2 = 1
  let ex := x / 2 ^ f.mb % 2 ^ f.eb
  let fr := x % 2 ^ f.mb
  if f.e4m3 && x % 128 == 0x7F then .nan false
  else if !f.e4m3 && ex == 2 ^ f.eb - 1 then
    (if fr = 0 then .inf neg else .nan (fr < 2 ^ (f.mb - 1)))
  else if ex = 0 then (if daz then .fin neg 0 0 else .fin neg fr (1 - f.bias - f.mb))
  else .fin neg (2 ^ f.mb + fr) ((ex : Int) - f.bias - f.mb)

/-- m * 2^e (and a little more, if sticky) as a multiple of 2^q, rounded by mode (R97); and whether that changed it. -/
def roundAt (rm : Nat) (neg : Bool) (m : Nat) (e : Int) (sticky : Bool) (q : Int) : Nat × Bool :=
  if q ≤ e then
    let n := m * 2 ^ (e - q).toNat
    (if sticky && ((rm == 2 && !neg) || (rm == 3 && neg)) then n + 1 else n, sticky)
  else
    let k := (q - e).toNat
    let n := m / 2 ^ k
    let r := m % 2 ^ k
    let h := 2 ^ (k - 1)
    let ine := r != 0 || sticky
    let up := match rm with
      | 0 => decide (h < r) || (r == h && (sticky || n % 2 == 1))
      | 2 => ine && !neg
      | 3 => ine && neg
      | _ => false
    (if up then n + 1 else n, ine)

/-- The overflow result of R97; saturated, the largest finite value. -/
def overflowed (f : Fmt) (rm : Nat) (sat neg : Bool) : Nat :=
  let toInf := rm == 0 || (rm == 2 && !neg) || (rm == 3 && neg)
  if sat || !toInf then f.signBit neg + f.max
  else if f.e4m3 then 0x7F
  else f.signBit neg + f.inf

/-- One rounding of a nonzero value to a format (R96 to R99). `sat` is FMT.SAT where the conversion takes it. -/
def roundTo (f : Fmt) (v : Env) (sat : Bool) (neg : Bool) (m : Nat) (e : Int) (sticky : Bool) : FR :=
  let s := f.signBit neg
  let q := (Nat.log2 m : Int) + e - f.mb
  let (n, ine) := roundAt v.rm neg m e sticky q
  let emin := 1 - f.bias
  -- the exponent of the value rounded with unbounded range
  let ex := if n = 2 ^ (f.mb + 1) then q + f.mb + 1 else q + f.mb
  if ex < emin then
    if v.ftz then (s, flagUF ||| flagNX)
    else
      let (n, ine) := roundAt v.rm neg m e sticky (emin - f.mb)
      (s + n, if ine then flagUF ||| flagNX else 0)
  else
    let bits := (ex + f.bias).toNat * 2 ^ f.mb + (if n = 2 ^ (f.mb + 1) then 0 else n - 2 ^ f.mb)
    if f.max < bits then (overflowed f v.rm sat neg, flagOF ||| flagNX)
    else (s + bits, if ine then flagNX else 0)

/-- A finite value rounded; a zero keeps its sign. -/
def roundFin (f : Fmt) (v : Env) (neg : Bool) (m : Nat) (e : Int) : FR :=
  if m = 0 then (f.signBit neg, 0) else roundTo f v false neg m e false

end Sys2Proof.Machine
end

