-- ==== Sys2Proof/Machine/Float.lean ====
section
/-! DEFINITION. The operations, conversions and functions of "Number formats and the order of sums" (R92 to R109), on bit patterns as
natural numbers. Every finite value is exact until one rounding. -/
namespace Sys2Proof.Machine

def FV.isNan (a : FV) : Bool := match a with | .nan _ => true | _ => false
def FV.isSig (a : FV) : Bool := match a with | .nan true => true | _ => false
def FV.isInf (a : FV) (n : Bool) : Bool := a == .inf n
def FV.neg (a : FV) : FV := match a with
  | .nan s => .nan s
  | .inf n => .inf !n
  | .fin n m e => .fin (!n) m e

/-- The exact product; 0 times an infinity is invalid and reads as a signalling NaN (R99). -/
def FV.mul (a b : FV) : FV :=
  match a, b with
  | .nan s, .nan t => .nan (s || t)
  | .nan s, _ => .nan s
  | _, .nan t => .nan t
  | .inf s, .inf t => .inf (s != t)
  | .inf s, .fin t m _ => if m = 0 then .nan true else .inf (s != t)
  | .fin s m _, .inf t => if m = 0 then .nan true else .inf (s != t)
  | .fin s m e, .fin t n k => .fin (s != t) (m * n) (e + k)

/-- The exact sum of finite terms as a multiple of 2^e; other terms count 0. -/
def sumAt (e : Int) (ts : List FV) : Int :=
  match ts with
  | [] => 0
  | .fin s m k :: r => (if s then -1 else 1) * (m * 2 ^ (k - e).toNat : Nat) + sumAt e r
  | _ :: r => sumAt e r

/-- The least exponent of the finite terms. -/
def minExp (ts : List FV) : Int :=
  ts.foldl (fun a t => match t with | .fin _ m k => if m = 0 then a else min a k | _ => a) 5000

/-- The sum of terms with one rounding (R96 to R99, R138): infinities of both signs are invalid even beside a NaN. -/
def sumR (f : Fmt) (v : Env) (ts : List FV) : FR :=
  let conflict := ts.any (FV.isInf · true) && ts.any (FV.isInf · false)
  let nv := if conflict || ts.any FV.isSig then flagNV else 0
  if conflict || ts.any FV.isNan then (f.nan, nv)
  else if ts.any (FV.isInf · false) then (f.inf, 0)
  else if ts.any (FV.isInf · true) then (f.signBit true + f.inf, 0)
  else
    let e := minExp ts
    let z := sumAt e ts
    if z = 0 then
      let neg := if ts.all (fun t => match t with | .fin s m _ => s && m == 0 | _ => false) then true
        else if ts.all (fun t => match t with | .fin s m _ => !s && m == 0 | _ => false) then false
        else v.rm == 3
      (f.signBit neg, 0)
    else roundTo f v false (z < 0) z.natAbs e false

def fAdd (f : Fmt) (v : Env) (a b : Nat) : FR := sumR f v [unpack f v.daz a, unpack f v.daz b]
def fSub (f : Fmt) (v : Env) (a b : Nat) : FR := sumR f v [unpack f v.daz a, (unpack f v.daz b).neg]

/-- A value rounded to a format, infinities and NaNs passed on. -/
def packR (f : Fmt) (v : Env) (x : FV) : FR :=
  match x with
  | .nan s => (f.nan, if s then flagNV else 0)
  | .inf n => (f.signBit n + f.inf, 0)
  | .fin n m e => roundFin f v n m e

def fMul (f : Fmt) (v : Env) (a b : Nat) : FR := packR f v ((unpack f v.daz a).mul (unpack f v.daz b))

/-- a * b + d with one rounding (R96). -/
def fFma (f : Fmt) (v : Env) (a b d : Nat) : FR :=
  sumR f v [(unpack f v.daz a).mul (unpack f v.daz b), unpack f v.daz d]

/-- The order of two values that are no NaN: less, equal, greater as -1, 0, 1, the zeros equal. -/
def FV.cmp (a b : FV) : Int :=
  match a, b with
  | .inf s, .inf t => if s = t then 0 else if s then -1 else 1
  | .inf s, _ => if s then -1 else 1
  | _, .inf t => if t then 1 else -1
  | .fin s m e, .fin t n k =>
    let l := minExp [a, b]
    let x := sumAt l [.fin s m e]
    let y := sumAt l [.fin t n k]
    if x < y then -1 else if x = y then 0 else 1
  | _, _ => 0

def FV.signNeg (a : FV) : Bool := match a with | .nan _ => false | .inf n => n | .fin n _ _ => n

/-- A pattern with a subnormal read as zero under DAZ. -/
def dazBits (f : Fmt) (daz : Bool) (x : Nat) : Nat :=
  if daz && x / 2 ^ f.mb % 2 ^ f.eb == 0 then x - x % 2 ^ f.mb else x

/-- minimumNumber or maximumNumber (R100); -0 orders below +0. The operand chosen is delivered exactly, read under DAZ (R136). -/
def fMinMax (mx : Bool) (f : Fmt) (v : Env) (a b : Nat) : FR :=
  let x := unpack f v.daz a
  let y := unpack f v.daz b
  let nv := if x.isSig || y.isSig then flagNV else 0
  let a := dazBits f v.daz a
  let b := dazBits f v.daz b
  if x.isNan && y.isNan then (f.nan, nv)
  else if x.isNan then (b, nv)
  else if y.isNan then (a, nv)
  else
    let less := x.cmp y < 0 || (x.cmp y == 0 && x.signNeg && !y.signNeg)
    (if less != mx then a else b, nv)

/-- The conditions of VFCMP (R73, R100) and their flags. -/
def fCmp (f : Fmt) (v : Env) (k a b : Nat) : Bool × Nat :=
  let x := unpack f v.daz a
  let y := unpack f v.daz b
  let un := x.isNan || y.isNan
  let c := x.cmp y
  let r := match k with
    | 0 => !un && c == 0
    | 1 => un || c != 0
    | 2 => !un && decide (c < 0)
    | 3 => !un && decide (c ≤ 0)
    | 4 => !un && decide (0 < c)
    | 5 => !un && decide (0 ≤ c)
    | 6 => un
    | _ => !un
  let ordered := k = 2 || k = 3 || k = 4 || k = 5
  (r, if (ordered && un) || x.isSig || y.isSig then flagNV else 0)

/-- A packed operation: each half on its own, the flags ORed (R95). -/
def packed2 (op : Nat → Nat → Nat → FR) (a b d : Nat) : FR :=
  let r0 := op (a % 2 ^ 16) (b % 2 ^ 16) (d % 2 ^ 16)
  let r1 := op (a / 2 ^ 16 % 2 ^ 16) (b / 2 ^ 16 % 2 ^ 16) (d / 2 ^ 16 % 2 ^ 16)
  (r0.1 + 2 ^ 16 * r1.1, r0.2 ||| r1.2)

/-- VDOT2 (R138): halves in format g, sum in f32 with one rounding. -/
def fDot2 (g : Fmt) (v : Env) (a b d : Nat) : FR :=
  let u (x : Nat) := unpack g v.daz (x % 2 ^ 16)
  sumR .f32 v [(u a).mul (u b), (u (a / 2 ^ 16)).mul (u (b / 2 ^ 16)), unpack .f32 v.daz d]

/-! ## Integers -/

/-- The signed value of the low w bits (R92). -/
def sx (w x : Nat) : Int :=
  let x := x % 2 ^ w
  if x < 2 ^ (w - 1) then x else (x : Int) - 2 ^ w

/-- An exact integer reduced modulo 2^w (R92). -/
def ux (w : Nat) (z : Int) : Nat := (z % 2 ^ w).toNat

def divS (w a b : Nat) : Nat := if b = 0 then 2 ^ w - 1 else ux w ((sx w a).tdiv (sx w b))
def divU (w a b : Nat) : Nat := if b = 0 then 2 ^ w - 1 else a / b
def remS (w a b : Nat) : Nat := if b = 0 then a else ux w ((sx w a).tmod (sx w b))
def remU (_w a b : Nat) : Nat := if b = 0 then a else a % b

/-- The integer conditions of R73. -/
def icond (w k a b : Nat) : Bool :=
  match k with
  | 0 => a == b
  | 1 => a != b
  | 2 => decide (sx w a < sx w b)
  | 3 => decide (sx w a ≤ sx w b)
  | 4 => decide (sx w b < sx w a)
  | 5 => decide (sx w b ≤ sx w a)
  | 6 => decide (a < b)
  | 7 => decide (a ≤ b)
  | 8 => decide (b < a)
  | _ => decide (b ≤ a)

def mulhS (w a b : Nat) : Nat := ux w ((sx w a * sx w b).fdiv (2 ^ w))
def mulhU (w a b : Nat) : Nat := a * b / 2 ^ w
def sarU (w a n : Nat) : Nat := ux w ((sx w a).fdiv (2 ^ n))
def minS (w a b : Nat) : Nat := if sx w a ≤ sx w b then a else b
def maxS (w a b : Nat) : Nat := if sx w a ≤ sx w b then b else a
def absU (w a : Nat) : Nat := ux w (sx w a).natAbs

/-- The number of 1 bits among the low n bits. -/
def popc (x : Nat) : Nat → Nat
  | 0 => 0
  | n + 1 => (if x.testBit n then 1 else 0) + popc x n

/-- Leading zero bits of the low n bits. -/
def clz (x : Nat) : Nat → Nat
  | 0 => 0
  | n + 1 => if x.testBit n then 0 else 1 + clz x n

/-- The low n bits reversed. -/
def brev (x : Nat) : Nat → Nat
  | 0 => 0
  | n + 1 => (if x.testBit n then 1 else 0) + 2 * brev x n

/-- The field that BFE and BFI read from their second operand (R142): position and length, clipped; none if empty. -/
def bfField (w s : Nat) : Option (Nat × Nat) :=
  let pos := s % 64
  let len := s / 256 % 128
  if w ≤ pos || len == 0 then none else some (pos, min len (w - pos))

def bfe (w x s : Nat) : Nat :=
  match bfField w s with
  | none => 0
  | some (p, n) => x / 2 ^ p % 2 ^ n

def bfi (w x s old : Nat) : Nat :=
  match bfField w s with
  | none => old
  | some (p, n) => old - (old / 2 ^ p % 2 ^ n) * 2 ^ p + x % 2 ^ n * 2 ^ p

/-! ## Functions (R144) -/

/-- The integer square root of s, found bit by bit from bit n - 1 down. -/
def isqrt (s : Nat) : Nat → Nat → Nat
  | 0, r => r
  | n + 1, r => isqrt s n (if (r + 2 ^ n) * (r + 2 ^ n) ≤ s then r + 2 ^ n else r)

/-- The fixed-point precision, in bits, in which EXP2 and LOG2 are computed before their rounding. -/
def fxP : Nat := 320

/-- The sum of z^(2k+1) / (2k+1) in fixed point: atanh z, with n terms. -/
def atanhFx (z2 : Nat) : Nat → Nat → Nat → Nat
  | 0, _, _ => 0
  | n + 1, p, k => p / k + atanhFx z2 n (p * z2 / 2 ^ fxP) (k + 2)

/-- ln((a - b) / (a + b) form): twice atanh of num / den. -/
def lnFx (num den : Nat) : Nat :=
  let z := num * 2 ^ fxP / den
  2 * atanhFx (z * z / 2 ^ fxP) 130 z 1

def ln2Fx : Nat := lnFx 1 3

/-- e^t in fixed point for 0 ≤ t < 1: n terms, p the current term. -/
def expFx (t : Nat) : Nat → Nat → Nat → Nat
  | 0, _, _ => 0
  | n + 1, p, k => p + expFx t n (p * t / 2 ^ fxP / k) (k + 1)

def recipR (f : Fmt) (v : Env) (neg : Bool) (m : Nat) (e : Int) : FR :=
  let k := Nat.log2 m + 70
  roundTo f v false neg (2 ^ k / m) (-(k : Int) - e) (2 ^ k % m != 0)

def sqrtR (f : Fmt) (v : Env) (m : Nat) (e : Int) : FR :=
  let odd := e.emod 2 = 1
  let m := if odd then 2 * m else m
  let h := (if odd then e - 1 else e).ediv 2
  let s := m * 2 ^ 128
  let r := isqrt s (Nat.log2 s / 2 + 1) 0
  roundTo f v false false r (h - 64) (r * r != s)

def rsqrtR (f : Fmt) (v : Env) (m : Nat) (e : Int) : FR :=
  let odd := e.emod 2 = 1
  let m := if odd then 2 * m else m
  let h := (if odd then e - 1 else e).ediv 2
  let k := Nat.log2 m / 2 + 70
  let s := 2 ^ (2 * k) / m
  let r := isqrt s (Nat.log2 s / 2 + 1) 0
  roundTo f v false false r (-(k : Int) - h) (r * r * m != 2 ^ (2 * k))

/-- 2 to a finite value. Beyond 2^12 in magnitude the rounding is that of 2^±5000 and a little more. -/
def exp2R (f : Fmt) (v : Env) (neg : Bool) (m : Nat) (e : Int) : FR :=
  if m = 0 then roundTo f v false false 1 0 false
  else if 12 < (Nat.log2 m : Int) + e then roundTo f v false false 1 (if neg then -5000 else 5000) true
  else
    -- the value as an integer multiple of 2^-320 (exact: every format's least exponent lies above)
    let x : Int := (if neg then -1 else 1) * (m * 2 ^ (e + fxP).toNat : Nat)
    let n := x.fdiv (2 ^ fxP)
    let fr := (x - n * 2 ^ fxP).toNat
    if fr = 0 then roundTo f v false false 1 n false
    else roundTo f v false false (expFx (fr * ln2Fx / 2 ^ fxP) 90 (2 ^ fxP) 1) (n - fxP) true

/-- The logarithm of a positive finite value. -/
def log2R (f : Fmt) (v : Env) (m : Nat) (e : Int) : FR :=
  let l := Nat.log2 m
  let ex : Int := l + e
  if m = 2 ^ l then
    (if ex = 0 then (0, 0) else roundTo f v false (ex < 0) ex.natAbs 0 false)
  else
    let y := lnFx (m - 2 ^ l) (m + 2 ^ l) * 2 ^ fxP / ln2Fx
    let z := ex * 2 ^ fxP + y
    roundTo f v false (z < 0) z.natAbs (-(fxP : Int)) true

/-- VFUN RCP 0, RSQRT 1, SQRT 2, EXP2 3, LOG2 4 (R144). -/
def fFun (op : Nat) (f : Fmt) (v : Env) (a : Nat) : FR :=
  let inf (n : Bool) := f.signBit n + f.inf
  match op, unpack f v.daz a with
  | _, .nan s => (f.nan, if s then flagNV else 0)
  | 0, .inf n => (f.signBit n, 0)
  | 0, .fin n m e => if m = 0 then (inf n, flagDZ) else recipR f v n m e
  | 1, .inf n => if n then (f.nan, flagNV) else (0, 0)
  | 1, .fin n m e => if m = 0 then (inf false, flagDZ) else if n then (f.nan, flagNV) else rsqrtR f v m e
  | 2, .inf n => if n then (f.nan, flagNV) else (inf false, 0)
  | 2, .fin n m e => if m = 0 then (f.signBit n, 0) else if n then (f.nan, flagNV) else sqrtR f v m e
  | 3, .inf n => if n then (0, 0) else (inf false, 0)
  | 3, .fin n m e => exp2R f v n m e
  | _, .inf n => if n then (f.nan, flagNV) else (inf false, 0)
  | _, .fin n m e => if m = 0 then (inf true, flagDZ) else if n then (f.nan, flagNV) else log2R f v m e

/-- VFUN ABS 5, NEG 6, MOV 7: bit operations (R99). -/
def fBit (op : Nat) (f : Fmt) (a : Nat) : FR :=
  let s := 2 ^ (f.eb + f.mb)
  let body := a % s
  let top := a / s % 2
  (match op with
    | 5 => body
    | 6 => body + (1 - top) * s
    | _ => body + top * s, 0)

/-! ## Conversions (R101 to R103) -/

/-- The floating-point formats of VCVT's codes 0 to 5 (R73). -/
def cvtFmt (c : Nat) : Fmt :=
  match c with
  | 0 => .f32
  | 1 => .f64
  | 2 => .f16
  | 3 => .bf16
  | 4 => .e4m3f
  | _ => .e5m2

/-- Width and signedness of VCVT's integer codes 6 to 11. -/
def cvtInt (c : Nat) : Nat × Bool :=
  match c with
  | 6 => (32, true)
  | 7 => (32, false)
  | 8 => (64, true)
  | 9 => (64, false)
  | 10 => (16, true)
  | _ => (8, true)

/-- The conversions that are exact (R101): widening ones between IEEE formats, and E4M3 or E5M2 to a wider format. BF16
widens to f32 and f64, as its fraction and its range lie inside theirs. -/
def cvtExact (dst src : Nat) : Bool :=
  (src = 0 && dst = 1) || (src = 2 && (dst = 0 || dst = 1)) || (src = 3 && (dst = 0 || dst = 1))
    || ((src = 4 || src = 5) && dst < 4)

/-- Float to float (R101). -/
def cvtFF (v : Env) (dst src x : Nat) : FR :=
  let f := cvtFmt dst
  let sat := v.sat && !cvtExact dst src
  match unpack (cvtFmt src) v.daz x with
  | .nan s => if sat then (0, flagNV) else (f.nan, if s then flagNV else 0)
  | .inf n =>
    if sat then (f.signBit n + f.max, flagNX)
    else if f.e4m3 then (0x7F, 0) else (f.signBit n + f.inf, 0)
  | .fin n m e => if m = 0 then (f.signBit n, 0) else roundTo f v sat n m e false

/-- Float to integer (R102). -/
def cvtFI (v : Env) (dst src x : Nat) : FR :=
  let (w, sg) := cvtInt dst
  let lo : Int := if sg then -(2 ^ (w - 1)) else 0
  let hi : Int := if sg then 2 ^ (w - 1) - 1 else 2 ^ w - 1
  let bad := if sg then 2 ^ (w - 1) else 2 ^ w - 1
  match unpack (cvtFmt src) v.daz x with
  | .nan _ => (if v.sat then 0 else bad, flagNV)
  | .inf n => (if v.sat then ux w (if n then lo else hi) else bad, flagNV)
  | .fin n m e =>
    let (r, ine) := roundAt v.rm n m e false 0
    let z : Int := if n then -(r : Int) else r
    if z < lo then (if v.sat then ux w lo else bad, flagNV)
    else if hi < z then (if v.sat then ux w hi else bad, flagNV)
    else (ux w z, if ine then flagNX else 0)

/-- Integer to float (R103). -/
def cvtIF (v : Env) (dst src x : Nat) : FR :=
  let (w, sg) := cvtInt src
  let z : Int := if sg then sx w x else (x % 2 ^ w : Nat)
  if z = 0 then (0, 0) else roundTo (cvtFmt dst) v (v.sat && dst = 4) (z < 0) z.natAbs 0 false

/-- VCVT (R145): the source field of a register, converted, as the destination register holds it. -/
def cvt (v : Env) (dst src x : Nat) : FR :=
  if src < 6 && dst < 6 then cvtFF v dst src (x % 2 ^ (cvtFmt src).width)
  else if src < 6 then
    let (r, fl) := cvtFI v dst src (x % 2 ^ (cvtFmt src).width)
    -- a narrow signed destination fills its register with copies of its sign
    ((if dst = 10 then ux 32 (sx 16 r) else if dst = 11 then ux 32 (sx 8 r) else r), fl)
  else cvtIF v dst src x

/-! ## The matrix sum (R104 to R107) -/

/-- The value of a trit code (R104). -/
def tval (c : Nat) : Int := if c = 1 then 1 else if c = 3 then -1 else 0

/-- One element of the matrix sum (R106) from its exact integer P, the scale codes and the accumulator's bits. -/
def matElem (p : Int) (ea sw acc : Nat) : FR :=
  let a := unpack .f32 false acc
  let s := unpack .e4m3f false sw
  let nv := if ea = 0xFF || s.isNan || a.isSig then flagNV else 0
  if ea = 0xFF || s.isNan || a.isNan then (Fmt.nan .f32, nv)
  else
    let x := FV.mul (.fin (p < 0) p.natAbs ((ea : Int) - 127)) s
    -- a product beyond the largest finite value becomes an infinity
    let big := match x with
      | .fin _ m e => decide (m ≠ 0) && (decide (128 ≤ (Nat.log2 m : Int) + e)
          || decide (sumAt (min e 104) [.fin false (2 ^ 24 - 1) 104] < sumAt (min e 104) [.fin false m e]))
      | _ => false
    let x := if big then .inf x.signNeg else x
    let r := sumR .f32 .plain [a, x]
    (r.1, r.2 ||| (if big then flagOF ||| flagNX else 0))

end Sys2Proof.Machine
end

