-- ==== Sys2Proof/Config.lean ====
section
/-! DEFINITION. What is fixed for one part, and the values the spec leaves free. A free value is an opaque constant:
nothing can evaluate it, so a statement about it holds whatever it is. -/
namespace Sys2Proof.Config

/-- SHA-384 (R336, R337): the spec names the hash and does not define it, so it is left free (log entry 8). -/
opaque sha384 : List Byte → BitVec 384
/-- Whether an RSASSA-PSS signature of a message verifies under a key (R336; log entry 8). -/
opaque rsaVerifies : List Byte → List Byte → List Byte → Bool
/-- Whether an SLH-DSA-SHA2-192s signature of a message verifies under a key (R336; log entry 8). -/
opaque slhVerifies : List Byte → List Byte → List Byte → Bool
/-- The part's RSASSA-PSS signature of an attestation report (R338; log entry 8). -/
opaque rsaSign : List Nat → List Byte
/-- The part's SLH-DSA signature of an attestation report (R338; log entry 8). -/
opaque slhSign : List Nat → List Byte
/-- The part's certificates, carried in an attestation report (R338; log entry 8). -/
opaque certificates : List Byte
/-- The digests fused for the two public keys (R336; log entry 8). -/
opaque fusedKeyA : BitVec 384
opaque fusedKeyB : BitVec 384
/-- The controller's boot code in mask ROM and the fuse block as bytes (R337; log entry 8). -/
opaque bootRom : List Byte
opaque fuseBlock : List Byte
/-- Whether the part holds a furrow's register in uniform form after the n-th full write of one value (R91; log entry 9). -/
opaque holdsUniform : Nat → Bool

/-- Which of several broken group rules ILLEGAL_GROUP reports (R59 gives no order; log entry 18). -/
opaque groupReason : Nat → Nat

/-- Which of the values that R81 allows a read of an unobserved window element returns (log entry 10). -/
opaque windowChoice : Nat → Nat
/-- Whether the store with an identifier waits in its core before it performs at .core (R209, R211; log entry 13). -/
opaque storeWaits : Nat → Bool
/-- Which barrier networks the code of a co-resident sowing uses: bit 0 those of its domains, bit 1 the wafer's (R276; log entry 17). -/
opaque needsNets : Nat → Nat
/-- Whether a pending atomic has come to its unit when the unit's column is fenced (R189; log entry 19). -/
opaque atUnit : Nat → Bool
/-- The LEAD field that a guest reads which does not hold the lead domain (R252, R351; log entry 25). -/
opaque guestLead : Nat → Nat
/-- How many cycles of the n-th span of a core's clock a ready team was not issued, and how many were lost to full bank queues
(R281; log entry 7). -/
opaque idleCycles : Nat → Nat
opaque bankCycles : Nat → Nat

/-- The fixed hash by which a 256-byte block chooses among the ports to a node (R346 gives no function; log entry 24). -/
opaque portHash : Nat → Nat

/-- PARTID (R87): the part 0x0072, stepping A1, grade W72-S. DESIGN CHOICE among the codes R1 and R339 allow (log entry 5). -/
def partid : Word := 0x0072A101#32
/-- The fused minimum image version (R336). DESIGN CHOICE: the spec gives no value (log entry 5). -/
def minVersion : Nat := 0
/-- NOMBUD of the band map's header, in 1/16 W (R339). DESIGN CHOICE: fused, no value given (log entry 5). -/
def nomBud : Nat := 400
/-- The band map's entry of a domain (R339): FX, FA, FB, FC of grade W72-S, in units of 10 MHz. -/
def bandFX (_ : Nat) : Nat := 230
def bandFA (_ : Nat) : Nat := 130
def bandFB (_ : Nat) : Nat := 170
def bandFC (_ : Nat) : Nat := 200
/-- The band map's words (R339): the header, with NOMBUD and PARTID's GRADE, and the entry of a domain. -/
def bandHeader : Nat := nomBud % 2 ^ 16 * 2 ^ 16 + partid.toNat % 2 ^ 8
def bandEntry (d : Nat) : Nat := bandFX d * 2 ^ 24 + bandFA d * 2 ^ 16 + bandFB d * 2 ^ 8 + bandFC d
/-- The reservation units an arbiter grants at reset (R342). DESIGN CHOICE: derived by firmware's own policy (log entry 16). -/
def resetCapacity : Nat := 64

end Sys2Proof.Config
end

