-- ==== Sys2Proof/Machine/Table.lean ====
section
/-! DEFINITION. Sparse tables and byte memories: key and value pairs, the keys strictly rising.
A memory lists no byte that equals what an unlisted address reads as, so equal memories are equal lists. -/
namespace Sys2Proof.Machine

/-- A sparse table: pairs of a key and a value, the keys strictly rising. -/
abbrev Tbl (α : Type) := List (Nat × α)

/-- The value listed at a key, if one is. -/
def Tbl.find? {α : Type} (t : Tbl α) (k : Nat) : Option α :=
  match t with
  | [] => none
  | (k', v) :: r => if k' = k then some v else Tbl.find? r k

/-- The value at a key, or the default of the table's keys. -/
def Tbl.getD {α : Type} (t : Tbl α) (k : Nat) (d : α) : α := (Tbl.find? t k).getD d

/-- The table with a value at a key. -/
def Tbl.set {α : Type} (t : Tbl α) (k : Nat) (v : α) : Tbl α :=
  match t with
  | [] => [(k, v)]
  | (k', v') :: r =>
    if k < k' then (k, v) :: (k', v') :: r
    else if k = k' then (k, v) :: r
    else (k', v') :: Tbl.set r k v

/-- The table without a key. -/
def Tbl.erase {α : Type} (t : Tbl α) (k : Nat) : Tbl α := t.filter fun p => p.1 != k

/-- The table with a value at a key, listed only where it differs from the default. -/
def Tbl.put {α : Type} [DecidableEq α] (t : Tbl α) (k : Nat) (v d : α) : Tbl α :=
  if v = d then Tbl.erase t k else Tbl.set t k v

/-- The values of a table, in key order. -/
def Tbl.vals {α : Type} (t : Tbl α) : List α := t.map (·.2)

/-- Every value of a table changed. -/
def Tbl.mapV {α : Type} (f : α → α) (t : Tbl α) : Tbl α := t.map fun p => (p.1, f p.2)

/-- A value put before the first one of a list that it precedes. -/
def insertBy {α : Type} (le : α → α → Bool) (a : α) : List α → List α
  | [] => [a]
  | b :: r => if le a b then a :: b :: r else b :: insertBy le a r

/-- A list in order. -/
def sortBy {α : Type} (le : α → α → Bool) (l : List α) : List α := l.foldr (insertBy le) []

/-- A byte memory: every address reads as 0 unless it is listed (log entry 4). -/
abbrev Mem := Tbl (BitVec 8)

/-- The byte at an address. -/
def Mem.get (m : Mem) (a : Nat) : BitVec 8 := Tbl.getD m a 0
/-- The memory with one byte written. -/
def Mem.set (m : Mem) (a : Nat) (b : BitVec 8) : Mem := Tbl.put m a b 0

/-- n bytes from an address, little-endian (R79). -/
def Mem.read (m : Mem) (a : Nat) : Nat → Nat
  | 0 => 0
  | n + 1 => (Mem.get m a).toNat + 256 * Mem.read m (a + 1) n

/-- The memory with n bytes of a value written from an address, little-endian (R79). -/
def Mem.write (m : Mem) (a v : Nat) : Nat → Mem
  | 0 => m
  | n + 1 => Mem.write (Mem.set m a (BitVec.ofNat 8 v)) (a + 1) (v / 256) n

/-- The canonical form: keys strictly rising above a bound, no value equal to the default. -/
def Tbl.wfFrom {α : Type} [DecidableEq α] (d : α) : Nat → Tbl α → Bool
  | _, [] => true
  | lo, (k, v) :: r => decide (lo ≤ k) && decide (v ≠ d) && Tbl.wfFrom d (k + 1) r

/-- The canonical form of a byte memory. -/
def Mem.wf (m : Mem) : Bool := Tbl.wfFrom 0 0 m

end Sys2Proof.Machine
end

