-- ==== Sys2Proof/Syntax.lean ====
section
/-! DEFINITION. The steps of the part: one constructor for each row of the table of operations and events.
The fields of an instruction word stand as the table names them (d, a, b, q, k and so on), the E word's payload
as e; the chain bit is no field, since it says only how words form a group (R59). An event has no fields: which thing
it happens to, and what it brings from outside the wafer, stand in the turn that runs it (Machine/State.lean, Input).
The constructors without fields stand last: Lean compiles at most 245 with fields, and only as the first ones. -/
namespace Sys2Proof

/-- One step of the part (R68 to R73, R299, R300; the events are those of the table). -/
inductive Instr where
  /-- R136: Adds per lane with one rounding under FMT. -/
  | vadd (d : BitVec 8) (a : BitVec 8) (b : BitVec 8) (e : EPay)
  /-- R136: VADD with B taken from a uniform register. -/
  | vaddBu (d : BitVec 8) (a : BitVec 8) (b : BitVec 8) (e : EPay)
  /-- R136: Subtracts per lane with one rounding. -/
  | vsub (d : BitVec 8) (a : BitVec 8) (b : BitVec 8) (e : EPay)
  /-- R136: VSUB with a uniform B. -/
  | vsubBu (d : BitVec 8) (a : BitVec 8) (b : BitVec 8) (e : EPay)
  /-- R136: Multiplies per lane with one rounding. -/
  | vmul (d : BitVec 8) (a : BitVec 8) (b : BitVec 8) (e : EPay)
  /-- R136: VMUL with a uniform B. -/
  | vmulBu (d : BitVec 8) (a : BitVec 8) (b : BitVec 8) (e : EPay)
  /-- R136: Takes minimumNumber per lane. -/
  | vmin (d : BitVec 8) (a : BitVec 8) (b : BitVec 8) (e : EPay)
  /-- R136: VMIN with a uniform B. -/
  | vminBu (d : BitVec 8) (a : BitVec 8) (b : BitVec 8) (e : EPay)
  /-- R136: Computes the fused multiply-add A × B + D per lane. -/
  | vfma (d : BitVec 8) (a : BitVec 8) (b : BitVec 8) (e : EPay)
  /-- R136: VFMA with a uniform B. -/
  | vfmaBu (d : BitVec 8) (a : BitVec 8) (b : BitVec 8) (e : EPay)
  /-- R136: Takes maximumNumber per lane. -/
  | vmax (d : BitVec 8) (a : BitVec 8) (b : BitVec 8) (e : EPay)
  /-- R136: VMAX with a uniform B. -/
  | vmaxBu (d : BitVec 8) (a : BitVec 8) (b : BitVec 8) (e : EPay)
  /-- R137: A floating-point compare that writes a predicate per lane. -/
  | vfcmp (k : BitVec 5) (p : BitVec 3) (a : BitVec 8) (b : BitVec 8) (e : EPay)
  /-- R137: VFCMP with a uniform B. -/
  | vfcmpBu (k : BitVec 5) (p : BitVec 3) (a : BitVec 8) (b : BitVec 8) (e : EPay)
  /-- R138: A packed two-element dot product accumulated into f32 with one rounding. -/
  | vdot2 (d : BitVec 8) (a : BitVec 8) (b : BitVec 8) (e : EPay)
  /-- R138: VDOT2 with a uniform B. -/
  | vdot2Bu (d : BitVec 8) (a : BitVec 8) (b : BitVec 8) (e : EPay)
  /-- R139: Integer add modulo 2^w. -/
  | viadd (d : BitVec 8) (a : BitVec 8) (b : BitVec 8) (e : EPay)
  /-- R139: VIADD with a uniform B. -/
  | viaddBu (d : BitVec 8) (a : BitVec 8) (b : BitVec 8) (e : EPay)
  /-- R139: Integer subtract modulo 2^w. -/
  | visub (d : BitVec 8) (a : BitVec 8) (b : BitVec 8) (e : EPay)
  /-- R139: VISUB with a uniform B. -/
  | visubBu (d : BitVec 8) (a : BitVec 8) (b : BitVec 8) (e : EPay)
  /-- R139: Low w bits of the integer product. -/
  | vimul (d : BitVec 8) (a : BitVec 8) (b : BitVec 8) (e : EPay)
  /-- R139: VIMUL with a uniform B. -/
  | vimulBu (d : BitVec 8) (a : BitVec 8) (b : BitVec 8) (e : EPay)
  /-- R140: Bitwise AND. -/
  | vialuAnd (d : BitVec 8) (a : BitVec 8) (u : BitVec 1) (e : EPay)
  /-- R140: Bitwise OR. -/
  | vialuOr (d : BitVec 8) (a : BitVec 8) (u : BitVec 1) (e : EPay)
  /-- R140: Bitwise XOR. -/
  | vialuXor (d : BitVec 8) (a : BitVec 8) (u : BitVec 1) (e : EPay)
  /-- R140: first AND NOT second. -/
  | vialuAndn (d : BitVec 8) (a : BitVec 8) (u : BitVec 1) (e : EPay)
  /-- R140: Shift left. -/
  | vialuShl (d : BitVec 8) (a : BitVec 8) (u : BitVec 1) (e : EPay)
  /-- R140: Logical shift right. -/
  | vialuShr (d : BitVec 8) (a : BitVec 8) (u : BitVec 1) (e : EPay)
  /-- R140: Arithmetic shift right. -/
  | vialuSar (d : BitVec 8) (a : BitVec 8) (u : BitVec 1) (e : EPay)
  /-- R140: Signed minimum. -/
  | vialuMins (d : BitVec 8) (a : BitVec 8) (u : BitVec 1) (e : EPay)
  /-- R140: Signed maximum. -/
  | vialuMaxs (d : BitVec 8) (a : BitVec 8) (u : BitVec 1) (e : EPay)
  /-- R140: Unsigned minimum. -/
  | vialuMinu (d : BitVec 8) (a : BitVec 8) (u : BitVec 1) (e : EPay)
  /-- R140: Unsigned maximum. -/
  | vialuMaxu (d : BitVec 8) (a : BitVec 8) (u : BitVec 1) (e : EPay)
  /-- R140: High half of the signed product. -/
  | vialuMulhs (d : BitVec 8) (a : BitVec 8) (u : BitVec 1) (e : EPay)
  /-- R140: High half of the unsigned product. -/
  | vialuMulhu (d : BitVec 8) (a : BitVec 8) (u : BitVec 1) (e : EPay)
  /-- R140: Signed truncating division; interlocked. -/
  | vialuDivs (d : BitVec 8) (a : BitVec 8) (u : BitVec 1) (e : EPay)
  /-- R140: Unsigned division; interlocked. -/
  | vialuDivu (d : BitVec 8) (a : BitVec 8) (u : BitVec 1) (e : EPay)
  /-- R140: Signed remainder; interlocked. -/
  | vialuRems (d : BitVec 8) (a : BitVec 8) (u : BitVec 1) (e : EPay)
  /-- R140: Unsigned remainder; interlocked. -/
  | vialuRemu (d : BitVec 8) (a : BitVec 8) (u : BitVec 1) (e : EPay)
  /-- R142: Extracts a bit field. -/
  | vialuBfe (d : BitVec 8) (a : BitVec 8) (u : BitVec 1) (e : EPay)
  /-- R142: Inserts a bit field into D. -/
  | vialuBfi (d : BitVec 8) (a : BitVec 8) (u : BitVec 1) (e : EPay)
  /-- R141: An integer compare into a predicate; it requires an E word. -/
  | vialuCmp (p : BitVec 3) (a : BitVec 8) (u : BitVec 1) (k : BitVec 4) (e : EPay)
  /-- R143: Moves, or broadcasts a uniform. -/
  | viunMov (d : BitVec 8) (a : BitVec 8) (u : BitVec 1) (e : EPay)
  /-- R143: Bitwise NOT. -/
  | viunNot (d : BitVec 8) (a : BitVec 8) (u : BitVec 1) (e : EPay)
  /-- R143: Integer negate. -/
  | viunNeg (d : BitVec 8) (a : BitVec 8) (u : BitVec 1) (e : EPay)
  /-- R143: Integer absolute value. -/
  | viunAbs (d : BitVec 8) (a : BitVec 8) (u : BitVec 1) (e : EPay)
  /-- R143: Population count. -/
  | viunPopc (d : BitVec 8) (a : BitVec 8) (u : BitVec 1) (e : EPay)
  /-- R143: Count of leading zeros. -/
  | viunClz (d : BitVec 8) (a : BitVec 8) (u : BitVec 1) (e : EPay)
  /-- R143: Bit reverse. -/
  | viunBrev (d : BitVec 8) (a : BitVec 8) (u : BitVec 1) (e : EPay)
  /-- R144: Correctly rounded reciprocal. -/
  | vfunRcp (d : BitVec 8) (a : BitVec 8) (t : BitVec 2) (e : EPay)
  /-- R144: Correctly rounded reciprocal square root. -/
  | vfunRsqrt (d : BitVec 8) (a : BitVec 8) (t : BitVec 2) (e : EPay)
  /-- R144: Correctly rounded square root. -/
  | vfunSqrt (d : BitVec 8) (a : BitVec 8) (t : BitVec 2) (e : EPay)
  /-- R144: Correctly rounded 2^x. -/
  | vfunExp2 (d : BitVec 8) (a : BitVec 8) (t : BitVec 2) (e : EPay)
  /-- R144: Correctly rounded log2. -/
  | vfunLog2 (d : BitVec 8) (a : BitVec 8) (t : BitVec 2) (e : EPay)
  /-- R144: Clears the sign bit. -/
  | vfunAbs (d : BitVec 8) (a : BitVec 8) (t : BitVec 2) (e : EPay)
  /-- R144: Flips the sign bit. -/
  | vfunNeg (d : BitVec 8) (a : BitVec 8) (t : BitVec 2) (e : EPay)
  /-- R144: Copies the bit pattern. -/
  | vfunMov (d : BitVec 8) (a : BitVec 8) (t : BitVec 2) (e : EPay)
  /-- R145: Converts between the number format codes. -/
  | vcvt (d : BitVec 8) (a : BitVec 8) (y : BitVec 4) (x : BitVec 4) (e : EPay)
  /-- R146: Moves values among the lane positions of a furrow. -/
  | vshuf (d : BitVec 8) (a : BitVec 8) (b : BitVec 8) (e : EPay)
  /-- R146: VSHUF with a uniform index. -/
  | vshufBu (d : BitVec 8) (a : BitVec 8) (b : BitVec 8) (e : EPay)
  /-- R147: Fixed-tree integer sum into a uniform register. -/
  | vredAdd (d : BitVec 8) (a : BitVec 8) (e : EPay)
  /-- R147: Signed minimum reduction. -/
  | vredMins (d : BitVec 8) (a : BitVec 8) (e : EPay)
  /-- R147: Signed maximum reduction. -/
  | vredMaxs (d : BitVec 8) (a : BitVec 8) (e : EPay)
  /-- R147: Unsigned minimum reduction. -/
  | vredMinu (d : BitVec 8) (a : BitVec 8) (e : EPay)
  /-- R147: Unsigned maximum reduction. -/
  | vredMaxu (d : BitVec 8) (a : BitVec 8) (e : EPay)
  /-- R147: AND reduction. -/
  | vredAnd (d : BitVec 8) (a : BitVec 8) (e : EPay)
  /-- R147: OR reduction. -/
  | vredOr (d : BitVec 8) (a : BitVec 8) (e : EPay)
  /-- R147: XOR reduction. -/
  | vredXor (d : BitVec 8) (a : BitVec 8) (e : EPay)
  /-- R147: Fixed-tree f32 sum. -/
  | vredFaddF32 (d : BitVec 8) (a : BitVec 8) (e : EPay)
  /-- R147: f32 minimum reduction. -/
  | vredFminF32 (d : BitVec 8) (a : BitVec 8) (e : EPay)
  /-- R147: f32 maximum reduction. -/
  | vredFmaxF32 (d : BitVec 8) (a : BitVec 8) (e : EPay)
  /-- R148: Reads the 32-bit register that each lane indexes. -/
  | vrdiB32 (d : BitVec 8) (a : BitVec 8) (e : EPay)
  /-- R148: Reads the 64-bit pair that each lane indexes. -/
  | vrdiB64 (d : BitVec 8) (a : BitVec 8) (e : EPay)
  /-- R148: Writes the 32-bit register that each lane indexes. -/
  | vwriB32 (d : BitVec 8) (a : BitVec 8) (e : EPay)
  /-- R148: Writes the 64-bit pair that each lane indexes. -/
  | vwriB64 (d : BitVec 8) (a : BitVec 8) (e : EPay)
  /-- R112: Uniform add. -/
  | uadd (d : BitVec 8) (a : BitVec 8) (b : BitVec 8) (e : EPay)
  /-- R112: Uniform subtract. -/
  | usub (d : BitVec 8) (a : BitVec 8) (b : BitVec 8) (e : EPay)
  /-- R112: Uniform multiply, low half. -/
  | umul (d : BitVec 8) (a : BitVec 8) (b : BitVec 8) (e : EPay)
  /-- R112: Signed high half of the product. -/
  | umulhs (d : BitVec 8) (a : BitVec 8) (b : BitVec 8) (e : EPay)
  /-- R112: Unsigned high half of the product. -/
  | umulhu (d : BitVec 8) (a : BitVec 8) (b : BitVec 8) (e : EPay)
  /-- R112: Signed divide; interlocked. -/
  | udivs (d : BitVec 8) (a : BitVec 8) (b : BitVec 8) (e : EPay)
  /-- R112: Unsigned divide; interlocked. -/
  | udivu (d : BitVec 8) (a : BitVec 8) (b : BitVec 8) (e : EPay)
  /-- R112: Signed remainder; interlocked. -/
  | urems (d : BitVec 8) (a : BitVec 8) (b : BitVec 8) (e : EPay)
  /-- R112: Unsigned remainder; interlocked. -/
  | uremu (d : BitVec 8) (a : BitVec 8) (b : BitVec 8) (e : EPay)
  /-- R112: Uniform AND. -/
  | uand (d : BitVec 8) (a : BitVec 8) (b : BitVec 8) (e : EPay)
  /-- R112: Uniform OR. -/
  | uor (d : BitVec 8) (a : BitVec 8) (b : BitVec 8) (e : EPay)
  /-- R112: Uniform XOR. -/
  | uxor (d : BitVec 8) (a : BitVec 8) (b : BitVec 8) (e : EPay)
  /-- R112: Uniform shift left. -/
  | ushl (d : BitVec 8) (a : BitVec 8) (b : BitVec 8) (e : EPay)
  /-- R112: Uniform logical shift right. -/
  | ushr (d : BitVec 8) (a : BitVec 8) (b : BitVec 8) (e : EPay)
  /-- R112: Uniform arithmetic shift right. -/
  | usar (d : BitVec 8) (a : BitVec 8) (b : BitVec 8) (e : EPay)
  /-- R113: Uniform move. -/
  | ualuMov (d : BitVec 8) (a : BitVec 8) (e : EPay)
  /-- R113: Uniform NOT. -/
  | ualuNot (d : BitVec 8) (a : BitVec 8) (e : EPay)
  /-- R113: Uniform negate. -/
  | ualuNeg (d : BitVec 8) (a : BitVec 8) (e : EPay)
  /-- R113: Uniform absolute value. -/
  | ualuAbs (d : BitVec 8) (a : BitVec 8) (e : EPay)
  /-- R113: Uniform population count. -/
  | ualuPopc (d : BitVec 8) (a : BitVec 8) (e : EPay)
  /-- R113: Uniform count of leading zeros. -/
  | ualuClz (d : BitVec 8) (a : BitVec 8) (e : EPay)
  /-- R113: Uniform bit reverse. -/
  | ualuBrev (d : BitVec 8) (a : BitVec 8) (e : EPay)
  /-- R113: Uniform signed minimum. -/
  | ualuMins (d : BitVec 8) (a : BitVec 8) (e : EPay)
  /-- R113: Uniform signed maximum. -/
  | ualuMaxs (d : BitVec 8) (a : BitVec 8) (e : EPay)
  /-- R113: Uniform unsigned minimum. -/
  | ualuMinu (d : BitVec 8) (a : BitVec 8) (e : EPay)
  /-- R113: Uniform unsigned maximum. -/
  | ualuMaxu (d : BitVec 8) (a : BitVec 8) (e : EPay)
  /-- R113: Uniform AND NOT. -/
  | ualuAndn (d : BitVec 8) (a : BitVec 8) (e : EPay)
  /-- R114: Writes the sign-extended imm16. -/
  | movi (d : BitVec 8) (i : BitVec 16) (e : EPay)
  /-- R114: Sets the upper 16 bits of a uniform register. -/
  | movhi (d : BitVec 8) (i : BitVec 16) (e : EPay)
  /-- R114: Adds the sign-extended imm16 to D. -/
  | addi (d : BitVec 8) (i : BitVec 16) (e : EPay)
  /-- R115: Uniform integer compare into q. -/
  | ucmp (k : BitVec 5) (p : BitVec 3) (a : BitVec 8) (b : BitVec 8) (e : EPay)
  /-- R115: Uniform compare against imm8 into q. -/
  | ucmpi (k : BitVec 5) (p : BitVec 3) (a : BitVec 8) (i : BitVec 8) (e : EPay)
  /-- R116: Selects A or B by its guard; it requires an E word. -/
  | usel (d : BitVec 8) (a : BitVec 8) (b : BitVec 8) (e : EPay)
  /-- R114: Shift left by an immediate. -/
  | ushli (d : BitVec 8) (a : BitVec 8) (i : BitVec 8) (e : EPay)
  /-- R114: Logical shift right by an immediate. -/
  | ushri (d : BitVec 8) (a : BitVec 8) (i : BitVec 8) (e : EPay)
  /-- R114: Arithmetic shift right by an immediate. -/
  | usari (d : BitVec 8) (a : BitVec 8) (i : BitVec 8) (e : EPay)
  /-- R114: AND with the zero-extended imm8. -/
  | uandi (d : BitVec 8) (a : BitVec 8) (i : BitVec 8) (e : EPay)
  /-- R117: qD := qA AND qB. -/
  | upredAnd (d : BitVec 3) (a : BitVec 3) (b : BitVec 3) (e : EPay)
  /-- R117: qD := qA OR qB. -/
  | upredOr (d : BitVec 3) (a : BitVec 3) (b : BitVec 3) (e : EPay)
  /-- R117: qD := qA XOR qB. -/
  | upredXor (d : BitVec 3) (a : BitVec 3) (b : BitVec 3) (e : EPay)
  /-- R117: qD := NOT qA. -/
  | upredNot (d : BitVec 3) (a : BitVec 3) (e : EPay)
  /-- R117: qD := qA. -/
  | upredMov (d : BitVec 3) (a : BitVec 3) (e : EPay)
  /-- R118: Reads 32 bits of the constant block. -/
  | ldcB32 (d : BitVec 8) (i : BitVec 16) (e : EPay)
  /-- R118: Reads 64 bits of the constant block into a pair. -/
  | ldcB64 (d : BitVec 8) (i : BitVec 16) (e : EPay)
  /-- R119: Writes FMT[4:0]. -/
  | setfmt (a : BitVec 8) (e : EPay)
  /-- R119: Reads FMT into a uniform register. -/
  | getfmt (d : BitVec 8) (e : EPay)
  /-- R119: Reads TSTAT into a uniform register. -/
  | getst (d : BitVec 8) (e : EPay)
  /-- R119: Writes TSTAT[7:0]. -/
  | setst (a : BitVec 8) (e : EPay)
  /-- R193: Loads a zero-extended byte per lane. -/
  | ldB8 (d : BitVec 8) (a : BitVec 8) (q : BitVec 8) (e : EPay)
  /-- R193: Loads 32 bits per lane. -/
  | ldB32 (d : BitVec 8) (a : BitVec 8) (q : BitVec 8) (e : EPay)
  /-- R193: Loads a zero-extended halfword per lane. -/
  | ldB16 (d : BitVec 8) (a : BitVec 8) (q : BitVec 8) (e : EPay)
  /-- R193: Loads 64 bits per lane. -/
  | ldB64 (d : BitVec 8) (a : BitVec 8) (q : BitVec 8) (e : EPay)
  /-- R193: Loads 128 bits per lane. -/
  | ldB128 (d : BitVec 8) (a : BitVec 8) (q : BitVec 8) (e : EPay)
  /-- R193: Loads a sign-extended byte per lane. -/
  | ldS8 (d : BitVec 8) (a : BitVec 8) (q : BitVec 8) (e : EPay)
  /-- R193: Loads a sign-extended halfword per lane. -/
  | ldS16 (d : BitVec 8) (a : BitVec 8) (q : BitVec 8) (e : EPay)
  /-- R193: Uniform 32-bit load. -/
  | uldB32 (d : BitVec 8) (a : BitVec 8) (q : BitVec 8) (e : EPay)
  /-- R193: Stores a byte per lane. -/
  | stB8 (d : BitVec 8) (a : BitVec 8) (q : BitVec 8) (e : EPay)
  /-- R193: Stores 32 bits per lane. -/
  | stB32 (d : BitVec 8) (a : BitVec 8) (q : BitVec 8) (e : EPay)
  /-- R193: Stores a halfword per lane. -/
  | stB16 (d : BitVec 8) (a : BitVec 8) (q : BitVec 8) (e : EPay)
  /-- R193: Stores 64 bits per lane. -/
  | stB64 (d : BitVec 8) (a : BitVec 8) (q : BitVec 8) (e : EPay)
  /-- R193: Stores 128 bits per lane. -/
  | stB128 (d : BitVec 8) (a : BitVec 8) (q : BitVec 8) (e : EPay)
  /-- R193: Uniform 32-bit store. -/
  | ustB32 (d : BitVec 8) (a : BitVec 8) (q : BitVec 8) (e : EPay)
  /-- R193: Uniform 64-bit load. -/
  | uldB64 (d : BitVec 8) (a : BitVec 8) (q : BitVec 8) (e : EPay)
  /-- R193: Uniform 64-bit store. -/
  | ustB64 (d : BitVec 8) (a : BitVec 8) (q : BitVec 8) (e : EPay)
  /-- R197: 32-bit atomic read-modify-write per lane; it requires an E word. -/
  | atomB32 (d : BitVec 8) (a : BitVec 8) (q : BitVec 8) (e : EPay)
  /-- R197: 64-bit atomic per lane; it requires an E word. -/
  | atomB64 (d : BitVec 8) (a : BitVec 8) (q : BitVec 8) (e : EPay)
  /-- R198: Floating-point atomic at the home unit; it requires an E word. -/
  | fatom (d : BitVec 8) (a : BitVec 8) (q : BitVec 8) (e : EPay)
  /-- R197: Uniform 32-bit atomic; it requires an E word. -/
  | uatomB32 (d : BitVec 8) (a : BitVec 8) (q : BitVec 8) (e : EPay)
  /-- R200: An acquire or release fence at a scope. -/
  | fence (o : BitVec 3) (s : BitVec 3)
  /-- R201: Prefetches the line into L1 and the level below. -/
  | prefetchL1 (a : BitVec 8) (m : BitVec 2) (e : EPay)
  /-- R201: Prefetches the line into the virtual cache only. -/
  | prefetchVc (a : BitVec 8) (m : BitVec 2) (e : EPay)
  /-- R202: Fleeting load with a liveness word. -/
  | fld (d : BitVec 8) (a : BitVec 8) (q : BitVec 8) (e : EPay)
  /-- R202: Fleeting store with a liveness word. -/
  | fst (d : BitVec 8) (a : BitVec 8) (q : BitVec 8) (e : EPay)
  /-- R204: Zeroes a fleeting tile and births it at the perform tick. -/
  | fbirth (d : BitVec 8) (a : BitVec 8)
  /-- R204: Restamps a live tile's birth. -/
  | frenew (d : BitVec 8) (a : BitVec 8)
  /-- R204: Returns a tile's remaining life. -/
  | flife (d : BitVec 8) (a : BitVec 8)
  /-- R154: Writes a tile control register. -/
  | tshape (d : BitVec 8) (a : BitVec 8)
  /-- R155: Posts a matrix FIFO entry that zeroes a tile or accumulator. -/
  | tzero (d : BitVec 8) (a : BitVec 8)
  /-- R156: Loads a tile asynchronously from memory or scratchpad. -/
  | tld (d : BitVec 8) (a : BitVec 8) (q : BitVec 8)
  /-- R156: Stores an accumulator asynchronously in the block layout. -/
  | tst (d : BitVec 8) (a : BitVec 8) (q : BitVec 8)
  /-- R158: Fetches a tile through the copy engine using a tile handle. -/
  | tfetch (d : BitVec 8) (a : BitVec 8) (r : BitVec 1) (s : BitVec 3) (l : BitVec 1)
  /-- R193: Uniform 128-bit load. -/
  | uldB128 (d : BitVec 8) (a : BitVec 8) (q : BitVec 8) (e : EPay)
  /-- R193: Uniform 128-bit store. -/
  | ustB128 (d : BitVec 8) (a : BitVec 8) (q : BitVec 8) (e : EPay)
  /-- R123: Relative branch on a uniform predicate. -/
  | bra (n : BitVec 1) (q : BitVec 3) (i : BitVec 16)
  /-- R123: Writes the link and branches relative. -/
  | call (d : BitVec 8) (i : BitVec 16)
  /-- R124: Writes the link and jumps to a register pair. -/
  | jmp (d : BitVec 8) (a : BitVec 8)
  /-- R124: Returns to a register pair. -/
  | ret (a : BitVec 8)
  /-- R125: Divergent branch that pushes the reconvergence stack; it requires an E word. -/
  | brv (n : BitVec 1) (q : BitVec 3) (i : BitVec 16) (e : EPay)
  /-- R126: q := any masked lane has the predicate set. -/
  | qredAny (d : BitVec 3) (a : BitVec 3)
  /-- R126: q := every masked lane has the predicate set. -/
  | qredAll (d : BitVec 3) (a : BitVec 3)
  /-- R129: Parks until an in-flight counter is at most the threshold. -/
  | waitc (d : BitVec 8) (a : BitVec 8)
  /-- R130: Raises a TRAP-class trap after its group. -/
  | trap (i : BitVec 16)
  /-- R277: Parks in the watch table unless the watched word differs from the expected value. -/
  | waita (d : BitVec 8) (a : BitVec 8) (o : BitVec 6)
  /-- R279: Stores a word and wakes the oldest waiter of its block. -/
  | wakea (d : BitVec 8) (a : BitVec 8) (o : BitVec 6)
  /-- R273: Initialises a byte barrier or completion register. -/
  | barinit (d : BitVec 8) (a : BitVec 8)
  /-- R273: Arms a barrier or adds to its expected bytes. -/
  | bararm (d : BitVec 8) (a : BitVec 8)
  /-- R274: Waits for a barrier phase or completion register, then acquires and checks for faults. -/
  | barwait (d : BitVec 8) (a : BitVec 8)
  /-- R132: Reads 32 bits of a CSR. -/
  | csrr (d : BitVec 8) (i : BitVec 16)
  /-- R132: Writes 32 bits of a writable CSR. -/
  | csrw (d : BitVec 8) (i : BitVec 16)
  /-- R133: Pulls the wafer-wide snapshot trip line with a tag. -/
  | snap (a : BitVec 8)
  /-- R161: Posts a ternary matrix block product; it requires an E word. -/
  | tmma (d : BitVec 8) (a : BitVec 8) (b : BitVec 8) (e : EPay)
  /-- R162: TMMA with weights fetched from memory by handle; it requires an E word. -/
  | tmmaf (d : BitVec 8) (a : BitVec 8) (b : BitVec 8) (e : EPay)
  /-- R227: Queues a strided copy-engine command. -/
  | copy (d : BitVec 8) (a : BitVec 8) (r : BitVec 1) (e : BitVec 1) (s : BitVec 3) (m : BitVec 1) (n : BitVec 1) (f : BitVec 1)
  /-- R228: Queues a masked row-gather copy that packs the selected rows. -/
  | copyg (d : BitVec 8) (a : BitVec 8) (r : BitVec 1) (e : BitVec 1) (s : BitVec 3) (m : BitVec 1) (n : BitVec 1) (f : BitVec 1)
  /-- R229: Queues a broadcast fetch to the cores of the quad that the mask names. -/
  | copyb (d : BitVec 8) (a : BitVec 8) (r : BitVec 1) (s : BitVec 3) (m : BitVec 4)
  /-- R231: Indexed reduction read through the memory-side reduce units. -/
  | iredM (d : BitVec 8) (a : BitVec 8)
  /-- R232: Coherent indexed reduction at the home's atomic units. -/
  | iredC (d : BitVec 8) (a : BitVec 8)
  /-- R235: Launches a sowing from eight launch words and returns a status and identifier. -/
  | sow (d : BitVec 8) (a : BitVec 8) (r : BitVec 1) (s : BitVec 3)
  /-- R205: Writes back the dirty virtual-cache lines of an interval. -/
  | vclean (d : BitVec 8) (a : BitVec 8)
  /-- R205: Drops every cached line of an interval without write-back. -/
  | vinval (d : BitVec 8) (a : BitVec 8)
  /-- R205: Writes back, then drops, every cached line of an interval. -/
  | vcflush (d : BitVec 8) (a : BitVec 8)
  /-- R206: Reports how a page is cached. -/
  | vcquery (d : BitVec 8) (a : BitVec 8)
  /-- R262: Defines or retires a virtual cache from a 64-byte image. -/
  | vcdef (d : BitVec 8) (a : BitVec 8)
  /-- R263: Starts a live migration of a virtual cache to a new geometry. -/
  | vcresize (d : BitVec 8) (a : BitVec 8)
  /-- R264: Writes one range-set entry of a sowing. -/
  | rgset (d : BitVec 8) (a : BitVec 8)
  /-- R265: Drops cached translations and hints of pages and replays moving-page waits. -/
  | ptinv (d : BitVec 8) (a : BitVec 8)
  /-- R266: Replays a wait entry by token or page, readying its glean entries and waking its parked loads. -/
  | replay (d : BitVec 8) (a : BitVec 8)
  /-- R302: Loam masked vector add. -/
  | loamVadd (d : BitVec 5) (a : BitVec 5) (b : BitVec 5) (k : BitVec 2) (t : BitVec 3) (x : BitVec 1)
  /-- R302: Loam masked vector subtract. -/
  | loamVsub (d : BitVec 5) (a : BitVec 5) (b : BitVec 5) (k : BitVec 2) (t : BitVec 3) (x : BitVec 1)
  /-- R302: Loam masked vector multiply. -/
  | loamVmul (d : BitVec 5) (a : BitVec 5) (b : BitVec 5) (k : BitVec 2) (t : BitVec 3) (x : BitVec 1)
  /-- R302: Loam fused multiply-add. -/
  | loamVfma (d : BitVec 5) (a : BitVec 5) (b : BitVec 5) (k : BitVec 2) (t : BitVec 3) (x : BitVec 1)
  /-- R302: Loam vector minimum. -/
  | loamVmin (d : BitVec 5) (a : BitVec 5) (b : BitVec 5) (k : BitVec 2) (t : BitVec 3) (x : BitVec 1)
  /-- R302: Loam vector maximum. -/
  | loamVmax (d : BitVec 5) (a : BitVec 5) (b : BitVec 5) (k : BitVec 2) (t : BitVec 3) (x : BitVec 1)
  /-- R303: Loam conversion among f32, bf16 and i32. -/
  | loamVcvt (d : BitVec 5) (a : BitVec 5) (k : BitVec 2) (t : BitVec 3) (s : BitVec 3)
  /-- R304: Loam tree sum into an x register. -/
  | loamVredAdd (d : BitVec 5) (a : BitVec 5) (k : BitVec 2) (t : BitVec 3)
  /-- R304: Loam minimum reduction. -/
  | loamVredMin (d : BitVec 5) (a : BitVec 5) (k : BitVec 2) (t : BitVec 3)
  /-- R304: Loam maximum reduction. -/
  | loamVredMax (d : BitVec 5) (a : BitVec 5) (k : BitVec 2) (t : BitVec 3)
  /-- R305: Loam compare into a k mask. -/
  | loamVcmp (d : BitVec 5) (a : BitVec 5) (b : BitVec 5) (k : BitVec 2) (t : BitVec 3) (c : BitVec 3) (x : BitVec 1)
  /-- R305: Loam select by mask. -/
  | loamVsel (d : BitVec 5) (a : BitVec 5) (b : BitVec 5) (k : BitVec 2) (x : BitVec 1)
  /-- R306: Broadcasts an x register into the masked lanes. -/
  | loamVmovx (d : BitVec 5) (a : BitVec 5) (k : BitVec 2)
  /-- R306: Writes the lane number into the masked lanes. -/
  | loamVlane (d : BitVec 5) (k : BitVec 2)
  /-- R306: Mask AND. -/
  | loamKand (d : BitVec 5) (a : BitVec 5) (b : BitVec 5)
  /-- R306: Mask OR. -/
  | loamKor (d : BitVec 5) (a : BitVec 5) (b : BitVec 5)
  /-- R306: Mask XOR. -/
  | loamKxor (d : BitVec 5) (a : BitVec 5) (b : BitVec 5)
  /-- R306: Mask AND NOT. -/
  | loamKandn (d : BitVec 5) (a : BitVec 5) (b : BitVec 5)
  /-- R306: Mask NOT. -/
  | loamKnot (d : BitVec 5) (a : BitVec 5)
  /-- R306: Mask from an x register. -/
  | loamKfromx (d : BitVec 5) (a : BitVec 5)
  /-- R306: Mask to an x register. -/
  | loamKtox (d : BitVec 5) (a : BitVec 5)
  /-- R307: 64-bit add. -/
  | loamSaluAdd (d : BitVec 5) (a : BitVec 5) (b : BitVec 5)
  /-- R307: 64-bit subtract. -/
  | loamSaluSub (d : BitVec 5) (a : BitVec 5) (b : BitVec 5)
  /-- R307: 64-bit multiply, low half. -/
  | loamSaluMul (d : BitVec 5) (a : BitVec 5) (b : BitVec 5)
  /-- R307: 64-bit AND. -/
  | loamSaluAnd (d : BitVec 5) (a : BitVec 5) (b : BitVec 5)
  /-- R307: 64-bit OR. -/
  | loamSaluOr (d : BitVec 5) (a : BitVec 5) (b : BitVec 5)
  /-- R307: 64-bit XOR. -/
  | loamSaluXor (d : BitVec 5) (a : BitVec 5) (b : BitVec 5)
  /-- R307: 64-bit shift left. -/
  | loamSaluShl (d : BitVec 5) (a : BitVec 5) (b : BitVec 5)
  /-- R307: 64-bit logical shift right. -/
  | loamSaluShr (d : BitVec 5) (a : BitVec 5) (b : BitVec 5)
  /-- R307: 64-bit arithmetic shift right. -/
  | loamSaluSar (d : BitVec 5) (a : BitVec 5) (b : BitVec 5)
  /-- R307: 64-bit signed minimum. -/
  | loamSaluMin (d : BitVec 5) (a : BitVec 5) (b : BitVec 5)
  /-- R307: 64-bit signed maximum. -/
  | loamSaluMax (d : BitVec 5) (a : BitVec 5) (b : BitVec 5)
  /-- R307: Signed set-if-less-than. -/
  | loamSaluSlt (d : BitVec 5) (a : BitVec 5) (b : BitVec 5)
  /-- R307: Adds a sign-extended imm16. -/
  | loamSaddi (d : BitVec 5) (a : BitVec 5) (i : BitVec 16)
  /-- R307: Loads a sign-extended imm21. -/
  | loamMovi (d : BitVec 5) (i : BitVec 21)
  /-- R307: Loads 8 constant bytes from instruction memory. -/
  | loamLdk (d : BitVec 5) (i : BitVec 16)
  /-- R308: Loam vector load from DRAM. -/
  | loamVld (d : BitVec 5) (a : BitVec 5) (k : BitVec 2) (i : BitVec 9)
  /-- R308: Loam vector store to DRAM. -/
  | loamVst (d : BitVec 5) (a : BitVec 5) (k : BitVec 2) (i : BitVec 9)
  /-- R308: Loam indexed gather from DRAM. -/
  | loamVgather (d : BitVec 5) (a : BitVec 5) (b : BitVec 5) (k : BitVec 2) (s : BitVec 2)
  /-- R308: Loads from the loam buffer. -/
  | loamBld (d : BitVec 5) (a : BitVec 5) (k : BitVec 2) (i : BitVec 9)
  /-- R308: Stores to the loam buffer. -/
  | loamBst (d : BitVec 5) (a : BitVec 5) (k : BitVec 2) (i : BitVec 9)
  /-- R309: Scalar 64-bit load. -/
  | loamSld (d : BitVec 5) (a : BitVec 5) (i : BitVec 16)
  /-- R309: Scalar 64-bit store. -/
  | loamSst (d : BitVec 5) (a : BitVec 5) (i : BitVec 16)
  /-- R310: Unconditional relative branch. -/
  | loamBr (i : BitVec 21)
  /-- R310: Conditional branch on a signed x register. -/
  | loamBcc (c : BitVec 5) (a : BitVec 5) (i : BitVec 16)
  /-- R310: Decrements and branches while nonzero. -/
  | loamLoop (a : BitVec 5) (i : BitVec 16)
  /-- R72: A word is issued whose encoding names no instruction: an unassigned major opcode, an unlisted function value, or an E word that begins a group. It raises ILLEGAL_INSTR. -/
  | unassignedOpcode (w : Word)
  /-- R300: A loam core fetches a word with an unlisted opcode, T value or F value, and the plot stops with cause 1. -/
  | loamUnassignedOpcode (w : Word)
  /-- R347: A launch message from the host reaches the lead domain's dispatcher and is accepted or refused as a privileged SOW would be. -/
  | hostLaunchMessage
  /-- R33: The dispatcher places a queued eligible plot in a qualifying quad, writes its bind record and creates its teams. -/
  | bindPlot
  /-- R32: A plot's hinted domain has offered no free slot for 50 µs, so the plot may go to another domain chosen by hops and live cores. -/
  | hintFallbackExpiry
  /-- R34: A co-resident sowing has stood at the head of its class for 50 µs, so its plots may be placed outside their hinted domains. -/
  | coresidentFallbackExpiry
  /-- R236: The dispatcher rereads a queued sowing's wait counter with an acquire at .system and updates its eligibility. -/
  | waitCounterPoll
  /-- R328: Once a stopped plot's counters and engine entries have drained, its context is saved and its slot, windows and scratchpad are freed. -/
  | plotSave
  /-- R46: A pre-empted plot is placed again in its domain and gets every register, mask, counter and scratchpad byte back. -/
  | resumePlot
  /-- R133: The debugger or system software asks the domain controller to resume or end a halted plot. -/
  | debugResumePlot
  /-- R48: All teams of a plot have ended and every acknowledgement owed to it has returned, so its windows, scratchpad and slot are freed. -/
  | plotRetire
  /-- R236: The last plot of a sowing has retired and all its writes are in their layers, so the part atomically adds 1 to the wait counter with a release. -/
  | sowingComplete
  /-- R42: A ready team has gone 255 cycles without issuing and becomes owed its minimum share, so the arbiter picks it first. -/
  | minShareOwed
  /-- R195: Load data reaches the core, writes the lanes' destinations and the latch, and lowers the in-flight counter. -/
  | loadResponse
  /-- R269: A store has performed at its scope, and the team's st counter falls. -/
  | storeAck
  /-- R174: An access arrives at its home, where the walker translates it and it is performed, parked or refused according to the page entry. -/
  | memoryRequestAtHome
  /-- R215: An invalidation enters a domain's invalidation queue and is acknowledged at once. -/
  | invalidationArrival
  /-- R215: The invalidation queue applies its oldest invalidation and drops every line of the block. -/
  | invalidationApply
  /-- R179: An acknowledgement returns to the home, and the block leaves pending-invalidation when it is the last one. -/
  | invalidationAckAtHome
  /-- R180: An atomic or FATOM is performed at the home's atomic unit as one indivisible read-modify-write. -/
  | atomicAtHome
  /-- R203: A tile's bank serves a fleeting access or FCTL operation at its perform tick and decides liveness. -/
  | fleetingAccessAtBank
  /-- R181: The part sets EXP of a fleeting tile once its retention window has passed. -/
  | fleetingExpiry
  /-- R280: The wafer tick counter advances by one microsecond in every block. -/
  | tick
  /-- R321: A fault report reaches the core, and its fault filter allocates or joins an entry and sends one merge request per team. -/
  | faultReport
  /-- R321: A report that waited while all 32 filter entries were live is taken once an entry frees. -/
  | faultFilterRetry
  /-- R249: A request that waited at the fault stage while the wait table was full is taken once an entry frees. -/
  | faultStageRetry
  /-- R238: At the end of a fault entry's first tick, its fault record is written to the fault queue and PROD advances. -/
  | faultRecordWrite
  /-- R237: System software or the host advances FQCONS, which frees room for waiting fault records. -/
  | fqconsWrite
  /-- R239: A team's oldest READY glean entry performs with its own order and scope, or takes a new token if it faults again. -/
  | gleanDrain
  /-- R326: A refusal from the memory side reaches the core and either leads to a response-precise trap or sets TSTAT.RERR. -/
  | refusalResponse
  /-- R326: No response has arrived 100 µs after a request left the Selup port, so the request is treated as a timeout. -/
  | remoteTimeoutExpiry
  /-- R315: At the first group boundary after a refusing response, the trap is taken with TEPC naming the next group. -/
  | responsePreciseTrap
  /-- R327: An access from another node is served at its target home, or refused there with a fault record of SRC 6. -/
  | inboundAccess
  /-- R327: An inbound access waiting on a moving page is refused after 100 µs. -/
  | inboundMovingTimeout
  /-- R345: A replay message from a fabric node replays a wait entry as REPLAY does and returns a status. -/
  | replayMessage
  /-- R345: A controller access message reads or writes a controller register or table. -/
  | controllerAccessMessage
  /-- R338: Given a nonce, the lead controller builds a doubly signed attestation report, or answers not ready. -/
  | attestationRequest
  /-- R160: The head matrix FIFO entry starts once the engine is free, its reservation is granted and, for TMMAF, its weights have landed. -/
  | matrixEntryStart
  /-- R162: A TMMAF entry that becomes one of the first two in the FIFO raises a 4,160-byte weight fetch on the copy-engine queue. -/
  | tmmafOperandFetch
  /-- R165: The post-operation self-test finishes, and the accumulator is written and credited, or the failure path runs. -/
  | matrixCheck
  /-- R222: The copy engine starts the next queued command, keeping up to four in flight. -/
  | copyCommandStart
  /-- R226: A copy-engine command finishes or stops at a fault and credits its full count to its completion target. -/
  | copyCommandCredit
  /-- R272: A credit adds bytes to a byte barrier's ARRIVED at its bank, records any fault and tests for phase completion. -/
  | barrierCredit
  /-- R157: A tile transfer has performed all its sectors, or stopped at a fault, and credits its completion target. -/
  | tileTransferCredit
  /-- R230: An indexed-reduce command writes its output row and credits RBYTES. -/
  | iredCommandCredit
  /-- R275: Every live member has arrived at a network barrier phase, and the waiting teams acquire and wake. -/
  | netbarPhaseComplete
  /-- R277: At the home, a WAITA compares the watched word and either wakes the team or appends it to the watch entry in one step. -/
  | waitaCompare
  /-- R258: The sweeper visits the next set of G, moving, writing back or dropping its lines, and advances SWEEP. -/
  | vcSweepStep
  /-- R257: A migration or retire sweep finishes, and the record takes its new geometry or becomes free while strips are released. -/
  | vcSweepEnd
  /-- R332: A failure in a column fences the whole column, updates the topology table and stops the affected sowings. -/
  | columnFence
  /-- R332: A failure of a DRAM layer or its channel functions fences the channel together with its loam core and reduce unit. -/
  | channelFence
  /-- R189: An upper-bus failure beyond the spares fences the domain's memory, and its DRAM data is reported lost. -/
  | memoryFence
  /-- R335: At power-good each domain controller verifies the boot image, extends measurements, tests and fences its resources and joins the wafer. -/
  | powerGood
  /-- R335: 5 s after power-good, domains that did not complete are recorded down, and the lead domain is chosen and starts the dispatcher. -/
  | bootWindowClose
  /-- R341: At each tick edge the quad PI controller updates u, the frequency and the ratio, and adds to QENERGY and QTHROT. -/
  | quadPiTick
  /-- R341: A raise of the converter ratio takes effect 2 µs after it was decided. -/
  | ratioRaise
  /-- R342: A matrix entry, wide vector group or copy chunk asks the quad arbiter for reservation units. -/
  | reservationRequest
  /-- R342: A waiting reservation request is granted in class order and then arrival order. -/
  | reservationGrant
  /-- R341: Firmware writes BUDGET, KP or KI, and the next tick uses the new values with u and e_prev kept. -/
  | budgetWrite
  /-- R182: Firmware lowers the retention window W; a write that would raise it is ignored. -/
  | retentionWindowWrite
  /-- R237: Firmware or system software writes a controller register or table that has no behaviour of its own. -/
  | controllerRegisterWrite
  /-- R344: A Selup port with a lane that fails training leaves service and is removed from the PORTS of every node row. -/
  | portTrainingFailure
  /-- R284: The debugger pulls the wafer-wide trip line. -/
  | debuggerSnapshotTrip
  /-- R284: At the first tick edge at least two ticks after a trip, each block with an invalid set latches its counters; a valid set counts a miss. -/
  | snapshotLatch
  /-- R283: The domain controller clears VALID of a snapshot set. -/
  | snapshotClear
  /-- R348: The debugger reads memory at the home as a load at .domain, with no allocation. -/
  | debugMemoryRead
  /-- R350: The debugger reads a fleeting tile at its bank at one perform tick without changing its life. -/
  | debugFleetingRead
  /-- R349: After 1 ms with no access and no blocking work, firmware places a DRAM layer in self-refresh. -/
  | selfRefreshEntry
  /-- R289: The domain controller moves an eligible loam plot into its loam core's dispatch queue. -/
  | loamDispatch
  /-- R290: The controller loads the code, constants, ranges and a zeroed buffer into a loam core and starts the plot. -/
  | loamBind
  /-- R296: A pre-empted loam plot resumes on its core once no class-0 entry is queued there. -/
  | loamResume
  /-- R127: Does nothing. -/
  | nop
  /-- R128: Ends the team. -/
  | endTeam
  /-- R125: Pops the reconvergence stack. -/
  | join
  /-- R127: Sets the yield hint of its group. -/
  | yield
  /-- R275: Plot-wide release, arrival and acquire barrier. -/
  | pbar
  /-- R275: Domain-wide barrier of a co-resident sowing. -/
  | dbar
  /-- R275: Wafer-wide barrier of a co-resident sowing. -/
  | wbar
  /-- R131: Restores privilege and returns to TEPC. -/
  | eret
  /-- R133: Pre-empts the plot and holds it halted for the debugger. -/
  | halt
  /-- R298: Holds later accesses until earlier loads are written and earlier stores are in their layers. -/
  | loamSync
  /-- R311: Yields the loam core to another queued plot of no higher class number. -/
  | loamYield
  /-- R311: Syncs and retires the loam plot. -/
  | loamDone
  /-- R63: A pass's result lands in its register and latch L cycles after issue, and from then on reads see it and do not trip STALL_UNDERRUN. -/
  | fixedLatencyWrite
  /-- R64: The result of an interlocked producer (UDIV/UREM, VIALU divide, f64 SQRT, VRED, VRDI, VWRI) is written, which releases the groups held on it. -/
  | interlockedWrite
  /-- R155: A TZERO entry finishes its 4 engine cycles, writes zero and credits its completion target. -/
  | tzeroCredit
  /-- R205: A VCLEAN, VINVAL, VCFLUSH or VCQUERY completes once every line has been acted on, its write-backs are in DRAM and its invalidations have been acknowledged; its result is written and en falls. -/
  | vcmComplete
  /-- R260: A domain serves a VCDEF, VCRESIZE, RGSET, PTINV or REPLAY request in arrival order and writes its status, or completes PTINV, and en falls. -/
  | tableInstructionStatus
  /-- R235: The dispatcher takes a launch from SOW, queues or refuses it, and writes the status and sowing identifier to the issuing team, and en falls. -/
  | launchStatus
  /-- R298: A loam load returns through the crossbar and writes its register, or a loam store is written into its layer, which releases interlocks, SYNC and DONE. -/
  | loamAccessComplete
deriving DecidableEq, Repr

end Sys2Proof
end

