-- ==== Sys2Proof/Machine/State.lean ====
section
/-! DEFINITION. The state of the machine as plain data, its reset, and the reasons a step can stop.
Tables are keyed by numbers: a plot by 2^32 * SOWID + PLOTNO, a team by 16 * plot + TEAM, a core by
48 * domain + 4 * quad + core, a quad by 12 * domain + quad, a loam core by 12 * domain + channel. -/
namespace Sys2Proof.Machine

/-! ## Teams -/

/-- The pipes of a partition (R60); each has a latch (R82). -/
inductive Pipe where
  | U | V0 | V1 | X
deriving DecidableEq, Repr

/-- One place a result of an instruction lands in (R65, R82). -/
inductive Slot where
  | v (lane n : Nat)           -- vector register n of a lane
  | o (lane n : Nat)           -- operand-file slot n of a lane
  | s (n : Nat)                -- uniform register
  | q (n : Nat)                -- uniform predicate
  | p (lane n : Nat)           -- predicate n of a lane
  | lat (p : Pipe) (lane : Nat) -- latch of a pipe of a lane
  | latU
  | tc (n : Nat)               -- tile control register
  | fmt                        -- FMT, written by SETFMT
  | stat                       -- TSTAT [7:0], written by SETST
  | flags                      -- TSTAT flags, ORed in
deriving DecidableEq, Repr

/-- A result that has been issued and not yet written: by issue group, the cycle from which reads see it
(none: an interlocked producer of R64), the values, whether it is a VWRI (R149), and the furrows' registers that its instruction
writes in part, by furr * register + furrow, at the first of its passes that writes them (R91). -/
structure PendW where
  grp : Nat
  due : Option Nat
  ws  : List (Slot × Nat)
  vwri : Bool := false
  part : List Nat := []
deriving DecidableEq, Repr

/-- What a word of a group asks to happen to its team once the waits of the group are over (R120, R128, R130). -/
inductive After where
  | trap (code tval tepc : Nat)
  | ended
deriving DecidableEq, Repr

/-- A fence that has issued: whether it is a release, its scope, its issue group (R200). -/
structure Fence where
  rel   : Bool
  scope : Nat
  grp   : Nat
deriving DecidableEq, Repr

/-- The states of R39 in which a bound team waits. `preempted` is the state of every team of a saved plot and is
read off the plot. A parked team keeps what it waited for before a fault. -/
inductive TState where
  | ready
  | counterWait (path thr : Nat)
  | barWait (cw ph : Word)
  | netWait (level : Nat)
  | watchWait (acc : Nat)
  | faultPark (back : TState)
  | releasePark
  | engineStall
  | ended
deriving DecidableEq, Repr

/-- An entry of the reconvergence stack (R29). -/
structure SEntry where
  rejoin : Bool
  pc     : Nat
  mask   : BitVec 1024
  fmt    : Word
deriving DecidableEq, Repr

/-- A response-precise trap: its code (R314), TVAL, and the access it is for, by which the order of issue is known (R315). -/
structure Trap where
  code : Nat
  tval : Nat
  seq  : Nat := 0
  held : Bool := false          -- waits for the ERET of a handler entered by another trap of its boundary (R315)
  path : Option Nat := none     -- the path on which a release that never performed is counted until the trap is taken (R212)
deriving DecidableEq, Repr

/-- A release that a team has made, and what it passes on (R213): its scope, the group before which the team's stores precede it, and the
stores of other teams, each before a group, that the team had acquired. -/
structure RelE where
  scope : Nat
  grp   : Nat
  after : List (Nat × Nat)
deriving DecidableEq, Repr

/-- What a team has acquired (R213): the stores of a team before its group `grp` happen before what this team does after its own group `at_`. -/
structure Hb where
  tk  : Nat
  grp : Nat
  at_ : Nat
deriving DecidableEq, Repr

/-- A request that has left a Selup port and is unanswered (R326, R346): the tick, the port, for a command the pieces of work then left, and
whether it was lost with its port. -/
structure Sent where
  at_  : Nat
  port : Nat
  left : Nat := 0
  lost : Bool := false
deriving DecidableEq, Repr

/-- A team (R24, R82). The limits are the kernel header's (R58, R234). -/
structure Team where
  core   : Nat := 0
  part   : Nat := 0
  furr   : Nat := 1           -- .plot furrows
  regs   : Nat := 1
  unif   : Nat := 1
  tiles  : Nat := 0
  nacc   : Nat := 0
  lmem   : Nat := 0
  lmbase : Nat := 0
  wsize  : Nat := 256
  pc     : Nat := 0
  mask   : BitVec 1024 := 0
  win    : Tbl Word := []     -- the window, by aligned 4-byte element (R79)
  sreg   : Tbl Word := []
  pred   : Tbl (BitVec 1024) := []  -- p0 to p6, one bit a lane
  qpred  : BitVec 8 := 0      -- q0 to q6; bit 7 unused
  ofile  : Tbl Word := []     -- slot n of a lane at 8 * lane + n
  latA   : Tbl DWord := []
  latB   : Tbl DWord := []
  latX   : Tbl DWord := []
  latU   : DWord := 0
  tcr    : Tbl Word := []     -- tc0 to tc15
  vwv    : Nat := 0
  vwt    : Nat := 0
  vwa    : Nat := 0
  fmt    : Word := 0
  tstat  : Word := 0
  tcause : Word := 0
  tepc   : DWord := 0
  tval   : DWord := 0
  expcnt : Word := 0
  stack  : List SEntry := []
  infl   : Tbl Nat := []      -- the counters of the paths ld 0, st 1, lm 2, fl 3, en 4
  cc     : Tbl Word := []
  ccf    : Word := 0
  shadow : BitVec 8 := 0      -- the TICK shadow (R280)
  shadowV : Bool := false
  st     : TState := .ready
  waitAt : Nat := 0           -- address of the word by which it waits (R318)
  later  : List (TState × Nat) := []  -- waits of the same group that follow this one
  after  : Option After := none       -- what follows the waits of the same group
  tvecWas : Option DWord := none      -- its core's TVEC before its last group wrote it (R132)
  entered : Bool := false     -- at the first group of the trap handler (R317)
  via    : Option (Nat × Bool) := none  -- PC is a destination not yet checked (R52): the transferring word, and whether execution goes on after it (R125)
  traps  : List Trap := []    -- response-precise traps not yet taken (R315)
  pend   : List PendW := []
  fences : List Fence := []   -- fences whose condition no later access has yet met (R200)
  rels   : List RelE := []    -- its latest release of each scope (R213)
  hb     : List Hb := []      -- stores of other teams that it has acquired and that have still to perform somewhere (R213)
  grp    : Nat := 0           -- issue groups of the team
  last   : Option Nat := none -- the cycle after the last pass of the previous group; none: no stall count waits (R28, R62)
  redir  : Nat := 0           -- earliest cycle after a taken transfer (R121)
  since  : Nat := 0           -- the later of the two moments of R42
  owed   : Bool := false
  fetchTok : Option Nat := none  -- the token under which an instruction fetch waits (R322)
  fetchSent : List (Nat × Sent) := []  -- fetches of packets that have left for another node or a far frame, by IA div 16
deriving DecidableEq, Repr

/-! ## Accesses and engine commands in flight -/

/-- One operation's write of a window element whose completion no wait has yet observed (R81): until one has, the element may also be
read as what it held before. -/
structure RStep where
  target  : Nat                 -- the completion target that the instruction names
  inst    : Nat                 -- the instruction
  path    : Nat := 4            -- the path on which it counts (R152)
  landed  : Bool := false       -- its completion has been credited
  grp     : Nat := 0            -- the issue group of the instruction
  mask    : Word := 0xFFFFFFFF  -- the bits of the element that it writes
  others  : List Word           -- the last one: what the element holds without this write
deriving DecidableEq, Repr

/-- A window element that tile or matrix operations have written and whose last completion no wait has yet observed (R81): a read
of it returns `final` or one of the `others` of its writes, oldest first, and the window shows the one last chosen. `ordered` marks an
accumulator written by the matrix engine, which later entries of the FIFO read as `final` (R164). -/
structure Race where
  tk      : Nat
  elem    : Nat                 -- aligned 4-byte element of the team's window
  ordered : Bool
  final   : Word
  shown   : Word
  steps   : List RStep
deriving DecidableEq, Repr

/-- Where a lane's access goes. -/
inductive Loc where
  | ia (a : Nat)                -- intermediate address (R172)
  | lm (a : Nat)                -- byte of the scratchpads: 2^19 * core + place in the core
deriving DecidableEq, Repr

/-- How far a lane's access has come (R196, R322, R326). -/
inductive LSt where
  | pending                     -- on its way to the place where it performs
  | fixed (v : Nat)             -- performed; a load's value is v
  | written                     -- its destination is written
  | stage                       -- waits at a full fault stage (R249)
  | faulted (tok : Nat) (reported : Bool)  -- waits under a token (R321)
  | refused (code : Nat)        -- refused; the refusal has not reached the core
  | refusedAt                   -- the refusal has reached the core
deriving DecidableEq, Repr

structure Lane where
  lane : Nat
  va   : Nat
  loc  : Loc
  data : Nat := 0               -- a store's value; an atomic's operand
  cmp  : Nat := 0               -- the compare value of CAS
  left : Option Nat := none     -- it has missed L1, and when, in the order of `fresh` (R176, R209)
  sent : Option Sent := none    -- its request has left for another node or a far frame
  again : Option Nat := none    -- the token whose replay makes it repeat its access (R322)
  st   : LSt := .pending
deriving DecidableEq, Repr

inductive AKind where
  | load (signed : Bool)
  | store
  | atom (op : Nat)
  | fatom (op : Nat)
  | waita
  | wakea
  | bar (arm : Bool)            -- BARINIT, BARARM at a byte barrier (R273)
  | fld | fst
  | fbirth | frenew | flife
deriving DecidableEq, Repr

/-- A memory instruction of a team that is in flight (R190 to R204). -/
structure Acc where
  id    : Nat
  tk    : Nat
  core  : Nat
  dom   : Nat
  grp   : Nat                   -- the issue group, the place in program order
  kind  : AKind
  z     : Nat                   -- bytes
  ord   : Nat                   -- 0 weak, 1 rlx, 2 acq, 3 rel, 4 acqrel
  scope : Nat
  path  : Nat
  uni   : Bool
  dreg  : Nat                   -- the D field
  lanes : List Lane
  counted : Bool := true        -- still counted on its path
  queued : Bool := false        -- a store that has performed at .core: L1 updated, queued beyond it (R209)
  dropped : List Slot := []     -- destinations a later write has already taken (R65)
  wslot : Nat := 0              -- a WAITA's slot in its watch entry, as appended: its core and its team's place there (R250)
deriving DecidableEq, Repr

/-- A place that an engine reads or writes. -/
inductive Place where
  | mem (ia : Nat)
  | lm (a : Nat)
  | win (tk off : Nat)
  | buf (off : Nat)             -- the matrix engine's operand buffer (R162)
deriving DecidableEq, Repr

/-- One indivisible piece of an engine command's work: a sector read, a run of zeros, or a sector written (R157, R225). -/
inductive Work where
  | rd (p : Place) (n : Nat)
  | zero (n : Nat)
  | wr (p : Place) (n : Nat) (m : Nat)  -- write the oldest n bytes read, the last of them masked with m (R159)
  | put (p : Place) (n : Nat)           -- the same, keeping them for another core (R229)
  | drop (n : Nat)                      -- discard n bytes
  | raw (ia : Nat) (n : Nat)            -- read beneath every cache (R231)
  | comb                                -- combine the row read into the sum (R230)
deriving DecidableEq, Repr

inductive CKind where
  | copy | copyg | copyb | tfetch | wfetch | tld | tst
  | ired (m : Bool)
deriving DecidableEq, Repr

/-- A command of the copy engine, a tile transfer, or one command of an indexed reduction (R157, R222, R230). -/
structure Cmd where
  id    : Nat
  inst  : Nat := 0              -- the instruction it belongs to
  tk    : Nat
  core  : Nat
  grp   : Nat
  kind  : CKind
  tok   : Nat := 0              -- the token of a moving page's wait entry plus 2^32 times its home
  sent  : Option Sent := none   -- its next piece has left for another node or a far frame
  strong : Bool := false        -- a tile transfer whose sectors are strong accesses (R218)
  cw    : Word
  bytes : Nat
  path  : Nat
  acq   : Bool := false
  rel   : Bool := false
  scope : Nat := 0
  mask  : Nat := 1              -- COPYB: the cores named
  packed : Option Nat := none
  work  : List Work
  buf   : List Byte := []
  acc   : Option (List Byte) := none    -- an indexed reduction's sum so far
  typ   : Nat := 0
  op    : Nat := 0
  dst   : Nat := 0
  code  : Nat := 0              -- lowest fault code recorded
  started : Bool := false
  births : List Nat := []       -- fleeting tiles of which it writes every byte (R225)
  l1inv : List Nat := []        -- the 128-byte lines written (R222)
  was   : Tbl Word := []        -- the window at its acceptance, with what the engines have written since (R81)
  left  : Nat := 0              -- bytes left of the chunk that its reservation covers (R342)
deriving DecidableEq, Repr

inductive MSt where
  | queued | started (subs : Nat) | redo
deriving DecidableEq, Repr

/-- An entry of a matrix FIFO (R160). -/
structure MEnt where
  id    : Nat
  tk    : Nat
  grp   : Nat := 0              -- the issue group of its instruction
  kind  : Nat                   -- 0 TMMA, 1 TMMAF, 2 TZERO
  d     : Nat                   -- accumulator, or for TZERO the D field
  a     : Nat
  b     : Nat
  tca   : Word := 0
  tcb   : Word := 0
  cw    : Word
  st    : MSt := .queued
  fetch : Option Nat := none    -- TMMAF: the command of its operand fetch
  spec  : List Work := []       -- TMMAF: the work of that fetch
  weights : Option (List Byte) := none
  code  : Nat := 0
  was   : Tbl Word := []        -- the window at its post, with what the engines have written since (R81)
  res   : List (Nat × Word) := []   -- held result: window elements
  bytes : Nat := 8192
  flags : Nat := 0
  tfmt  : Bool := false
  granted : Bool := false
deriving DecidableEq, Repr

/-- A request that a table, a home's caches or the dispatcher serves (R205, R206, R235, R260). -/
inductive RKind where
  | vcm (op : Nat) (segs : List (Nat × Nat))   -- clean 0, inval 1, flush 2; the intervals of IAs
  | vcquery (ia : Nat)
  | vcdef (ia : Nat) | vcresize (ia : Nat)
  | rgset (ia : Nat) (sid rn : Word)
  | ptinv (ia n : Nat)
  | replay (lo hi : Word)
  | sow (words : List Word) (rel : Option Nat)   -- the scope of its release, if it carries one
deriving DecidableEq, Repr

structure Req where
  id   : Nat
  tk   : Nat
  dom  : Nat
  grp  : Nat
  dreg : Nat
  kind : RKind
  acted : Bool := false
  tok   : Nat := 0              -- the token of the wait entry under which its image waits plus 2^32 times its home (R260)
  sent  : Option Sent := none   -- it has left for another node or a far frame
  dropped : List Slot := []     -- destinations a later write has already taken (R65)
deriving DecidableEq, Repr

/-- A credit on its way to a completion target (R152, R272). -/
structure Credit where
  at_  : Nat                    -- scratchpad byte address of the barrier, or above 2^48 the key of a completion register
  bytes : Nat
  code : Nat
  packed : Option Nat := none
  tk   : Nat
  path : Nat
  scope : Nat := 0              -- the scope of its command's release (R217)
  inst : Nat                    -- the instruction: with its last credit the counter of the path falls
  mx   : Option Nat := none     -- a matrix entry's core: its place in the FIFO is free once the credit lands (R160)
  stat : Nat := 0               -- the flags and TFMT that a matrix entry ORs into its team's TSTAT as it is credited (R161)
deriving DecidableEq, Repr

/-- An invalidation between a home and a sharing domain (R179, R215). -/
structure Inv where
  id    : Nat
  home  : Nat
  dom   : Nat
  block : Nat
  by_   : Nat                   -- the team or request that caused it
  grp   : Nat
  also  : List (Nat × Nat) := []  -- the later writers of the block whose stores have joined it, with their groups (R179)
  strong : List (Nat × Nat) := []  -- those of its writers whose stores are strong at .wafer or .system (R211)
  evict : Bool := false         -- sent because the entry left the directory: no entry waits for it
  arrived : Bool := false
deriving DecidableEq, Repr

/-! ## Cores and quads -/

/-- A line of an L1 data cache: 128 bytes, little-endian (R176). -/
structure L1Line where
  base : Nat
  data : Nat
deriving DecidableEq, Repr

/-- A fault-filter entry (R321). -/
structure FiltE where
  page  : Nat
  tok   : Nat
  union : Nat
  teams : List Nat
deriving DecidableEq, Repr

/-- A glean-log entry (R239), with the team whose store it is. -/
structure GleanE where
  tk    : Nat
  ready : Bool
  ord   : Nat
  scope : Nat
  tok   : Nat
  block : Nat
  be    : BitVec 64
  data  : Nat
  wake  : Bool                  -- a WAKEA: it wakes the oldest waiter only
  sent  : Option Sent := none   -- it has left for another node or a far frame
  grp   : Nat                   -- the issue group of its store
  queued : Bool := false        -- its store had performed at .core when it entered the log (R209)
  seq   : Nat                   -- its store, in the order of issue
deriving DecidableEq, Repr

/-- A block's snapshot set (R283). -/
structure Snap where
  valid : Bool := false
  src   : Nat := 0
  miss  : Nat := 0
  tag   : Nat := 0
  tick  : Nat := 0
  copies : List Nat := []
deriving DecidableEq, Repr

structure Core where
  tvec   : DWord := 0
  srg    : Tbl DWord := []      -- words 0 to 2 (R317)
  nb     : Tbl Word := []       -- NBN, NBE, NBS, NBW
  cyc    : Nat := 0
  cbase  : Nat := 0             -- CYC at the last tick edge
  grp    : Nat := 0
  mstall : Nat := 0
  rets   : Nat := 0
  pmc    : Tbl DWord := []
  pevsel : Tbl Word := []
  snap   : Snap := {}
  bkpt   : Tbl DWord := []
  wpt    : Tbl DWord := []
  l1     : List L1Line := []    -- most recent first
  filt   : List FiltE := []
  filtQ  : List (Nat × Nat) := []   -- reports that wait (access, lane)
  glean  : List GleanE := []    -- oldest first
  fifo   : List MEnt := []      -- oldest first
  subF   : List Nat := []       -- fenced sub-arrays
  stallM : List MEnt := []      -- posts that wait for a place in the matrix FIFO (R160)
  stallC : List Nat := []       -- commands that wait for a place in the copy-engine queue (R221)
  stallI : List Nat := []       -- IRED instructions that wait for a place in the reduce queue
  copyQ  : List Nat := []       -- identifiers of commands, oldest first
  iredQ  : List Nat := []       -- one identifier for each queued IRED instruction
  busy   : Tbl Nat := []        -- by partition: the first cycle free of passes
  yielded : Tbl Nat := []       -- by partition: the team that asked to yield, plus 1
deriving DecidableEq, Repr

structure Resv where
  who   : Requester
  units : Nat
  tk    : Nat                   -- the team it belongs to
  core  : Nat
  cls   : Nat
  seq   : Nat
  granted : Bool
  till  : Option Nat := none    -- in use since its run or passes began: the cycle of its core's clock from which it is free
deriving DecidableEq, Repr

structure Quad where
  ki : Nat := 1
  kp : Nat := 8
  budget : Nat := Config.nomBud
  cap : Nat := Config.resetCapacity
  u : Int := 500
  ePrev : Int := 0
  f : Nat := 500
  ratio : Nat := 0
  raises : List (Nat × Nat) := []   -- pending raises: the ratio and the tick at which it takes effect
  piAt : Nat := 0               -- the tick at which the PI controller last acted
  energy : Nat := 0             -- in 1/16 µJ, so that no fraction is lost
  qthrot : Word := 0
  qresw  : Word := 0
  mbusy  : List (Nat × Nat) := []   -- by tick past, newest first: cycles in which a matrix engine was busy, cycles of the clock
  mruns  : List (Nat × Nat) := []   -- runs of its matrix engines in this tick and after: first cycle and end, from the tick's start
  ceil   : Nat := 2300
  resv   : List Resv := []
  snap   : Snap := {}
  slots  : Tbl (List DWord) := []   -- bind records in use (R242)
deriving DecidableEq, Repr

/-! ## Domains -/

/-- A cached line of a virtual cache (R256): home class lines know the DRAM place they stand for. -/
structure Line where
  remote : Bool
  vc     : Nat
  gen    : Nat
  base   : Nat                  -- IA
  size   : Nat
  bank   : Nat
  set    : Nat
  pa     : Nat                  -- home class: DRAM key of the first byte
  dirty  : Bool
  data   : Nat
deriving DecidableEq, Repr

/-- A cache definition record (R255). -/
structure VcRec where
  st     : Nat := 0             -- 0 free, 1 active, 2 migrating, 3 retiring
  remote : Bool := false
  line   : Nat := 0
  policy : Nat := 0
  ways   : BitVec 8 := 0
  pline  : Nat := 0
  pways  : BitVec 8 := 0
  sweep  : Nat := 0
  banks  : BitVec 144 := 0
  pbanks : BitVec 144 := 0
  gen    : Nat := 0
deriving DecidableEq, Repr

/-- A directory entry (R179). -/
structure DirE where
  block   : Nat
  sharers : List Nat
  pend    : List Nat            -- domains that have not acknowledged
  keep    : List Nat            -- remote writers whose own copy was updated
deriving DecidableEq, Repr

/-- A wait-table entry (R248). -/
structure WaitE where
  v     : Bool := false
  gen   : Nat := 0
  kind  : Nat := 0
  union : Nat := 0
  waiters : Nat := 0
  st    : Nat := 0
  page  : Nat := 0              -- IA div 2^16
  doms  : BitVec 72 := 0
  tick  : Nat := 0
  first : List Nat := []        -- word 2 of the record: SOWID, NODE, DOM, QUAD, CORE, TEAM, SRC
deriving DecidableEq, Repr

/-- A watch-table entry (R250); ways of one set are kept most recent first. -/
structure WatchE where
  block : Nat
  waiters : List Nat            -- accesses waiting, oldest first
deriving DecidableEq, Repr

structure Tile where
  exp   : Bool := true
  birth : Nat := 0
deriving DecidableEq, Repr

/-- A domain, its controller's registers and its tables. No column is fenced before it boots: those fenced at shipment (R11), which R252 has COLF
show at reset, are among what the boot tests find, and come with the event (log entry 5). -/
structure Dom where
  booted : Bool := false        -- step 5 of R335 done
  live   : Bool := false
  lineMemF : Bool := false      -- MEMF: the domain memory fenced
  colF   : BitVec 12 := 0
  chF    : BitVec 12 := 0
  halted : Bool := false        -- the image failed step 2 of R335: down until the next boot
  meas   : Tbl (BitVec 384) := []
  w      : Nat := 1000
  maps   : Tbl DWord := []      -- written words of the channel maps: 2 * map + word
  ptroot : DWord := 0
  tcache : List (Nat × Bool × DWord) := []  -- walker's copies: page, 2 MiB, leaf; most recent first
  hints  : List (Nat × Nat) := []   -- IA page, VC id; most recent first
  dir    : List DirE := []      -- most recent first
  invq   : List Nat := []       -- blocks, oldest first
  vcs    : Tbl VcRec := []
  owner  : Tbl (BitVec 8) := [] -- strip owner map
  lines  : List Line := []      -- most recent first
  wait   : Tbl WaitE := []
  watch  : List WatchE := []    -- most recent first
  stageQ : List (Nat × Nat) := []
  fqbase : DWord := 0
  fqsize : Nat := 10
  fqprod : Word := 0
  fqcons : Word := 0
  fqput : Bool := false         -- words 0 to 2 of the next record are written, and its word 3 waits for their acknowledgements
  fqwait : List (Option Nat × List DWord) := []  -- records that wait for room, each with the wait entry it is for, if any
  repQ   : List (List Nat) := []    -- records that wait for a wait entry: queue, page, kind, union, first requester (R249, R259)
  notes  : List (List Nat) := []    -- reports to the domain controller: a fenced sub-array 0, core, number (R165); a loss 1, page, source (R334)
  undefvc : Word := 0
  fqovf  : Word := 0
  wtfull : Word := 0
  watchev : Word := 0
  pctx   : DWord := 0
  lctx   : DWord := 0
  guest  : Nat := 0             -- guest identity; 0: no hypervisor
  guestNo : Nat := 0
  guestNodes : BitVec 64 := 0   -- the nodes assigned to that guest (R351)
  subst  : Tbl Nat := []        -- for a fenced column whose fencing the guest does not see, the quad that carries its quad's plots (R352)
  srefresh : BitVec 12 := 0     -- layers in self-refresh (R349)
  acctick : Tbl Nat := []       -- tick of the last access, by channel
  snap   : Snap := {}
deriving DecidableEq, Repr

/-! ## Loam cores -/

structure LAcc where
  kind : Nat                    -- 0 load lanes into w, 1 store, 2 SLD, 3 SST
  reg  : Nat
  lanes : List (Nat × Nat × Nat × Nat)   -- lane, va, ia, data
  got  : List (Nat × Nat) := []
  n    : Nat                    -- bytes
  tok  : Nat := 0               -- the token of a moving page's wait entry plus 2^32 times its domain (R295)
  held : Bool := false          -- it waited when its plot was saved, and is repeated at resume (R296)
deriving DecidableEq, Repr

structure LPlot where
  sow : Nat
  lk : Nat                      -- its loam core
  cls : Nat
  lanes : Nat
  lmem : Nat
  len : Nat := 0
  w : Tbl Word := []            -- 32 * register + lane
  x : Tbl DWord := []
  k : Tbl Word := []
  pc : Nat := 0
  lstat : Word := 0
  code : Mem := []              -- its instruction memory
  buf : Mem := []               -- its part of the buffer
  out : List LAcc := []         -- accesses on their way, oldest first
  bound : Bool := false
  spill : Nat := 0              -- the bytes of its buffer that are in the save area (R296)
deriving DecidableEq, Repr

structure Loam where
  queue : List Nat := []        -- plots in the dispatch queue, oldest first
  run   : Option Nat := none
deriving DecidableEq, Repr

/-! ## Plots and sowings -/

inductive PStat where
  | bound | preempting | saved | halted | stopping
deriving DecidableEq, Repr

structure Plot where
  sow : Nat
  no  : Nat
  dom : Nat := 0
  quad : Nat := 0
  face : Option Nat := none     -- where another quad carries it, the quad whose names its teams read (R352)
  slot : Nat := 0
  nteams : Nat := 1
  lanes : Nat := 1
  cls : Nat := 0
  lmem : Nat := 0
  lmbase : Nat := 0
  wsize : Nat := 256
  vcmask : DWord := 0
  st  : PStat := .bound
  seq : Nat := 0                -- order of binding; of pre-emption once saved
  halt : Bool := false          -- held until asked to resume
  haltRec : List Nat := []      -- word address, code, TVAL, TEPC
  pbarPhase : Nat := 0
  wbase : List Nat := []        -- window base of each core (R242)
  posn : List Nat := []         -- once saved, the logical position of each team's core
  spm : Mem := []               -- the saved scratchpad: 2^19 * logical position + offset
  area : Option Nat := none     -- once saved, the IA of its block (R329)
  restart : Bool := false
  cores : Bool := false
deriving DecidableEq, Repr

structure Range where
  w0 : DWord := 0
  w1 : DWord := 0
  w2 : DWord := 0
  w3 : DWord := 0
deriving DecidableEq, Repr

structure Sowing where
  words : List Word
  hdr   : List Word := []
  ranges : Tbl Range := []
  tk    : Option Nat := none
  cls   : Nat := 0
  home  : Nat := 0              -- HINT with 127 resolved
  eligible : Bool := false
  next  : Nat := 0              -- plots never yet bound start here
  redo  : List Nat := []        -- stopped plots to bind again
  bound : List Nat := []        -- plot numbers from next on that have been bound
  retired : Nat := 0
  failAt : Tbl Nat := []        -- the tick of the first attempt that found no quad (R32): by hinted domain, and of a plot to be bound again by 128 plus its number
  fallback : List Nat := []     -- the same keys: those whose plots may go to another domain
  headAt : Option Nat := none   -- the tick from which a co-resident sowing has stood at the head of its class (R34)
  coFall : Bool := false        -- its plots may go to other domains
  started : Bool := false       -- a co-resident sowing has been bound
  stopped : Bool := false
  dbar : Tbl Nat := []          -- phases of DBAR by domain
  wbar : Nat := 0
  pollAt : Nat := 0             -- tick of the last read of the wait counter
  ended : Bool := false         -- it ends with a status
  stopRec : List Nat := []      -- PAGE, DOM, QUAD of its record of kind 9 (R363)
  noInc : Bool := false         -- it ends at a faulting read of its counter, which is then not incremented (R236)
  relScope : Nat := 0           -- the scope of the release of its SOW, at which its plots acquire (R235)
  guest : Nat := 0              -- the partition that launched it (R351)
  clen  : Nat := 0              -- the length of its constant block in bytes (R118; log entry 14)
deriving DecidableEq, Repr

/-! ## The machine -/

/-- What the turn of an event carries: which thing the event happens to (a, and b where it needs two numbers), and what
reaches the wafer from outside. Each event's meaning says which fields it reads. -/
structure Input where
  a    : Nat := 0
  b    : Nat := 0
  c    : Nat := 0
  flag : Bool := false          -- the walker answers from its copy (R241), a debugger resumes, an upper bus failed
  ext  : Nat := 0               -- a value from another node or a far frame (log entry 15)
  node : Nat := 0               -- of a message (R345): its source node, destination node (0: this wafer), tag, order and scope
  dest : Nat := 0
  tag  : Nat := 0
  ord  : Nat := 0
  scope : Nat := 0
  words : List Word := []
  us   : List Nat := []
  vs   : List Nat := []
  img  : BootImage := ⟨[], [], [], [], [], [], [], []⟩
  reg  : CtlReg := .ptroot
  wr   : Option Nat := none
  who  : Requester := .vector 0
  block : Block := .core 0
  code : Tbl Nat := []          -- words of code that a fetch reads from another node or a far frame, by VA
deriving DecidableEq, Repr

/-- What the next step does: an issue of partition p of a core (x says how its fetches are answered), an issue of a loam core,
or an event. -/
inductive Turn where
  | part (core p : Nat) (x : Input)
  | loam (lk : Nat)
  | event (i : Instr) (x : Input)
deriving DecidableEq, Repr

/-- What a word's checks decide: it issues, its group is held, it traps, or its team parks (R39, R67, R192). -/
inductive Verdict where
  | go
  | hold
  | trap (code tval : Nat)
  | park (st : TState)
deriving DecidableEq, Repr

/-- How exec is being used: a meaning alone (its checks, then its effect), or the checks and the effects of the words of
one group apart, since no word of a group has an effect before every word is checked (R61, R67). -/
inductive Phase where
  | alone | check | effect
deriving DecidableEq, Repr

/-- Which issue or event is under way (set by step, read by the meanings). -/
structure Cur where
  arg  : Input := {}
  tk   : Nat := 0
  lk   : Nat := 0
  word : Nat := 0               -- the instruction word
  addr : Nat := 0               -- its address
  off  : Nat := 0               -- its place in the group
  gpc  : Nat := 0               -- the group's first word
  link : Nat := 0               -- the address after the group
  cyc  : Nat := 0               -- the cycle of the group's first pass
  cpp  : Nat := 1               -- cycles of a pass of the group (R27)
  v1   : Bool := false          -- a V0/V1 word of the group runs on V1
  moved : Bool := false         -- a transfer was taken
  barFlt : Option (Nat × Nat × Nat) := none  -- a BARWAIT of the group met a fault: its address, completion word and code (R274)
  phase : Phase := .alone
  verd : Verdict := .go         -- what the checks of the last word decided
  stop : Bool := false          -- a trap was taken or the group did not issue
deriving DecidableEq, Repr

/-- An access from another node that has not been answered (R327, R345). Its order and scope are the initiator's: it performs here at .wafer
(R209). -/
structure Inbound where
  id   : Nat
  node : Nat
  tag  : Nat
  kind : Nat                    -- 0 read, 1 write, 2 + op an integer atomic, 16 + op a floating-point one
  ia   : Nat
  size : Nat
  ord  : Nat
  scope : Nat
  data : Nat
  cmp  : Nat
  tick : Nat                    -- when it arrived
  val  : Option Nat := none     -- it has performed, with this value, and waits for the acknowledgements of its invalidations
deriving DecidableEq, Repr

/-- An answer to a message (R345): the node it goes to, the tag, and what it carries, a status first. -/
structure Reply where
  node : Nat
  tag  : Nat
  body : List Nat
deriving DecidableEq, Repr

/-- The trip line of R284: source, tag, the tick it was pulled. -/
structure Trip where
  src : Nat
  tag : Nat
  tick : Nat
deriving DecidableEq, Repr

structure State where
  sched  : List Turn := []
  cur    : Cur := {}
  fresh  : Nat := 1             -- next identifier of an access, command or request
  tick   : Nat := 0
  epoch  : Nat := 0
  lead   : Option Nat := none
  windowClosed : Bool := false
  teams  : Tbl Team := []
  plots  : Tbl Plot := []
  sows   : Tbl Sowing := []
  queues : Tbl (List Nat) := [] -- wafer launch queues, by class
  nextSid : Nat := 1
  rrNext : Tbl Nat := []        -- by class, and for loam sowings 4 plus it: the sowing whose turn is next (R32)
  cores  : Tbl Core := []
  quads  : Tbl Quad := []
  doms   : Tbl Dom := []
  loams  : Tbl Loam := []
  lplots : Tbl LPlot := []
  accs   : Tbl Acc := []
  cmds   : Tbl Cmd := []
  reqs   : Tbl Req := []
  credits : List Credit := []
  races  : List Race := []      -- window elements whose new value is not yet sure to be read (R81)
  seen   : Tbl Nat := []        -- by completion target: the widest scope at which a release was credited there (R217)
  invs   : List Inv := []
  dram   : Mem := []            -- 2^32 * (12 * domain + channel) + layer address
  spm    : Mem := []            -- 2^19 * core + place
  fleet  : Mem := []            -- 4096 * (73728 * domain + tile) + byte
  tiles  : Tbl Tile := []       -- 73728 * domain + tile
  pos    : Tbl (BitVec 2) := [] -- logical positions written by firmware
  nodes  : Tbl DWord := []      -- node rows: 2 * node + word
  routes : Tbl (BitVec 8) := [] -- route bytes written: 72 * d + e
  ports  : List Nat := []       -- Selup ports out of service
  trip   : List Trip := []      -- trips not yet latched, oldest first
  inbound : List Inbound := []
  replies : List Reply := []    -- answers to messages, oldest first
  freeN  : Nat := 0             -- counts the free values drawn (log entry 20)
deriving DecidableEq, Repr

/-- Why the machine would stop with a fault. The spec describes no such stop: every trap, page fault and stop of a
plot is a next state. The one constructor names a step that the form of exec could give and no meaning does. -/
inductive Fault where
  /-- Raised by nothing: the spec gives every access an outcome on the team. Safe. -/
  | none_
deriving DecidableEq, Repr

/-- Why a step is refused. -/
inductive Refusal where
  /-- Raised by an arm of exec whose instruction has no meaning yet; it names the instruction's row. Safe: nothing is
  claimed of it. -/
  | notModelled (mnemonic : String)
deriving DecidableEq, Repr

/-- The machine right after reset, before power-good: TICK 0, every domain down, every table empty, memory with
nothing listed (R335; the values that the spec leaves open are those of log entries 4 and 5). -/
def State.reset : State := {}

end Sys2Proof.Machine
end

