-- ==== Sys2Proof/Machine/Operands.lean ====
section
/-! DEFINITION. The fields of an E word, the operand roles of R57 and R58, the registers of a team by slot, and the reading
and writing of operands. -/
namespace Sys2Proof.Machine

/-! ## The E word (R56) -/

/-- Bits lo to lo + n - 1 of an E payload; a missing E word gives d. -/
def eBits (e : EPay) (lo n d : Nat) : Nat := match e with | none => d | some p => p.toNat / 2 ^ lo % 2 ^ n
def eXop (e : EPay) : Nat := eBits e 0 8 0
def eScale (e : EPay) : Nat := eBits e 8 2 0
def eAux (e : EPay) : Nat := eBits e 10 6 0
def eZero (e : EPay) : Nat := eBits e 16 2 0
def eType (e : EPay) : Nat := eBits e 18 2 0
def eGuard (e : EPay) : Nat := eBits e 20 3 7
def eNeg (e : EPay) : Bool := eBits e 23 1 0 == 1

/-- The width in bits that the E type selects (R110, R134): type 0b11 doubles it. -/
def eWidth (e : EPay) : Nat := if eType e = 3 then 64 else 32
/-- The number of registers of an operand of that width. -/
def eRegs (e : EPay) : Nat := if eType e = 3 then 2 else 1

/-! ## The registers of a team by slot (R79, R82) -/

/-- The window element that holds register n of a lane (R79). -/
def Team.elem (t : Team) (lane n : Nat) : Nat := t.vwv / 4 + 64 * (t.furr * n + lane / 64) + lane % 64

def bitOf (m : BitVec 1024) (lane : Nat) : Bool := m.getLsbD lane
def setBit (m : BitVec 1024) (lane : Nat) (b : Bool) : BitVec 1024 :=
  if b then m ||| BitVec.twoPow 1024 lane else m &&& ~~~(BitVec.twoPow 1024 lane)

/-- TSTAT with bits ORed in. -/
def orStat (x : Word) (b : Nat) : Word := x ||| BitVec.ofNat 32 b

/-- What a slot holds. -/
def Team.get (t : Team) (sl : Slot) : Nat :=
  match sl with
  | .v l n => (Tbl.getD t.win (t.elem l n) 0).toNat
  | .o l n => (Tbl.getD t.ofile (8 * l + n) 0).toNat
  | .s n => (Tbl.getD t.sreg n 0).toNat
  | .q n => if t.qpred.getLsbD n then 1 else 0
  | .p l n => if bitOf (Tbl.getD t.pred n 0) l then 1 else 0
  | .lat .U _ => t.latU.toNat
  | .lat .V0 l => (Tbl.getD t.latA l 0).toNat
  | .lat .V1 l => (Tbl.getD t.latB l 0).toNat
  | .lat .X l => (Tbl.getD t.latX l 0).toNat
  | .latU => t.latU.toNat
  | .tc n => (Tbl.getD t.tcr n 0).toNat
  | .fmt => t.fmt.toNat
  | .stat => t.tstat.toNat % 256
  | .flags => t.tstat.toNat % 64

/-- The vector register place that a window element is, if it is one (R79). -/
def Team.slotOf (t : Team) (e : Nat) : Option Slot :=
  let k := e - t.vwv / 4
  if e < t.vwv / 4 || t.furr * t.regs ≤ k / 64 then none
  else some (.v (64 * (k / 64 % t.furr) + k % 64) (k / 64 / t.furr))

/-- A team with a value written to a slot. FMT keeps bits [4:0] and TSTAT bits [7:0] of what is written (R83, R84);
flags are ORed in. -/
def Team.put (t : Team) (sl : Slot) (v : Nat) : Team :=
  match sl with
  | .v l n => { t with win := Tbl.put t.win (t.elem l n) (BitVec.ofNat 32 v) 0 }
  | .o l n => { t with ofile := Tbl.put t.ofile (8 * l + n) (BitVec.ofNat 32 v) 0 }
  | .s n => { t with sreg := Tbl.put t.sreg n (BitVec.ofNat 32 v) 0 }
  | .q n => { t with qpred := if v % 2 = 1 then t.qpred ||| BitVec.twoPow 8 n else t.qpred &&& ~~~(BitVec.twoPow 8 n) }
  | .p l n => { t with pred := Tbl.put t.pred n (setBit (Tbl.getD t.pred n 0) l (v % 2 == 1)) 0 }
  | .lat .U _ => { t with latU := BitVec.ofNat 64 v }
  | .lat .V0 l => { t with latA := Tbl.put t.latA l (BitVec.ofNat 64 v) 0 }
  | .lat .V1 l => { t with latB := Tbl.put t.latB l (BitVec.ofNat 64 v) 0 }
  | .lat .X l => { t with latX := Tbl.put t.latX l (BitVec.ofNat 64 v) 0 }
  | .latU => { t with latU := BitVec.ofNat 64 v }
  | .tc n => { t with tcr := Tbl.put t.tcr n (BitVec.ofNat 32 v) 0 }
  | .fmt => { t with fmt := BitVec.ofNat 32 (v % 32) }
  | .stat => { t with tstat := BitVec.ofNat 32 (t.tstat.toNat / 256 * 256 + v % 256) }
  | .flags => { t with tstat := orStat t.tstat (v % 64) }

/-- A team with a list of writes made in order. -/
def Team.puts (t : Team) (ws : List (Slot × Nat)) : Team := ws.foldl (fun t w => t.put w.1 w.2) t

/-- Whether a write to slot b ends an older write to slot a (R65): the same place, or TSTAT over the flags it holds.
Flags end no older flags: they are ORed in, each pass's (R84). -/
def Slot.covers (b a : Slot) : Bool := (b == a && a != .flags) || (b == .stat && a == .flags)

/-! ## The mask and its passes (R26, R27) -/

/-- Lane-mask word k. -/
def maskWord (m : BitVec 1024) (k : Nat) : Nat := m.toNat / 2 ^ (32 * k) % 2 ^ 32

/-- The furrow-live word, computed from the lane words as R26 keeps it. -/
def furrowLive (m : BitVec 1024) : Nat :=
  (List.range 16).foldl (fun a f => if m.toNat / 2 ^ (64 * f) % 2 ^ 64 = 0 then a else a + 2 ^ f) 0

/-- The lane words a sweep visits; a mask with no lane set makes one pass that writes nothing (R27). -/
def sweepWords (m : BitVec 1024) : List Nat :=
  let l := (List.range 32).filter fun k => maskWord m k != 0
  if l.isEmpty then [0] else l

/-- The masked lanes of lane word k. -/
def passLanes (m : BitVec 1024) (k : Nat) : List Nat :=
  ((List.range 32).map (32 * k + ·)).filter (bitOf m)

/-- The masked lanes, in ascending order. -/
def maskLanes (m : BitVec 1024) : List Nat := (List.range 1024).filter (bitOf m)

/-! ## Operand roles (R57, R58) -/

inductive Role where
  | vsrc            -- vector source
  | vdst            -- vector destination
  | vreg            -- a vector register or operand-file slot and nothing else (R197, R202)
  | usrc | udst     -- uniform source, destination
  | ureg            -- a uniform register and nothing else (R197)
  | pair            -- a register pair that holds a target: a uniform source other than zero (R124)
  | pdst | qdst     -- predicate destination, per lane and uniform
  | psrc | qsrc     -- predicate source, 7 always true
  | tile | acc
  | tcr             -- a tile control register by its CSR number
  | path            -- an in-flight path (R129)
  | never           -- raises OPERAND
deriving DecidableEq, Repr

/-- One operand of an instruction: the value of its field, the field's code for TVAL (0 D, 1 A, 2 B, F or Q, 3 E payload:
R67), how many 32-bit registers it takes and the alignment of the first, whether it is read, and whether it is written. -/
structure Opd where
  role : Role
  val  : Nat
  fld  : Nat
  n    : Nat := 1
  al   : Nat := n
  rd   : Bool := true
  wr   : Bool := false
deriving DecidableEq, Repr

/-- Whether a register number is legal: n registers inside the count, the first aligned (R18, R58, R150, R193). -/
def inCount (val n al count : Nat) : Bool := decide (val + n ≤ count) && val % al == 0

/-- Whether an operand is legal (R57, R58). While the team is privileged the uniform count is not checked (R317). -/
def Opd.legal (t : Team) (o : Opd) : Bool :=
  let v := o.val
  let ucount := if t.tstat.getLsbD 8 then 160 else t.unif
  let vr := if v < 240 then inCount v o.n o.al t.regs else decide (v < 248) && inCount (v - 240) o.n o.al 8
  match o.role with
  | .vsrc => if v < 248 then vr else decide (v < 255)
  | .vdst => if v < 248 then vr else decide (v < 252)
  | .vreg => vr
  | .usrc => if v < 160 then inCount v o.n o.al ucount else v == 248 || v == 252
  | .udst => if v < 160 then inCount v o.n o.al ucount else v == 248
  | .ureg => decide (v < 160) && inCount v o.n o.al ucount
  | .pair => if v < 160 then inCount v o.n o.al ucount else v == 248
  | .pdst | .qdst => decide (v < 7)
  | .psrc | .qsrc => true
  | .tile => decide (v < 16) && decide (v < t.tiles)
  | .acc => decide (v < 8) && decide (v < t.nacc)
  | .path => decide (v < 5)
  | .tcr => true
  | .never => false

/-- The n consecutive slots from one. -/
def slotsFrom (f : Nat → Slot) (k n : Nat) : List Slot := (List.range n).map fun i => f (k + i)

/-- The register slots of an operand in one lane; latches and special values have none (they are never checked, R66). -/
def Opd.slots (o : Opd) (lane : Nat) : List Slot :=
  match o.role with
  | .vsrc | .vdst | .vreg =>
    if o.val < 240 then slotsFrom (.v lane) o.val o.n
    else if o.val < 248 then slotsFrom (.o lane) (o.val - 240) o.n else []
  | .usrc | .udst | .ureg | .pair => if o.val < 160 then slotsFrom .s o.val o.n else []
  | .psrc => if o.val < 7 then [.p lane o.val] else []
  | .qsrc => if o.val < 7 then [.q o.val] else []
  | .tile | .tcr => [.tc o.val]
  | _ => []

/-- The registers an operand writes, as kind and number, for rule 4 of R59. -/
def Opd.writes (o : Opd) : List (Nat × Nat) :=
  if !o.wr then [] else
  match o.role with
  | .vsrc | .vdst | .vreg => if o.val < 248 then (List.range o.n).map fun i => (0, o.val + i) else []
  | .usrc | .udst | .ureg | .pair => if o.val < 160 then (List.range o.n).map fun i => (1, o.val + i) else []
  | .pdst => [(2, o.val)]
  | .qdst => [(3, o.val)]
  | _ => []

/-- Whether an operand reads or writes a vector register, an operand-file slot or lat.a (R149). -/
def Opd.touchesV (o : Opd) : Bool :=
  match o.role with
  | .vsrc | .vdst | .vreg => decide (o.val < 248) || o.val == 249
  | _ => false

/-! ## Reading and writing operands -/

/-- n registers read as one little-endian value. -/
def Team.regs32 (t : Team) (f : Nat → Slot) (k : Nat) : Nat → Nat
  | 0 => 0
  | n + 1 => t.get (f k) + 2 ^ 32 * t.regs32 f (k + 1) n

/-- A vector source of n registers in a lane (R57): latches and special values zero-extended, or their low 32 bits. So too where a store
takes 128 bits, of which R57 does not speak (log entry 25). -/
def Team.rdV (t : Team) (val n lane : Nat) : Nat :=
  if val < 240 then t.regs32 (.v lane) val n
  else if val < 248 then t.regs32 (.o lane) (val - 240) n
  else
    let x := match val with
      | 248 => t.latU.toNat
      | 249 => t.get (.lat .V0 lane)
      | 250 => t.get (.lat .V1 lane)
      | 251 => t.get (.lat .X lane)
      | 253 => lane
      | 254 => lane / 64
      | _ => 0
    x % 2 ^ (32 * n)

/-- A uniform source of n registers (R57, R110). -/
def Team.rdU (t : Team) (val n : Nat) : Nat :=
  if val < 160 then t.regs32 .s val n
  else if val = 248 then t.latU.toNat % 2 ^ (32 * n) else 0

/-- The writes of a value to n registers from one. -/
def wrRegs (f : Nat → Slot) (k x : Nat) : Nat → List (Slot × Nat)
  | 0 => []
  | n + 1 => (f k, x % 2 ^ 32) :: wrRegs f (k + 1) (x / 2 ^ 32) n

/-- The writes of a value to a vector destination of n registers; 248 to 251 discard it (R57). -/
def wrV (val n lane x : Nat) : List (Slot × Nat) :=
  if val < 240 then wrRegs (.v lane) val x n
  else if val < 248 then wrRegs (.o lane) (val - 240) x n else []

/-- The writes of a value to a uniform destination of n registers; 248 discards it. -/
def wrU (val n x : Nat) : List (Slot × Nat) := if val < 160 then wrRegs .s val x n else []

/-- A predicate source of a lane; 7 is always true (R57). -/
def Team.rdP (t : Team) (n lane : Nat) : Bool := n == 7 || t.get (.p lane n) == 1
/-- A uniform predicate source; 7 is always true. -/
def Team.rdQ (t : Team) (n : Nat) : Bool := n == 7 || t.get (.q n) == 1

/-- Whether a lane is guarded in (R56). -/
def Team.guardP (t : Team) (e : EPay) (lane : Nat) : Bool := t.rdP (eGuard e) lane != eNeg e
/-- Whether a uniform instruction is guarded in. -/
def Team.guardQ (t : Team) (e : EPay) : Bool := t.rdQ (eGuard e) != eNeg e

end Sys2Proof.Machine
end

