-- ==== Sys2Proof/Machine/Forms.lean ====
section
/-! DEFINITION. The form of every instruction of the main set: its pipe, when its fields are illegal, its operands with their
roles, its passes and its latency (R55 to R75, R110, R134, R150, R190, R260 and the entries). What an event or a loam word
is, is no form. -/
namespace Sys2Proof.Machine

/-- What the opcode map says of a pipe (R60): fixed, or either vector pipe. -/
inductive PipeReq where
  | U | V0 | V1 | V01 | X
deriving DecidableEq, Repr

/-- The form of one instruction. -/
structure Form where
  pipe  : PipeReq := .U
  ill   : Bool := false         -- its encoding raises ILLEGAL_INSTR
  priv  : Bool := false         -- privileged (R72)
  ops   : List Opd := []
  sweep : Bool := false         -- sweeps the mask (R27)
  cpp   : Nat := 1              -- cycles of a pass
  lat   : Option Nat := some 1  -- result latency (R63); none: interlocked (R64)
  mem   : Bool := false         -- one of the accesses that fences and acquires hold (R200, R217)
  indir : Bool := false         -- VRDI, VWRI: the cost of a pass depends on the registers selected (R90)
  touch : Bool := false         -- counts as reading a vector register whatever its operands (R149)
deriving DecidableEq, Repr

/-- Whether an E payload is illegal (R56): a nonzero zero field, a type not listed, or a field the entry does not use. -/
def eIll (e : EPay) (types : List Nat) (xop aux scale : Bool) : Bool :=
  eZero e != 0 || !types.contains (eType e) || (!xop && eXop e != 0) || (!aux && eAux e != 0)
    || (!scale && eScale e != 0)

/-- The guard of a vector or memory instruction, and of a uniform one, as operands. -/
def gV (e : EPay) : List Opd := if eGuard e = 7 then [] else [⟨.psrc, eGuard e, 3, 1, 1, true, false⟩]
def gU (e : EPay) : List Opd := if eGuard e = 7 then [] else [⟨.qsrc, eGuard e, 3, 1, 1, true, false⟩]

/-- A destination; a source. -/
def dst (r : Role) (v f : Nat) (n : Nat := 1) : Opd := { role := r, val := v, fld := f, n := n, rd := false, wr := true }
def src (r : Role) (v f : Nat) (n : Nat := 1) : Opd := { role := r, val := v, fld := f, n := n }
/-- A base register of a group of n, aligned to 4 (R150). -/
def grp4 (v f n : Nat) : Opd := { role := .ureg, val := v, fld := f, n := n, al := 4 }

/-! ## Vector (R134 to R149) -/

/-- Floating-point arithmetic: f64 on V0 in two cycles a pass (R63, R68). -/
def formVF (d a b : Nat) (bu fma : Bool) (e : EPay) : Form :=
  let n := eRegs e
  let f64 := eType e == 3
  { pipe := if f64 then .V0 else .V01, ill := eIll e [0, 1, 2, 3] false false false, sweep := true
    cpp := if f64 then 2 else 1, lat := some (if f64 then 8 else 6)
    ops := [{ dst .vdst d 0 n with rd := fma }, src .vsrc a 1 n, src (if bu then .usrc else .vsrc) b 2 n] ++ gV e }

def formVFcmp (k p a b : Nat) (bu : Bool) (e : EPay) : Form :=
  let n := eRegs e
  let f64 := eType e == 3
  { pipe := if f64 then .V0 else .V01, ill := decide (8 ≤ k) || eIll e [0, 3] false false false, sweep := true
    cpp := if f64 then 2 else 1, lat := some (if f64 then 8 else 6)
    ops := [dst .pdst p 0, src .vsrc a 1 n, src (if bu then .usrc else .vsrc) b 2 n] ++ gV e }

def formVDot (d a b : Nat) (bu : Bool) (e : EPay) : Form :=
  { pipe := .V01, ill := eIll e [0, 1, 2] false false false, sweep := true, lat := some 7
    ops := [{ dst .vdst d 0 with rd := true }, src .vsrc a 1, src (if bu then .usrc else .vsrc) b 2] ++ gV e }

def formVI (l d a b : Nat) (bu : Bool) (e : EPay) : Form :=
  let n := eRegs e
  { pipe := .V0, ill := eIll e [0, 3] false false false, sweep := true, lat := some l
    ops := [dst .vdst d 0 n, src .vsrc a 1 n, src (if bu then .usrc else .vsrc) b 2 n] ++ gV e }

/-- A binary VIALU operation (R74, R140): two-address, or three with xop. `old` marks BFI, which also reads D. -/
def formVialu (l : Option Nat) (old : Bool) (d a u : Nat) (e : EPay) : Form :=
  let n := eRegs e
  let second := if u = 1 then Role.usrc else .vsrc
  { pipe := .V0, ill := eIll e [0, 3] true false false, sweep := true, lat := l
    ops := (match e with
      | none => [{ dst .vdst d 0 n with rd := true }, src second a 1 n]
      | some _ => [{ dst .vdst d 0 n with rd := old }, src .vsrc a 1 n, src second (eXop e) 3 n]) ++ gV e }

def formVialuCmp (p a u k : Nat) (e : EPay) : Form :=
  let n := eRegs e
  { pipe := .V0, ill := e.isNone || decide (10 ≤ k) || eIll e [0, 3] true false false, sweep := true, lat := some 4
    ops := [dst .pdst p 0, src .vsrc a 1 n, src (if u = 1 then .usrc else .vsrc) (eXop e) 3 n] ++ gV e }

def formViun (d a u : Nat) (e : EPay) : Form :=
  let n := eRegs e
  { pipe := .V0, ill := eIll e [0, 3] false false false, sweep := true, lat := some 4
    ops := [dst .vdst d 0 n, src (if u = 1 then .usrc else .vsrc) a 1 n] ++ gV e }

/-- VFUN (R144): `bit` marks ABS, NEG and MOV; of the others only SQRT has an f64 form, which is interlocked. -/
def formVfun (bit sqrt : Bool) (d a t : Nat) (e : EPay) : Form :=
  let f64 := t = 3
  let n := if f64 then 2 else 1
  { pipe := if f64 then .V0 else .V1, ill := eIll e [0] false false false || (f64 && !bit && !sqrt), sweep := true
    cpp := if f64 then 2 else 1
    lat := if f64 then (if bit then some 8 else none) else some (if bit then 4 else 12)
    ops := [dst .vdst d 0 n, src .vsrc a 1 n] ++ gV e }

/-- Registers of a VCVT code: f64, INT64 and UINT64 are pairs (R145). -/
def cvtRegs (c : Nat) : Nat := if c = 1 || c = 8 || c = 9 then 2 else 1

def formVcvt (d a y x : Nat) (e : EPay) : Form :=
  { pipe := .V1, sweep := true, lat := some 6
    ill := eIll e [0] false false false || decide (12 ≤ y) || decide (12 ≤ x) || x == y
      || (decide (6 ≤ x) && decide (6 ≤ y))
    ops := [dst .vdst d 0 (cvtRegs y), src .vsrc a 1 (cvtRegs x)] ++ gV e }

/-- VSHUF (R146). A is read at the lanes that B selects, which the entry checks. B is read at 32 bits whatever the type, so it is
one register, of any parity (log entry 25). -/
def formVshuf (d a b : Nat) (bu : Bool) (e : EPay) : Form :=
  let n := eRegs e
  { pipe := .V1, ill := eIll e [0, 3] false false false, sweep := true, lat := some 8
    ops := [dst .vdst d 0 n, { src .vsrc a 1 n with rd := false }, src (if bu then .usrc else .vsrc) b 2] ++ gV e }

def formVred (fp : Bool) (d a : Nat) (e : EPay) : Form :=
  let n := eRegs e
  { pipe := .V1, ill := eIll e (if fp then [0] else [0, 3]) false false false, sweep := true, lat := none, touch := true
    ops := [dst .udst d 0 n, src .vsrc a 1 n] ++ gV e }

/-- VRDI and VWRI (R148). The index in A is read at 32 bits at either width, so it is one register, of any parity (log entry 25). -/
def formVrdi (n d a : Nat) (e : EPay) : Form :=
  { pipe := .V0, ill := eIll e [0] false false false, sweep := true, lat := none, indir := true, touch := true
    ops := [dst .vdst d 0 n, src .vsrc a 1] ++ gV e }

def formVwri (n d a : Nat) (e : EPay) : Form :=
  { pipe := .V0, ill := eIll e [0] false false false, sweep := true, lat := none, indir := true, touch := true
    ops := [src .vsrc d 0 n, src .vsrc a 1] ++ gV e }

/-! ## Uniform (R110 to R119) -/

def formU3 (l : Option Nat) (d a b : Nat) (e : EPay) : Form :=
  let n := eRegs e
  { ill := eIll e [0, 3] false false false, lat := l
    ops := [dst .udst d 0 n, src .usrc a 1 n, src .usrc b 2 n] ++ gU e }

def formUalu1 (d a : Nat) (e : EPay) : Form :=
  let n := eRegs e
  { ill := eIll e [0, 3] false false false, ops := [dst .udst d 0 n, src .usrc a 1 n] ++ gU e }

def formUalu2 (d a : Nat) (e : EPay) : Form :=
  let n := eRegs e
  { ill := eIll e [0, 3] true false false
    ops := (match e with
      | none => [{ dst .udst d 0 n with rd := true }, src .usrc a 1 n]
      | some _ => [dst .udst d 0 n, src .usrc a 1 n, src .usrc (eXop e) 3 n]) ++ gU e }

/-- MOVI, MOVHI, ADDI (R114). -/
def formUimm (types : List Nat) (old : Bool) (d : Nat) (e : EPay) : Form :=
  { ill := eIll e types false false false, ops := [{ dst .udst d 0 (eRegs e) with rd := old }] ++ gU e }

/-- USHLI, USHRI, USARI and UANDI; a shift count must lie below the width (R114). -/
def formUimm8 (shift : Bool) (d a i : Nat) (e : EPay) : Form :=
  let n := eRegs e
  { ill := eIll e [0, 3] false false false || (shift && decide (eWidth e ≤ i))
    ops := [dst .udst d 0 n, src .usrc a 1 n] ++ gU e }

def formUcmp (k p a : Nat) (b : Option Nat) (e : EPay) : Form :=
  let n := eRegs e
  { ill := decide (10 ≤ k) || eIll e [0, 3] false false false
    ops := [dst .qdst p 0, src .usrc a 1 n] ++ (match b with | none => [] | some b => [src .usrc b 2 n]) ++ gU e }

def formUsel (d a b : Nat) (e : EPay) : Form := { formU3 (some 1) d a b e with
  ill := e.isNone || eIll e [0, 3] false false false }

def formUpred (d a : Nat) (b : Option Nat) (e : EPay) : Form :=
  { ill := eIll e [0] false false false
    ops := [dst .qdst d 0, src .qsrc a 1] ++ (match b with | none => [] | some b => [src .qsrc b 2]) ++ gU e }

def formLdc (n d : Nat) (e : EPay) : Form :=
  { ill := eIll e [0] false false false, lat := some 4, ops := [dst .udst d 0 n] ++ gU e }

def formUfmtW (a : Nat) (e : EPay) : Form := { ill := eIll e [0] false false false, ops := [src .usrc a 1] ++ gU e }
/-- GETFMT and GETST read no register: no check of R66 is made of FMT or TSTAT, whose flags may still be on their way from an earlier vector
pass; the flags that have landed are read (log entry 25). -/
def formUfmtR (d : Nat) (e : EPay) : Form :=
  { ill := eIll e [0] false false false, lat := some 2, ops := [dst .udst d 0] ++ gU e }

/-! ## Memory (R75, R190 to R204) -/

def qMode (q : Nat) : Nat := q % 4
def qScope (q : Nat) : Nat := q / 4 % 8
def qOrd (q : Nat) : Nat := q / 32

/-- Whether a Q field is illegal: an order or scope code, a combination of R75, an order or mode the entry does not list. -/
def qIll (q : Nat) (e : EPay) (orders modes : List Nat) (maxScope : Nat) : Bool :=
  !orders.contains (qOrd q) || decide (4 < qScope q) || (qOrd q == 0 && qScope q != 0)
    || !modes.contains (qMode q) || (qMode q == 3 && decide (1 < qScope q)) || (qMode q == 2 && e.isNone)
    || decide (maxScope < qScope q)

/-- The operands that form the address (R190). -/
def addrOps (uni : Bool) (a mode : Nat) (e : EPay) : List Opd :=
  let r := if uni then Role.usrc else .vsrc
  match mode with
  | 0 => [src r a 1 2]
  | 1 => [src .usrc a 1 2]
  | 2 => [src r a 1, src .usrc (eXop e) 3 2]
  | _ => [src r a 1]

/-- The E word of a memory instruction: xop and scale only in mode 0b10. -/
def eIllM (q : Nat) (e : EPay) (types : List Nat) (aux : Bool) : Bool :=
  eIll e types (qMode q == 2) aux (qMode q == 2)

def formLd (uni : Bool) (n d a q : Nat) (e : EPay) : Form :=
  { pipe := .X, sweep := !uni, mem := true, ill := qIll q e [0, 1, 2] [0, 1, 2, 3] 4 || eIllM q e [0] false
    ops := dst (if uni then .udst else .vdst) d 0 n :: addrOps uni a (qMode q) e ++ (if uni then gU e else gV e) }

def formSt (uni : Bool) (n d a q : Nat) (e : EPay) : Form :=
  { pipe := .X, sweep := !uni, mem := true, ill := qIll q e [0, 1, 3] [0, 1, 2, 3] 4 || eIllM q e [0] false
    ops := src (if uni then .usrc else .vsrc) d 0 n :: addrOps uni a (qMode q) e ++ (if uni then gU e else gV e) }

/-- ATOM, UATOM, FATOM: the width w in registers, the last legal aux code, and whether CAS takes a group of 2w (R197). -/
def formAtom (uni cas : Bool) (w last d a q : Nat) (e : EPay) : Form :=
  let n := if cas && eAux e == 10 then 2 * w else w
  { pipe := .X, sweep := !uni, mem := true
    ill := e.isNone || qIll q e [1, 2, 3, 4] [0, 1, 2, 3] 4 || eIllM q e [0] true || decide (last < eAux e)
    -- a CAS reads its compare value and its new value and writes the old one over the first
    ops := src (if uni then .ureg else .vreg) d 0 n :: dst (if uni then .ureg else .vreg) d 0 w
      :: addrOps uni a (qMode q) e ++ (if uni then gU e else gV e) }

/-- The width in registers of an FATOM operation: 2 for the f64 ones (R198). -/
def fatomRegs (e : EPay) : Nat := if eAux e = 1 || eAux e = 5 || eAux e = 6 then 2 else 1

/-- FLD and FST: data and a liveness word, an aligned group of 2 or 4 registers (R202). -/
def formFl (st : Bool) (d a q : Nat) (e : EPay) : Form :=
  let n := 2 * eRegs e
  { pipe := .X, sweep := true, mem := true
    ill := qIll q e (if st then [0, 1, 3] else [0, 1, 2]) [0, 1, 2] 2 || eIllM q e [0, 3] false
    -- FLD writes all of it; FST reads the data, the lower half, and writes the upper
    ops := (if st then [{ src .vreg d 0 n with rd := false }, src .vreg d 0 (eRegs e), dst .vreg (d + eRegs e) 0 (eRegs e)] else [dst .vreg d 0 n])
      ++ addrOps false a (qMode q) e ++ gV e }

def formPrefetch (a m : Nat) (e : EPay) : Form :=
  { pipe := .X, sweep := true, mem := true, ill := m == 3 || (m == 2 && e.isNone) || eIllM m e [0] false
    ops := addrOps false a m e ++ gV e }

def formFctl (d a : Nat) : Form := { pipe := .X, mem := true, ops := [dst .udst d 0, src .usrc a 1 2] }

/-! ## Tiles, engines, tables -/

def formTransfer (st : Bool) (d a q : Nat) : Form :=
  { pipe := .X, mem := true, ill := qIll q none (if st then [0, 1, 3] else [0, 1, 2]) [1, 3] 4
    ops := [src (if st then .acc else .tile) d 0, grp4 a 1 4] }

/-- Whether flag fields carry an illegal scope: a code above 4, or a scope with neither flag (R158, R227, R229, R235). -/
def scopeIll (flag : Bool) (s : Nat) : Bool := decide (4 < s) || (!flag && s != 0)

def formTzero (d a : Nat) : Form :=
  { pipe := .X, mem := true
    ops := [(if d < 0x80 then src .tile d 0 else if d < 0x88 then src .acc (d - 0x80) 0 else src .never d 0),
      src .usrc a 1] }

/-- TMMA and TMMAF: the E payload's low byte names the completion word's register (R161). -/
def formTmma (fetch : Bool) (d a b : Nat) (e : EPay) : Form :=
  { pipe := .X, mem := true, ill := e.isNone || eBits e 8 16 0 != 0
    ops := [src .acc d 0, src .tile a 1, (if fetch then grp4 b 2 4 else src .tile b 2), src .ureg (eXop e) 3] }

/-- The 32 bits a CSR number names, if any, and whether CSRW may write it: 0 no, 1 yes, 2 privileged (R89, R285). -/
def csrAccess (i : Nat) : Option Nat :=
  let within (lo hi : Nat) := decide (lo ≤ i) && decide (i ≤ hi)
  if within 0x0000 0x0004 || within 0x0008 0x000A || within 0x0010 0x0013 || i == 0x0030 || within 0x0040 0x004F
      || within 0x0100 0x015F || i == 0x0408 || within 0x0410 0x0411 || within 0x0440 0x0447 || within 0x0480 0x0483
      || within 0x04C0 0x04C4 || within 0x0500 0x0503 || within 0x0540 0x0567 then some 0
  else if within 0x0400 0x0404 then some 1
  else if within 0x0020 0x0026 || within 0x0420 0x0437 then some 2
  else none

def formCopy (n d a r e s : Nat) : Form :=
  { pipe := .X, mem := true, ill := scopeIll (r == 1 || e == 1) s, ops := [src .usrc d 0, grp4 a 1 n] }

def formVcm (d a : Nat) (query : Bool) : Form :=
  { pipe := .X, mem := true, ops := [(if query then dst .udst d 0 else src .usrc d 0), src .usrc a 1 2] }

/-- The privileged table instructions: A an even pair of registers (R260). -/
def formTab (d : List Opd) (a : Nat) : Form := { pipe := .X, mem := true, priv := true, ops := d ++ [src .ureg a 1 2] }

/-- WAITA and WAKEA: the Q field's order and scope (R277, R279). -/
def formWatch (wait : Bool) (d a o : Nat) : Form :=
  { pipe := .X, mem := true
    ill := (if wait then !([1, 2].contains (o / 8) && decide (1 ≤ o % 8)) else !(([1, 3] : List Nat).contains (o / 8))) || decide (4 < o % 8)
    ops := [src .usrc d 0, src .usrc a 1 2] }

def formBar (d a : Nat) (wait : Bool) : Form := { pipe := .X, mem := !wait, ops := [src .usrc d 0, src .usrc a 1] }

/-- The form of an instruction (R68 to R71). A word that names no instruction is illegal (R72). -/
def form (i : Instr) : Form :=
  match i with
  | .vadd d a b e => formVF d.toNat a.toNat b.toNat false false e
  | .vaddBu d a b e => formVF d.toNat a.toNat b.toNat true false e
  | .vsub d a b e => formVF d.toNat a.toNat b.toNat false false e
  | .vsubBu d a b e => formVF d.toNat a.toNat b.toNat true false e
  | .vmul d a b e => formVF d.toNat a.toNat b.toNat false false e
  | .vmulBu d a b e => formVF d.toNat a.toNat b.toNat true false e
  | .vmin d a b e => formVF d.toNat a.toNat b.toNat false false e
  | .vminBu d a b e => formVF d.toNat a.toNat b.toNat true false e
  | .vfma d a b e => formVF d.toNat a.toNat b.toNat false true e
  | .vfmaBu d a b e => formVF d.toNat a.toNat b.toNat true true e
  | .vmax d a b e => formVF d.toNat a.toNat b.toNat false false e
  | .vmaxBu d a b e => formVF d.toNat a.toNat b.toNat true false e
  | .vfcmp k p a b e => formVFcmp k.toNat p.toNat a.toNat b.toNat false e
  | .vfcmpBu k p a b e => formVFcmp k.toNat p.toNat a.toNat b.toNat true e
  | .vdot2 d a b e => formVDot d.toNat a.toNat b.toNat false e
  | .vdot2Bu d a b e => formVDot d.toNat a.toNat b.toNat true e
  | .viadd d a b e => formVI 4 d.toNat a.toNat b.toNat false e
  | .viaddBu d a b e => formVI 4 d.toNat a.toNat b.toNat true e
  | .visub d a b e => formVI 4 d.toNat a.toNat b.toNat false e
  | .visubBu d a b e => formVI 4 d.toNat a.toNat b.toNat true e
  | .vimul d a b e => formVI 6 d.toNat a.toNat b.toNat false e
  | .vimulBu d a b e => formVI 6 d.toNat a.toNat b.toNat true e
  | .vialuAnd d a u e => formVialu (some 4) false d.toNat a.toNat u.toNat e
  | .vialuOr d a u e => formVialu (some 4) false d.toNat a.toNat u.toNat e
  | .vialuXor d a u e => formVialu (some 4) false d.toNat a.toNat u.toNat e
  | .vialuAndn d a u e => formVialu (some 4) false d.toNat a.toNat u.toNat e
  | .vialuShl d a u e => formVialu (some 4) false d.toNat a.toNat u.toNat e
  | .vialuShr d a u e => formVialu (some 4) false d.toNat a.toNat u.toNat e
  | .vialuSar d a u e => formVialu (some 4) false d.toNat a.toNat u.toNat e
  | .vialuMins d a u e => formVialu (some 4) false d.toNat a.toNat u.toNat e
  | .vialuMaxs d a u e => formVialu (some 4) false d.toNat a.toNat u.toNat e
  | .vialuMinu d a u e => formVialu (some 4) false d.toNat a.toNat u.toNat e
  | .vialuMaxu d a u e => formVialu (some 4) false d.toNat a.toNat u.toNat e
  | .vialuMulhs d a u e => formVialu (some 6) false d.toNat a.toNat u.toNat e
  | .vialuMulhu d a u e => formVialu (some 6) false d.toNat a.toNat u.toNat e
  | .vialuDivs d a u e => formVialu none false d.toNat a.toNat u.toNat e
  | .vialuDivu d a u e => formVialu none false d.toNat a.toNat u.toNat e
  | .vialuRems d a u e => formVialu none false d.toNat a.toNat u.toNat e
  | .vialuRemu d a u e => formVialu none false d.toNat a.toNat u.toNat e
  | .vialuBfe d a u e => formVialu (some 4) false d.toNat a.toNat u.toNat e
  | .vialuBfi d a u e => formVialu (some 4) true d.toNat a.toNat u.toNat e
  | .vialuCmp p a u k e => formVialuCmp p.toNat a.toNat u.toNat k.toNat e
  | .viunMov d a u e => formViun d.toNat a.toNat u.toNat e
  | .viunNot d a u e => formViun d.toNat a.toNat u.toNat e
  | .viunNeg d a u e => formViun d.toNat a.toNat u.toNat e
  | .viunAbs d a u e => formViun d.toNat a.toNat u.toNat e
  | .viunPopc d a u e => formViun d.toNat a.toNat u.toNat e
  | .viunClz d a u e => formViun d.toNat a.toNat u.toNat e
  | .viunBrev d a u e => formViun d.toNat a.toNat u.toNat e
  | .vfunRcp d a t e => formVfun false false d.toNat a.toNat t.toNat e
  | .vfunRsqrt d a t e => formVfun false false d.toNat a.toNat t.toNat e
  | .vfunSqrt d a t e => formVfun false true d.toNat a.toNat t.toNat e
  | .vfunExp2 d a t e => formVfun false false d.toNat a.toNat t.toNat e
  | .vfunLog2 d a t e => formVfun false false d.toNat a.toNat t.toNat e
  | .vfunAbs d a t e => formVfun true false d.toNat a.toNat t.toNat e
  | .vfunNeg d a t e => formVfun true false d.toNat a.toNat t.toNat e
  | .vfunMov d a t e => formVfun true false d.toNat a.toNat t.toNat e
  | .vcvt d a y x e => formVcvt d.toNat a.toNat y.toNat x.toNat e
  | .vshuf d a b e => formVshuf d.toNat a.toNat b.toNat false e
  | .vshufBu d a b e => formVshuf d.toNat a.toNat b.toNat true e
  | .vredAdd d a e => formVred false d.toNat a.toNat e
  | .vredMins d a e => formVred false d.toNat a.toNat e
  | .vredMaxs d a e => formVred false d.toNat a.toNat e
  | .vredMinu d a e => formVred false d.toNat a.toNat e
  | .vredMaxu d a e => formVred false d.toNat a.toNat e
  | .vredAnd d a e => formVred false d.toNat a.toNat e
  | .vredOr d a e => formVred false d.toNat a.toNat e
  | .vredXor d a e => formVred false d.toNat a.toNat e
  | .vredFaddF32 d a e => formVred true d.toNat a.toNat e
  | .vredFminF32 d a e => formVred true d.toNat a.toNat e
  | .vredFmaxF32 d a e => formVred true d.toNat a.toNat e
  | .vrdiB32 d a e => formVrdi 1 d.toNat a.toNat e
  | .vrdiB64 d a e => formVrdi 2 d.toNat a.toNat e
  | .vwriB32 d a e => formVwri 1 d.toNat a.toNat e
  | .vwriB64 d a e => formVwri 2 d.toNat a.toNat e
  | .uadd d a b e => formU3 (some 1) d.toNat a.toNat b.toNat e
  | .usub d a b e => formU3 (some 1) d.toNat a.toNat b.toNat e
  | .umul d a b e => formU3 (some 3) d.toNat a.toNat b.toNat e
  | .umulhs d a b e => formU3 (some 3) d.toNat a.toNat b.toNat e
  | .umulhu d a b e => formU3 (some 3) d.toNat a.toNat b.toNat e
  | .udivs d a b e => formU3 none d.toNat a.toNat b.toNat e
  | .udivu d a b e => formU3 none d.toNat a.toNat b.toNat e
  | .urems d a b e => formU3 none d.toNat a.toNat b.toNat e
  | .uremu d a b e => formU3 none d.toNat a.toNat b.toNat e
  | .uand d a b e => formU3 (some 1) d.toNat a.toNat b.toNat e
  | .uor d a b e => formU3 (some 1) d.toNat a.toNat b.toNat e
  | .uxor d a b e => formU3 (some 1) d.toNat a.toNat b.toNat e
  | .ushl d a b e => formU3 (some 1) d.toNat a.toNat b.toNat e
  | .ushr d a b e => formU3 (some 1) d.toNat a.toNat b.toNat e
  | .usar d a b e => formU3 (some 1) d.toNat a.toNat b.toNat e
  | .ualuMov d a e => formUalu1 d.toNat a.toNat e
  | .ualuNot d a e => formUalu1 d.toNat a.toNat e
  | .ualuNeg d a e => formUalu1 d.toNat a.toNat e
  | .ualuAbs d a e => formUalu1 d.toNat a.toNat e
  | .ualuPopc d a e => formUalu1 d.toNat a.toNat e
  | .ualuClz d a e => formUalu1 d.toNat a.toNat e
  | .ualuBrev d a e => formUalu1 d.toNat a.toNat e
  | .ualuMins d a e => formUalu2 d.toNat a.toNat e
  | .ualuMaxs d a e => formUalu2 d.toNat a.toNat e
  | .ualuMinu d a e => formUalu2 d.toNat a.toNat e
  | .ualuMaxu d a e => formUalu2 d.toNat a.toNat e
  | .ualuAndn d a e => formUalu2 d.toNat a.toNat e
  | .movi d _ e => formUimm [0, 3] false d.toNat e
  | .movhi d _ e => formUimm [0] true d.toNat e
  | .addi d _ e => formUimm [0, 3] true d.toNat e
  | .ucmp k p a b e => formUcmp k.toNat p.toNat a.toNat (some b.toNat) e
  | .ucmpi k p a _ e => formUcmp k.toNat p.toNat a.toNat none e
  | .usel d a b e => formUsel d.toNat a.toNat b.toNat e
  | .ushli d a i e => formUimm8 true d.toNat a.toNat i.toNat e
  | .ushri d a i e => formUimm8 true d.toNat a.toNat i.toNat e
  | .usari d a i e => formUimm8 true d.toNat a.toNat i.toNat e
  | .uandi d a i e => formUimm8 false d.toNat a.toNat i.toNat e
  | .upredAnd d a b e => formUpred d.toNat a.toNat (some b.toNat) e
  | .upredOr d a b e => formUpred d.toNat a.toNat (some b.toNat) e
  | .upredXor d a b e => formUpred d.toNat a.toNat (some b.toNat) e
  | .upredNot d a e => formUpred d.toNat a.toNat none e
  | .upredMov d a e => formUpred d.toNat a.toNat none e
  | .ldcB32 d _ e => formLdc 1 d.toNat e
  | .ldcB64 d _ e => formLdc 2 d.toNat e
  | .setfmt a e => formUfmtW a.toNat e
  | .getfmt d e => formUfmtR d.toNat e
  | .getst d e => formUfmtR d.toNat e
  | .setst a e => formUfmtW a.toNat e
  | .ldB8 d a q e => formLd false 1 d.toNat a.toNat q.toNat e
  | .ldB32 d a q e => formLd false 1 d.toNat a.toNat q.toNat e
  | .ldB16 d a q e => formLd false 1 d.toNat a.toNat q.toNat e
  | .ldB64 d a q e => formLd false 2 d.toNat a.toNat q.toNat e
  | .ldB128 d a q e => formLd false 4 d.toNat a.toNat q.toNat e
  | .ldS8 d a q e => formLd false 1 d.toNat a.toNat q.toNat e
  | .ldS16 d a q e => formLd false 1 d.toNat a.toNat q.toNat e
  | .uldB32 d a q e => formLd true 1 d.toNat a.toNat q.toNat e
  | .stB8 d a q e => formSt false 1 d.toNat a.toNat q.toNat e
  | .stB32 d a q e => formSt false 1 d.toNat a.toNat q.toNat e
  | .stB16 d a q e => formSt false 1 d.toNat a.toNat q.toNat e
  | .stB64 d a q e => formSt false 2 d.toNat a.toNat q.toNat e
  | .stB128 d a q e => formSt false 4 d.toNat a.toNat q.toNat e
  | .ustB32 d a q e => formSt true 1 d.toNat a.toNat q.toNat e
  | .uldB64 d a q e => formLd true 2 d.toNat a.toNat q.toNat e
  | .ustB64 d a q e => formSt true 2 d.toNat a.toNat q.toNat e
  | .atomB32 d a q e => formAtom false true 1 10 d.toNat a.toNat q.toNat e
  | .atomB64 d a q e => formAtom false true 2 10 d.toNat a.toNat q.toNat e
  | .fatom d a q e => formAtom false false (fatomRegs e) 6 d.toNat a.toNat q.toNat e
  | .uatomB32 d a q e => formAtom true true 1 10 d.toNat a.toNat q.toNat e
  | .fence o s => { pipe := .X, ill := !([2, 3].contains o.toNat) || decide (4 < s.toNat) }
  | .prefetchL1 a m e => formPrefetch a.toNat m.toNat e
  | .prefetchVc a m e => formPrefetch a.toNat m.toNat e
  | .fld d a q e => formFl false d.toNat a.toNat q.toNat e
  | .fst d a q e => formFl true d.toNat a.toNat q.toNat e
  | .fbirth d a => formFctl d.toNat a.toNat
  | .frenew d a => formFctl d.toNat a.toNat
  | .flife d a => formFctl d.toNat a.toNat
  | .tshape d a => { pipe := .X, lat := some 2, ops := [dst .tile d.toNat 0, src .usrc a.toNat 1] }
  | .tzero d a => formTzero d.toNat a.toNat
  | .tld d a q => formTransfer false d.toNat a.toNat q.toNat
  | .tst d a q => formTransfer true d.toNat a.toNat q.toNat
  | .tfetch d a r s _ => { pipe := .X, mem := true, ill := scopeIll (r.toNat == 1) s.toNat, ops := [src .tile d.toNat 0, grp4 a.toNat 1 5] }
  | .uldB128 d a q e => formLd true 4 d.toNat a.toNat q.toNat e
  | .ustB128 d a q e => formSt true 4 d.toNat a.toNat q.toNat e
  | .bra _ q _ => { ops := [src .qsrc q.toNat 0] }
  | .call d _ => { ops := [dst .udst d.toNat 0 2] }
  | .jmp d a => { ops := [dst .udst d.toNat 0 2, src .pair a.toNat 1 2] }
  | .ret a => { ops := [src .pair a.toNat 1 2] }
  | .brv _ q _ e => { ill := e.isNone || eBits e 16 8 0 != 0, ops := [src .psrc q.toNat 0] }
  | .qredAny d a => { ops := [dst .qdst d.toNat 0, src .psrc a.toNat 1] }
  | .qredAll d a => { ops := [dst .qdst d.toNat 0, src .psrc a.toNat 1] }
  | .waitc d a => { ops := [src .path d.toNat 0, src .usrc a.toNat 1] }
  | .trap _ => {}
  | .waita d a o => formWatch true d.toNat a.toNat o.toNat
  | .wakea d a o => formWatch false d.toNat a.toNat o.toNat
  | .barinit d a => formBar d.toNat a.toNat false
  | .bararm d a => formBar d.toNat a.toNat false
  | .barwait d a => formBar d.toNat a.toNat true
  | .csrr d i => { ill := (csrAccess i.toNat).isNone, lat := some 2, ops := dst .udst d.toNat 0 :: (if 0x40 ≤ i.toNat ∧ i.toNat < 0x50 then [src .tcr (i.toNat - 0x40) 3] else []) }
  | .csrw d i => { ill := !([some 1, some 2].contains (csrAccess i.toNat)), priv := csrAccess i.toNat == some 2, ops := [src .usrc d.toNat 0] }
  | .snap a => { priv := true, ops := [src .usrc a.toNat 1] }
  | .tmma d a b e => formTmma false d.toNat a.toNat b.toNat e
  | .tmmaf d a b e => formTmma true d.toNat a.toNat b.toNat e
  | .copy d a r e s _ _ _ => formCopy 8 d.toNat a.toNat r.toNat e.toNat s.toNat
  | .copyg d a r e s _ _ _ => formCopy 12 d.toNat a.toNat r.toNat e.toNat s.toNat
  | .copyb d a r s m => { formCopy 8 d.toNat a.toNat r.toNat 0 s.toNat with ops := [src .usrc d.toNat 0, grp4 a.toNat 1 8] ++ (if m.toNat = 0 then [src .never 0 2] else []) }
  | .iredM d a => { pipe := .X, mem := true, ops := [grp4 d.toNat 0 6, src .vsrc a.toNat 1] }
  | .iredC d a => { pipe := .X, mem := true, ops := [grp4 d.toNat 0 6, src .vsrc a.toNat 1] }
  | .sow d a r s => { pipe := .X, mem := true, ill := scopeIll (r.toNat == 1) s.toNat, ops := [dst .udst d.toNat 0 2, grp4 a.toNat 1 8] }
  | .vclean d a => formVcm d.toNat a.toNat false
  | .vinval d a => formVcm d.toNat a.toNat false
  | .vcflush d a => formVcm d.toNat a.toNat false
  | .vcquery d a => formVcm d.toNat a.toNat true
  | .vcdef d a => formTab [dst .udst d.toNat 0] a.toNat
  | .vcresize d a => formTab [dst .udst d.toNat 0] a.toNat
  | .rgset d a => formTab [src .udst d.toNat 0 2, dst .udst d.toNat 0] a.toNat
  | .ptinv d a => formTab [src .usrc d.toNat 0] a.toNat
  | .replay d a => formTab [dst .udst d.toNat 0] a.toNat
  | .loamVadd _ _ _ _ _ _ => {}
  | .loamVsub _ _ _ _ _ _ => {}
  | .loamVmul _ _ _ _ _ _ => {}
  | .loamVfma _ _ _ _ _ _ => {}
  | .loamVmin _ _ _ _ _ _ => {}
  | .loamVmax _ _ _ _ _ _ => {}
  | .loamVcvt _ _ _ _ _ => {}
  | .loamVredAdd _ _ _ _ => {}
  | .loamVredMin _ _ _ _ => {}
  | .loamVredMax _ _ _ _ => {}
  | .loamVcmp _ _ _ _ _ _ _ => {}
  | .loamVsel _ _ _ _ _ => {}
  | .loamVmovx _ _ _ => {}
  | .loamVlane _ _ => {}
  | .loamKand _ _ _ => {}
  | .loamKor _ _ _ => {}
  | .loamKxor _ _ _ => {}
  | .loamKandn _ _ _ => {}
  | .loamKnot _ _ => {}
  | .loamKfromx _ _ => {}
  | .loamKtox _ _ => {}
  | .loamSaluAdd _ _ _ => {}
  | .loamSaluSub _ _ _ => {}
  | .loamSaluMul _ _ _ => {}
  | .loamSaluAnd _ _ _ => {}
  | .loamSaluOr _ _ _ => {}
  | .loamSaluXor _ _ _ => {}
  | .loamSaluShl _ _ _ => {}
  | .loamSaluShr _ _ _ => {}
  | .loamSaluSar _ _ _ => {}
  | .loamSaluMin _ _ _ => {}
  | .loamSaluMax _ _ _ => {}
  | .loamSaluSlt _ _ _ => {}
  | .loamSaddi _ _ _ => {}
  | .loamMovi _ _ => {}
  | .loamLdk _ _ => {}
  | .loamVld _ _ _ _ => {}
  | .loamVst _ _ _ _ => {}
  | .loamVgather _ _ _ _ _ => {}
  | .loamBld _ _ _ _ => {}
  | .loamBst _ _ _ _ => {}
  | .loamSld _ _ _ => {}
  | .loamSst _ _ _ => {}
  | .loamBr _ => {}
  | .loamBcc _ _ _ => {}
  | .loamLoop _ _ => {}
  | .unassignedOpcode _ => { ill := true }
  | .loamUnassignedOpcode _ => {}
  | .hostLaunchMessage => {}
  | .bindPlot => {}
  | .hintFallbackExpiry => {}
  | .coresidentFallbackExpiry => {}
  | .waitCounterPoll => {}
  | .plotSave => {}
  | .resumePlot => {}
  | .debugResumePlot => {}
  | .plotRetire => {}
  | .sowingComplete => {}
  | .minShareOwed => {}
  | .loadResponse => {}
  | .storeAck => {}
  | .memoryRequestAtHome => {}
  | .invalidationArrival => {}
  | .invalidationApply => {}
  | .invalidationAckAtHome => {}
  | .atomicAtHome => {}
  | .fleetingAccessAtBank => {}
  | .fleetingExpiry => {}
  | .tick => {}
  | .faultReport => {}
  | .faultFilterRetry => {}
  | .faultStageRetry => {}
  | .faultRecordWrite => {}
  | .fqconsWrite => {}
  | .gleanDrain => {}
  | .refusalResponse => {}
  | .remoteTimeoutExpiry => {}
  | .responsePreciseTrap => {}
  | .inboundAccess => {}
  | .inboundMovingTimeout => {}
  | .replayMessage => {}
  | .controllerAccessMessage => {}
  | .attestationRequest => {}
  | .matrixEntryStart => {}
  | .tmmafOperandFetch => {}
  | .matrixCheck => {}
  | .copyCommandStart => {}
  | .copyCommandCredit => {}
  | .barrierCredit => {}
  | .tileTransferCredit => {}
  | .iredCommandCredit => {}
  | .netbarPhaseComplete => {}
  | .waitaCompare => {}
  | .vcSweepStep => {}
  | .vcSweepEnd => {}
  | .columnFence => {}
  | .channelFence => {}
  | .memoryFence => {}
  | .powerGood => {}
  | .bootWindowClose => {}
  | .quadPiTick => {}
  | .ratioRaise => {}
  | .reservationRequest => {}
  | .reservationGrant => {}
  | .budgetWrite => {}
  | .retentionWindowWrite => {}
  | .controllerRegisterWrite => {}
  | .portTrainingFailure => {}
  | .debuggerSnapshotTrip => {}
  | .snapshotLatch => {}
  | .snapshotClear => {}
  | .debugMemoryRead => {}
  | .debugFleetingRead => {}
  | .selfRefreshEntry => {}
  | .loamDispatch => {}
  | .loamBind => {}
  | .loamResume => {}
  | .nop => {}
  | .endTeam => {}
  | .join => {}
  | .yield => {}
  | .pbar => {}
  | .dbar => {}
  | .wbar => {}
  | .eret => { priv := true }
  | .halt => { priv := true }
  | .loamSync => {}
  | .loamYield => {}
  | .loamDone => {}
  | .fixedLatencyWrite => {}
  | .interlockedWrite => {}
  | .tzeroCredit => {}
  | .vcmComplete => {}
  | .tableInstructionStatus => {}
  | .launchStatus => {}
  | .loamAccessComplete => {}

end Sys2Proof.Machine
end

