-- ==== Sys2Proof/Machine/Ops.lean ====
section
/-! DEFINITION. The named operations over teams and cores: reading and changing the parts of State, results that are issued
and land later (R61 to R66), taking a trap and returning from one (R316, R131), and issuing one word (R59 to R67). -/
namespace Sys2Proof.Machine

/-! ## The parts of the state -/

def State.team (s : State) (tk : Nat) : Team := Tbl.getD s.teams tk {}
def State.setTeam (s : State) (tk : Nat) (t : Team) : State := { s with teams := Tbl.set s.teams tk t }
def State.modTeam (s : State) (tk : Nat) (f : Team → Team) : State := s.setTeam tk (f (s.team tk))
/-- The team of the issue under way. -/
def State.ct (s : State) : Team := s.team s.cur.tk
def State.modCt (s : State) (f : Team → Team) : State := s.modTeam s.cur.tk f

def State.core (s : State) (c : Nat) : Core := Tbl.getD s.cores c {}
def State.modCore (s : State) (c : Nat) (f : Core → Core) : State := { s with cores := Tbl.set s.cores c (f (s.core c)) }
def State.quad (s : State) (q : Nat) : Quad := Tbl.getD s.quads q {}
def State.modQuad (s : State) (q : Nat) (f : Quad → Quad) : State := { s with quads := Tbl.set s.quads q (f (s.quad q)) }
def State.dom (s : State) (d : Nat) : Dom := Tbl.getD s.doms d {}
def State.modDom (s : State) (d : Nat) (f : Dom → Dom) : State := { s with doms := Tbl.set s.doms d (f (s.dom d)) }
def State.plot (s : State) (pid : Nat) : Plot := Tbl.getD s.plots pid { sow := 0, no := 0 }
def State.modPlot (s : State) (pid : Nat) (f : Plot → Plot) : State := { s with plots := Tbl.set s.plots pid (f (s.plot pid)) }
def State.sow (s : State) (sid : Nat) : Sowing := Tbl.getD s.sows sid { words := [] }
def State.modSow (s : State) (sid : Nat) (f : Sowing → Sowing) : State := { s with sows := Tbl.set s.sows sid (f (s.sow sid)) }

/-- The plot and the sowing of a team's key; a plot's team keys. -/
def pidOf (tk : Nat) : Nat := tk / 16
def sidOf (tk : Nat) : Nat := tk / 16 / 2 ^ 32
def plotTeams (p : Plot) : List Nat := (List.range p.nteams).map fun i => 16 * (2 ^ 32 * p.sow + p.no) + i
/-- The domain and the quad of a core; the core's number in its domain. -/
def domOf (core : Nat) : Nat := core / 48
def quadOf (core : Nat) : Nat := core / 4

/-- Bit n of a word. -/
def tbit (x : Word) (n : Nat) : Bool := x.getLsbD n
def Team.priv (t : Team) : Bool := tbit t.tstat 8
def Team.chk (t : Team) : Bool := tbit t.tstat 7
def Team.rerr (t : Team) : Bool := tbit t.tstat 6
def Team.gleaning (t : Team) : Bool := tbit t.tstat 9
/-- A word with bit n set or cleared. -/
def setB (x : Word) (n : Nat) (b : Bool) : Word := if b then x ||| BitVec.twoPow 32 n else x &&& ~~~(BitVec.twoPow 32 n)

/-- The environment that FMT selects (R83). -/
def Team.env (t : Team) : Env :=
  { rm := t.fmt.toNat % 4, ftz := tbit t.fmt 2, daz := tbit t.fmt 3, sat := tbit t.fmt 4 }

/-- A fresh identifier of an access, command or request (log entry 20). -/
def State.newId (s : State) : Nat × State := (s.fresh, { s with fresh := s.fresh + 1 })

/-- Bits lo to lo + n - 1 of a number. -/
def nb (x lo n : Nat) : Nat := x / 2 ^ lo % 2 ^ n

/-! ## Names of scratchpads and completion targets (R35, R151, R175) -/

/-- A core's logical position, 2y + x (R252). -/
def posOf (s : State) (core : Nat) : Nat := (Tbl.getD s.pos core (BitVec.ofNat 2 (core % 4))).toNat
/-- The core of the same quad at a logical position. -/
def coreAt (s : State) (core pos : Nat) : Nat :=
  let q := 4 * (core / 4)
  q + (((List.range 4).find? fun i => posOf s (q + i) == pos).getD 0)
/-- The core that a relative name means (R35): bit 0 steps east, bit 1 south. -/
def relCore (s : State) (core name : Nat) : Nat := coreAt s core (posOf s core ^^^ name)

/-- The scratchpad byte that a team's local address names. -/
def lmKey (s : State) (t : Team) (la : Nat) : Nat :=
  2 ^ 19 * relCore s t.core (la / 2 ^ 19 % 4) + t.lmbase + la % 2 ^ 19

/-- The kind and the target of a completion word. -/
def cwKind (cw : Nat) : Nat := nb cw 30 2
def cwTarget (cw : Nat) : Nat := nb cw 0 21
/-- Whether it names a byte barrier. -/
def cwBar (cw : Nat) : Bool := cwKind cw == 0
/-- The scratchpad byte of the barrier that a team's completion word names. -/
def cwKey (s : State) (tk cw : Nat) : Nat := lmKey s (s.team tk) (cwTarget cw)
/-- The completion target that a word names for a team: a barrier's byte, or one of its completion registers. -/
def targetKey (s : State) (tk cw : Nat) : Nat := if cwBar cw then cwKey s tk cw else 2 ^ 48 + 8 * tk + cwTarget cw

/-- The key under which the credits that WAITC on `en` observes are kept for a team (R217). -/
def enKey (tk : Nat) : Nat := 2 ^ 48 + 8 * tk + 4

/-! ## Performance counters (R281) -/

/-- Whether a core's column is fenced. -/
def coreGone (s : State) (core : Nat) : Bool := (s.dom (domOf core)).colF.getLsbD (core % 48 / 4)

/-- n events of a code on a core: every PMC whose selector names the code and is on counts them. Those of a fenced core stand (R352). -/
def pmcAdd (s : State) (core code n : Nat) : State :=
  let c := s.core core
  let sel := c.pevsel.filter fun e => tbit e.2 31 && e.2.toNat % 256 == code
  if sel.isEmpty || n = 0 || coreGone s core then s
  else s.modCore core fun c => { c with pmc := sel.foldl (fun p e => Tbl.put p e.1 (Tbl.getD p e.1 0 + BitVec.ofNat 64 n) 0) c.pmc }

/-- Whether a plot holds room in its quad. -/
def Plot.resident (p : Plot) : Bool := p.st != .saved && p.st != .halted

/-- What n cycles of a core's clock count (R281): by event code, for the teams resident on it as they stand. Codes 0x04 and 0x0B are free, the
first at most n, and 0 where no team is ready (log entry 7). -/
def cycleEvents (s : State) (core n : Nat) : List (Nat × Nat) :=
  let ts := (s.teams.filter fun p => p.2.core == core && (s.plot (pidOf p.1)).resident).map (·.2.st)
  let num (f : TState → Bool) : Nat := (ts.filter f).length
  [(0x04, if ts.contains .ready then Config.idleCycles s.freeN % (n + 1) else 0),
   (0x05, n * num fun st => match st with | .counterWait _ _ | .barWait _ _ | .netWait _ | .watchWait _ => true | _ => false),
   (0x06, n * num fun st => match st with | .faultPark _ | .releasePark => true | _ => false),
   (0x07, if ts.contains .engineStall then n else 0),
   (0x0B, Config.bankCycles s.freeN)]

/-- n cycles of a core's clock counted. -/
def passCycles (s : State) (core n : Nat) : State :=
  if n = 0 || (s.core core).pevsel.isEmpty then s
  else (cycleEvents s core n).foldl (fun s e => pmcAdd s core e.1 e.2) { s with freeN := s.freeN + 1 }

/-- A core's clock reaches cycle c. -/
def advance (s : State) (core c : Nat) : State :=
  (passCycles s core (c - (s.core core).cyc)).modCore core fun x => { x with cyc := max x.cyc c }

/-! ## Results on their way (R61 to R66, R91) -/

/-- Whether a result is read from cycle c on. -/
def PendW.dueBy (p : PendW) (c : Nat) : Bool := match p.due with | some d => decide (d ≤ c) | none => false

/-- The team as a pass at cycle c of its current group reads it: every earlier group's result that is due has landed. -/
def Team.view (t : Team) (c : Nat) : Team :=
  (t.pend.filter fun p => decide (p.grp < t.grp) && p.dueBy c).foldl (fun t p => t.puts p.ws) t

/-- Whether the kind of access writes registers when it returns (R82). -/
def AKind.returns (k : AKind) : Bool :=
  match k with
  | .load _ | .atom _ | .fatom _ | .fld | .fst | .fbirth | .frenew | .flife => true
  | _ => false

/-- The register places that the results of issue groups before g no longer write: one of group g has (R65). -/
def supersede (s : State) (tk g : Nat) (sl : List Slot) : State :=
  let hit (a : Slot) := sl.any fun b => b.covers a
  let s := s.modTeam tk fun t => { t with pend := t.pend.map fun p => if p.grp < g then { p with ws := p.ws.filter fun w => !hit w.1 } else p }
  { s with
    accs := Tbl.mapV (fun (a : Acc) => if a.tk = tk && decide (a.grp < g) && a.kind.returns then { a with dropped := a.dropped ++ sl } else a) s.accs
    reqs := Tbl.mapV (fun (r : Req) => if r.tk = tk && decide (r.grp < g) then { r with dropped := r.dropped ++ sl } else r) s.reqs }

/-- Whether an operation issued after group g has written a window place already: a result of that group then lands beneath it (R81). -/
def beneath (s : State) (tk g : Nat) (sl : Slot) : Bool :=
  match sl with
  | .v l n => s.races.any fun r => r.tk == tk && r.elem == (s.team tk).elem l n && r.steps.any fun p => decide (g < p.grp)
  | _ => false

/-- A value over which operations had written when it landed: the first of them wrote over v, and no later one is older than it. -/
def Race.sink (g : Nat) (v : Word) (r : Race) : Race :=
  let early := r.steps.takeWhile fun p => decide (p.grp ≤ g)
  let late := r.steps.drop early.length
  let m := late.foldl (fun m p => m ||| p.mask) 0
  let f (x : Word) : Word := (x &&& m) ||| (v &&& ~~~m)
  match late with
  | [] => r
  | p :: q => { r with
      final := f r.final, shown := f r.shown
      steps := early ++ { p with others := p.others.dropLast.map f ++ v :: (if early.isEmpty then [] else p.others.getLast?.toList) }
        :: q.map fun p => { p with others := p.others.map f } }

/-- The results of group g for places that later operations have written land beneath what those wrote. -/
def sinkAll (s : State) (tk g : Nat) (ws : List (Slot × Nat)) : State :=
  ws.foldl (fun s w => match w.1 with
    | .v l n =>
      let e := (s.team tk).elem l n
      let mine (r : Race) : Bool := r.tk == tk && r.elem == e
      match s.races.find? mine with
      | none => s
      | some r =>
        let v := BitVec.ofNat 32 w.2
        let m := (r.steps.dropWhile fun p => decide (p.grp ≤ g)).foldl (fun m p => m ||| p.mask) 0
        let x := Tbl.getD (s.team tk).win e 0
        { s.modTeam tk fun t => { t with win := Tbl.put t.win e ((x &&& m) ||| (v &&& ~~~m)) 0 } with
          races := s.races.map fun r => if mine r then r.sink g v else r }
    | _ => s) s

/-- The results of issue group g written to a team: older results on their way to the same places are dropped (R65), and what a later operation
has written stays (R81). -/
def commit (s : State) (tk g : Nat) (ws : List (Slot × Nat)) : State :=
  let low := ws.filter fun w => beneath s tk g w.1
  let s := (sinkAll s tk g low).modTeam tk fun t => t.puts (ws.filter fun w => !low.contains w)
  supersede s tk g (ws.map (·.1))

/-- A free choice (log entries 9 and 20). -/
def drawBool (s : State) : Bool × State := (Config.holdsUniform s.freeN, { s with freeN := s.freeN + 1 })

/-- The register of a furrow that a write changes: furr * register + furrow. -/
def rowOf (t : Team) (w : Slot × Nat) : Option Nat := match w.1 with | .v l n => some (t.furr * n + l / 64) | _ => none

/-- The furrows' registers that a list of writes leaves in part as they were (R91). -/
def partRows (t : Team) (ws : List (Slot × Nat)) : List Nat :=
  let rs := ws.filterMap (rowOf t)
  rs.eraseDups.filter fun r => decide (rs.count r < 64)

/-- The expansions of R91 that writes to furrows' registers make: a register written in part, while its 64 positions hold one
value, may have been held in uniform form. Which are held is free (log entry 9). -/
def expandRows (s : State) (tk : Nat) (rows : List Nat) : State :=
  let t := s.team tk
  let e0 (r : Nat) := t.vwv / 4 + 64 * r
  let uni (r : Nat) := (List.range 64).all fun j => Tbl.getD t.win (e0 r + j) 0 == Tbl.getD t.win (e0 r) 0
  (rows.filter uni).foldl (fun s _ =>
    let (b, s) := drawBool s
    let n := if b then 1 else 0
    pmcAdd (s.modTeam tk fun t => { t with expcnt := t.expcnt + BitVec.ofNat 32 n }) t.core 0x08 n) s

/-- The expansions of writes that are made at once. -/
def expand (s : State) (tk : Nat) (ws : List (Slot × Nat)) : State := expandRows s tk (partRows (s.team tk) ws)

/-- The passes of an instruction, each with the registers of a list that it is the first to write. -/
def markRows (t : Team) : List Nat → List PendW → List PendW
  | _, [] => []
  | rows, p :: r =>
    let mine := rows.filter (p.ws.filterMap (rowOf t)).contains
    { p with part := mine } :: markRows t (rows.filter fun x => !mine.contains x) r

/-- The results of an instruction, pass by pass, with what each writes in part (R91). -/
def passResults (t : Team) (ps : List PendW) : List PendW := markRows t (partRows t (ps.flatMap (·.ws))) ps

/-- A result lands: the registers of it that are still to be written expand if they must, and its writes are made. A VWRI's
also end those of its own group to the same places (R149). -/
def landOne (s : State) (tk : Nat) (p : PendW) : State :=
  let rows := p.ws.filterMap (rowOf (s.team tk))
  let s := commit (expandRows s tk (p.part.filter rows.contains)) tk p.grp p.ws
  if p.vwri then supersede s tk (p.grp + 1) (p.ws.map (·.1)) else s

/-- Land the results of a team that a test names, in issue order; a VWRI's after those of its group. -/
def landIf (s : State) (tk : Nat) (f : PendW → Bool) : State :=
  let done := (s.team tk).pend.filter f
  let s := s.modTeam tk fun t => { t with pend := t.pend.filter fun p => !f p }
  (done.filter (!·.vwri) ++ done.filter (·.vwri)).foldl (fun s p => landOne s tk p) s

/-- Land what is due by cycle c. -/
def land (s : State) (tk c : Nat) : State := landIf s tk fun p => p.dueBy c
/-- Land everything: the state of R62 after a trap entry, an ERET or a wake. -/
def landAll (s : State) (tk : Nat) : State := landIf s tk fun _ => true

/-- A result of the current group in cycle `base` of a pass: it is read from `base` + latency on, or lands when its
interlock is released (R63, R64). -/
def result (s : State) (lat : Option Nat) (base : Nat) (ws : List (Slot × Nat)) : State :=
  s.modCt fun t => { t with pend := t.pend ++ [{ grp := t.grp, due := lat.map (base + ·), ws := ws }] }

/-- A team whose TSTAT receives bits by OR; a SETST that is still to land keeps them (R84, R119). -/
def Team.orFlags (t : Team) (f : Word → Word) : Team :=
  let g (w : Slot × Nat) : Slot × Nat := if w.1 == .stat then (w.1, (f (BitVec.ofNat 32 w.2)).toNat % 256) else w
  { t with tstat := f t.tstat, pend := t.pend.map fun p => { p with ws := p.ws.map g } }

/-! ## What acquires and releases do to caches (R176, R215, R217) -/

/-- Apply an invalidation: every line of the block in the domain's remote-class caches is dropped. -/
def dropRemote (s : State) (dom block : Nat) : State :=
  s.modDom dom fun m => { m with
    lines := m.lines.filter fun l => !(l.remote && decide (l.base < 256 * block + 256) && decide (256 * block < l.base + l.size)) }

/-- A domain applies every invalidation it has acknowledged (R215). -/
def emptyInvq (s : State) (dom : Nat) : State :=
  let s := (s.dom dom).invq.foldl (fun s b => dropRemote s dom b) s
  s.modDom dom fun m => { m with invq := [] }

/-- Every line of a core's L1 is invalidated (R176). -/
def l1Drop (s : State) (core : Nat) : State := s.modCore core fun c => { c with l1 := [] }

/-- The values that a read of an unobserved element may return, and a free choice of one. -/
def Race.values (r : Race) : List Word := r.final :: r.steps.flatMap (·.others)
def Race.pick (r : Race) (n : Nat) : Word := r.values.getD (Config.windowChoice n % r.values.length) r.final

/-- One more value that may be read until the last write is observed. -/
def Race.also (r : Race) (w : Word) : Race :=
  { r with steps := match r.steps.reverse with | p :: q => ({ p with others := w :: p.others } :: q).reverse | [] => [] }

/-- A race as the window stands: an element that a vector instruction has written since ends with that value or the
operation's (R81). -/
def Race.now (r : Race) (t : Team) (n : Nat) : Race :=
  let w := Tbl.getD t.win r.elem 0
  if w = r.shown then r
  else if Config.windowChoice n % 2 = 0 then { r.also r.final with final := w } else r.also w

/-- One element shown to the team's next reads. -/
def showRace (s : State) (r : Race) : State :=
  let t := s.team r.tk
  let r := r.now t s.freeN
  let v := r.pick (s.freeN + 1)
  let s := s.modTeam r.tk fun t => { t with win := Tbl.put t.win r.elem v 0 }
  { s with freeN := s.freeN + 2, races := s.races ++ [{ r with shown := v }] }

/-- Each unobserved element of a team's window shows one of its values, chosen freely (R81). -/
def reveal (s : State) (tk : Nat) : State :=
  match s.races.filter (·.tk == tk) with
  | [] => s
  | rs => rs.foldl showRace { s with races := s.races.filter (·.tk != tk) }

/-- What an engine has written is no later vector write: the operations accepted keep it. -/
def keepWas (s : State) (tk : Nat) (ws : List (Nat × Word)) : State :=
  let f (w : Tbl Word) : Tbl Word := ws.foldl (fun w x => Tbl.put w x.1 x.2 0) w
  { s.modCore (s.team tk).core fun c => { c with
      fifo := c.fifo.map fun e => if e.tk == tk then { e with was := f e.was } else e
      stallM := c.stallM.map fun e => if e.tk == tk then { e with was := f e.was } else e } with
    cmds := Tbl.mapV (fun m => if m.tk == tk then { m with was := f m.was } else m) s.cmds }

/-- No result of a group before g lands on an element any more: a wait has observed what an operation of group g wrote there. -/
def observed (s : State) (tk g e : Nat) : State :=
  match (s.team tk).slotOf e with
  | some sl => supersede s tk g [sl]
  | none => s

/-- One element takes its final value. -/
def endRace (s : State) (r : Race) : State :=
  let q := r.now (s.team r.tk) s.freeN
  keepWas { s.modTeam r.tk fun t => { t with win := Tbl.put t.win r.elem q.final 0 } with freeN := s.freeN + 1 } r.tk [(r.elem, r.final)]

/-- A race once the writes that a test names have been observed: what the element held before the last of them is read no more. -/
def Race.after (r : Race) (f : RStep → Bool) : Race := { r with steps := (r.steps.reverse.takeWhile fun p => !f p).reverse }

def settleRace (f : Race → RStep → Bool) (s : State) (r : Race) : State :=
  let gone := (r.steps.take (r.steps.length - (r.after (f r)).steps.length)).map (·.grp)
  let s := observed s r.tk (gone.foldl max 0) r.elem
  if (r.after (f r)).steps.isEmpty then endRace s r else { s with races := s.races ++ [r.after (f r)] }

/-- The writes that a test names have been observed. -/
def settleRaces (s : State) (f : Race → RStep → Bool) : State :=
  match s.races.filter fun r => r.steps.any (f r) with
  | [] => s
  | rs => rs.foldl (settleRace f) { s with races := s.races.filter fun r => !r.steps.any (f r) }

/-! ## Accesses in flight: what they touch (R209 to R211) -/

def AKind.stores (k : AKind) : Bool :=
  match k with
  | .store | .wakea | .bar _ | .atom _ | .fatom _ | .fst | .fbirth | .frenew => true
  | _ => false
def AKind.loads (k : AKind) : Bool :=
  match k with
  | .load _ | .atom _ | .fatom _ | .waita | .fld | .fst | .fbirth | .frenew | .flife => true
  | _ => false

def Loc.meets (a b : Loc) (n m : Nat) : Bool :=
  match a, b with
  | .ia x, .ia y => decide (x < y + m) && decide (y < x + n)
  | .lm x, .lm y => decide (x < y + m) && decide (y < x + n)
  | _, _ => false

def LSt.waiting (l : LSt) : Bool := match l with | .pending | .stage | .faulted _ _ => true | _ => false

/-- Whether an earlier access that has not performed touches the lane's bytes. -/
def Acc.waitsOn (b : Acc) (loc : Loc) (z : Nat) : Bool := b.lanes.any fun l => l.st.waiting && l.loc.meets loc b.z z

/-- Whether a command's work still reads or writes some of n bytes in memory or a scratchpad. -/
def Cmd.touches (m : Cmd) (loc : Loc) (n : Nat) : Bool := m.work.any fun w => match w, loc with
  | .rd (.mem ia) k, .ia a | .wr (.mem ia) k _, .ia a => decide (ia < a + n) && decide (a < ia + k)
  | .rd (.lm x) k, .lm a | .wr (.lm x) k _, .lm a => decide (x < a + n) && decide (a < x + k)
  | _, _ => false

/-- Whether a lane has performed, or its refusal has reached the core: until then a refused store holds the release behind it (R326). -/
def LSt.performed (l : LSt) : Bool := match l with | .fixed _ | .written | .refusedAt => true | _ => false
def Acc.performed (a : Acc) : Bool := a.lanes.all (·.st.performed)
/-- Whether an access has performed at a scope: a store that is queued beyond L1 has at .core (R209). -/
def Acc.performedAt (a : Acc) (scope : Nat) : Bool := a.performed || (scope == 0 && a.queued)
def Acc.isAcq (a : Acc) : Bool := a.ord == 2 || a.ord == 4
def Acc.isRel (a : Acc) : Bool := a.ord == 3 || a.ord == 4
/-- The accesses of a team issued before group g. -/
def earlier (s : State) (tk g : Nat) : List Acc := (Tbl.vals s.accs).filter fun a => a.tk = tk && decide (a.grp < g)

/-- Whether an invalidation is one that a store of a team caused or has joined (R179), of a group that a test names. -/
def Inv.isOf (v : Inv) (tk : Nat) (f : Nat → Bool) : Bool := (v.by_ == tk && f v.grp) || v.also.any fun p => p.1 == tk && f p.2

/-- What an engine's release does as it performs, and a team's (R200, R215). -/
def releaseAct (s : State) (core scope : Nat) : State := if 3 ≤ scope then emptyInvq s (domOf core) else s

/-! ### What a release passes on (R213) -/

/-- The narrowest scope that two teams share; 3 for teams of different domains (R37). -/
def shareScope (s : State) (a b : Nat) : Nat :=
  let x := (s.team a).core
  let y := (s.team b).core
  if x = y then 0 else if quadOf x = quadOf y then 1 else if domOf x = domOf y then 2 else 3

/-- Whether stores of a team before its group g have still to perform at a scope (R209): in flight, in its core's log, or with
invalidations that are not acknowledged. -/
def storesOut (s : State) (tk g scope : Nat) : Bool :=
  (earlier s tk g).any (fun a => a.kind.stores && !a.performedAt scope)
    || (s.core (s.team tk).core).glean.any (fun e => e.tk == tk && decide (e.grp < g) && !(scope == 0 && e.queued))
    || (decide (3 ≤ scope) && s.invs.any fun v => v.isOf tk fun k => decide (k < g))

/-- A team's release at a scope, of a word of group g: its stores of earlier groups, and with a store its own, precede it, and what it had acquired before g. -/
def hbRelease (s : State) (tk scope g own : Nat) : State :=
  s.modTeam tk fun t => { t with
    rels := ⟨scope, g + own, (t.hb.filter fun h => decide (h.at_ < g)).map fun h => (h.tk, h.grp)⟩ :: t.rels.filter fun r => decide (scope < r.scope) }

/-- A team's acquire at a scope: every release made so far by a team that shares both scopes with it counts as one that it has read, which is
never less than R213 asks (log entry 13). Only stores that have still to perform somewhere are kept. -/
def hbAcquire (s : State) (tk scope : Nat) : State :=
  let new := s.teams.flatMap fun (b, t) =>
    let n := shareScope s tk b
    if b == tk || decide (2 < n) || decide (scope < n) then []
    else (t.rels.filter fun r => decide (n ≤ r.scope)).flatMap fun r => (b, r.grp) :: r.after
  let add := (new.filter fun p => p.1 != tk && storesOut s p.1 p.2 3).map fun p => (⟨p.1, p.2, (s.team tk).grp⟩ : Hb)
  s.modTeam tk fun t => { t with hb := (t.hb.filter fun h => storesOut s h.tk h.grp 3) ++ add.eraseDups }

/-- Whether the stores that a team had acquired before its group g have performed at a scope (R213). -/
def acquiredDone (s : State) (tk g scope : Nat) : Bool :=
  (s.team tk).hb.all fun h => decide (g ≤ h.at_) || !storesOut s h.tk h.grp scope

/-- What an acquire of a team does as it performs: at .quad or wider the core's L1 is invalidated, at .wafer or .system the domain's
invalidations are applied (R176, R212, R215); and what it reads of releases (R213). -/
def acquireAct (s : State) (tk core scope : Nat) : State :=
  let s := if 1 ≤ scope then l1Drop s core else s
  hbAcquire (if 3 ≤ scope then emptyInvq s (domOf core) else s) tk scope

/-- What a release of a team does as it performs: `own` is 1 for one that is a store of group g. -/
def releaseBy (s : State) (tk core scope g own : Nat) : State := hbRelease (releaseAct s core scope) tk scope g own

/-- A command's release is credited under a key, and observed by every wait there from then on; BARINIT and a write of a completion register
that starts its count anew forget it (R217; log entry 13). -/
def noteScope (s : State) (key scope : Nat) : State :=
  if scope = 0 then s else { s with seen := Tbl.set s.seen key (max scope (Tbl.getD s.seen key 0)) }

/-- What a wait that observes the credits kept under a key does for its team (R217): an acquire, at the scope of their releases and
at .quad at least where the target lies on another core. -/
def observe (s : State) (tk key : Nat) (cross : Bool) : State :=
  acquireAct s tk (s.team tk).core (max (Tbl.getD s.seen key 0) (if cross then 1 else 0))

/-- What a wait that has read a completion target does: every byte of what has been credited there holds its final value (R81), and
the acquire. -/
def observeTarget (s : State) (tk cw : Nat) : State :=
  let k := targetKey s tk cw
  observe (settleRaces s fun _ p => p.landed && p.target == k) tk k (cwBar cw && relCore s (s.team tk).core (cwTarget cw / 2 ^ 19) != (s.team tk).core)

def Team.count (t : Team) (p : Nat) : Nat := Tbl.getD t.infl p 0

/-- What a WAITC does as its team leaves it: at 0 it has observed the completion of every tile and matrix operation counted on the
path (R152); on `en` it acquires (R217). -/
def leaveCount (s : State) (tk p : Nat) : State :=
  let s := if (s.team tk).count p = 0 then settleRaces s fun r x => x.landed && r.tk == tk && x.path == p else s
  if p = 4 then observe s tk (enKey tk) false else s

/-! ## Team states (R39, R40, R62) -/

/-- A team enters a state in which it waits. -/
def parkTeam (s : State) (tk : Nat) (st : TState) : State := s.modTeam tk fun t => { t with st := st }

/-- A word of the group under way makes its team wait, after the group. A second such word of the group waits in turn. -/
def enterWait (s : State) (st : TState) : State :=
  s.modCt fun t => if t.st = .ready then { t with st := st, waitAt := s.cur.addr } else { t with later := t.later ++ [(st, s.cur.addr)] }

/-- Whether a counter wait is over: its counter is at most the threshold (R129). -/
def waitOver (t : Team) (st : TState) : Bool :=
  match st with
  | .counterWait p thr => decide (Tbl.getD t.infl p 0 ≤ thr)
  | _ => false

/-- Whether a team is in a wait that it leaves at once by a response-precise trap (R318): the wait does not end otherwise. -/
def Team.leaving (t : Team) : Bool :=
  t.traps.any (!·.held) && match t.st with
    | .counterWait _ _ | .barWait _ _ | .watchWait _ | .engineStall => true
    | _ => false

/-! ## Trap entry and return (R315 to R317, R131) -/

/-- The plots of a sowing. -/
def plotsOf (s : State) (sid : Nat) : List (Nat × Plot) := s.plots.filter fun p => p.2.sow == sid

/-- The STATE field of a bind record (R242). -/
def setSlotState (s : State) (pid st : Nat) : State :=
  let p := s.plot pid
  s.modQuad (12 * p.dom + p.quad) fun q => { q with slots := match Tbl.find? q.slots p.slot with
    | some (w0 :: r) => Tbl.set q.slots p.slot (BitVec.ofNat 64 (w0.toNat - nb w0.toNat 60 3 * 2 ^ 60 + st * 2 ^ 60) :: r)
    | _ => q.slots }

/-- A bound plot begins to be pre-empted (R45): its record reads saving. -/
def preemptOne (s : State) (pid : Nat) : State := setSlotState (s.modPlot pid fun p => { p with st := .preempting }) pid 2

/-- Pre-emption of a plot; that of any plot of a co-resident sowing takes every plot of it at once (R276). -/
def preempt (s : State) (pid : Nat) : State :=
  let p := s.plot pid
  let mates := if p.cores then (plotsOf s p.sow).filter fun o => o.1 != pid && o.2.st == .bound else []
  mates.foldl (fun s o => preemptOne s o.1) (preemptOne s pid)

/-- A plot is halted: it is pre-empted and held, with the record that HALT posts (R133, R317, R319). -/
def haltPlot (s : State) (pid : Nat) (rec : List Nat) : State :=
  preempt (s.modPlot pid fun p => { p with halt := true, haltRec := rec }) pid

/-- The address at which a team that stands between groups goes on. After a rejoin whose join lies on a page that faults it is the word after the
join (R125). -/
def Team.resumePc (t : Team) : Nat :=
  match t.via with
  | some (_, true) => if t.pc % 16 = 12 then t.pc + 8 else t.pc + 4
  | _ => t.pc

/-- Trap entry with the handler at an address. -/
def trapTo (s : State) (tk code tval tepc pc : Nat) : State :=
  let s := landAll s tk
  let t := s.team tk
  let was := t.st == .ready
  if t.entered then haltPlot s (pidOf tk) [t.pc, code, tval, t.tepc.toNat]
  else s.modTeam tk fun t => { t with
    tcause := BitVec.ofNat 32 (code + (if t.priv then 256 else 0))
    tepc := BitVec.ofNat 64 (tepc % 2 ^ 57)
    tval := BitVec.ofNat 64 tval
    tstat := setB t.tstat 8 true
    pc := pc
    since := if was then t.since else (s.core t.core).cyc
    owed := was && t.owed
    st := .ready, later := [], after := none, last := none, redir := 0, entered := true, via := none }

/-- The trap of a team (R316): the trap registers (bits 63 to 57 of TEPC are zero, R85), PRIV, the PC from its core's TVEC. A trap of the handler's first group
cannot be taken: the plot is halted with its code and TVAL, and TEPC as trap entry wrote it (R317). A team that was waiting
becomes ready (R42). -/
def trapEntry (s : State) (tk code tval tepc : Nat) : State := trapTo s tk code tval tepc (s.core (s.team tk).core).tvec.toNat

/-- The end of a team (R30, R128): its reconvergence stack is discarded. A bound plot all of whose teams have ended is retiring (R48, R242). -/
def endTeam (s : State) (tk : Nat) : State :=
  let s := s.modTeam tk fun t => { t with st := .ended, later := [], after := none, traps := [], stack := [] }
  let p := s.plot (pidOf tk)
  if p.st == .bound && (plotTeams p).all (fun o => (s.team o).st == .ended) then setSlotState s (pidOf tk) 3 else s

/-- What a word asked for once the waits of its group are over. -/
def afterWaits (s : State) (tk : Nat) (a : After) : State :=
  match a with
  | .trap c v e => trapEntry s tk c v e
  | .ended => endTeam s tk

/-- A trap or an end that comes after the group under way: at once, or after the wait that a word of the group has entered
(R120, R130). -/
def afterGroup (s : State) (a : After) : State :=
  if s.cur.barFlt.isSome then s   -- the trap of a BARWAIT of the group comes instead (R274)
  else if s.ct.st = .ready then afterWaits s s.cur.tk a else s.modCt fun t => { t with after := some a }

/-- A team leaves its wait: it becomes ready, or waits by a later word of the same group. Every earlier result is written
and no stall count waits (R62). What the group asked for after its waits follows. -/
def wakeTeam (s : State) (tk : Nat) : State :=
  let s := landAll s tk
  let t := s.team tk
  let met := t.later.takeWhile fun w => waitOver t w.1
  let s := met.foldl (fun s w => match w.1 with | .counterWait p _ => leaveCount s tk p | _ => s) s
  match t.later.drop met.length with
  | [] =>
    let s := s.modTeam tk fun t => { t with st := .ready, later := [], after := none, last := none, redir := 0, since := (s.core t.core).cyc, owed := false }
    match t.after with | some a => afterWaits s tk a | none => s
  | (st, a) :: r => s.modTeam tk fun t => { t with st := st, waitAt := a, later := r }

/-- An issue-precise trap of the group under way: TEPC holds its first word (R315). -/
def takeTrap (s : State) (code tval : Nat) : State :=
  let s := trapEntry s s.cur.tk code tval s.cur.gpc
  { s with cur := { s.cur with stop := true } }

/-- The return from a trap (R131): PRIV from TCAUSE.PPRV, the PC from TEPC; traps held back may now be taken (R315). -/
def trapReturn (s : State) (tk : Nat) : State :=
  let s := landAll s tk
  s.modTeam tk fun t => { t with
    tstat := setB t.tstat 8 (tbit t.tcause 8), pc := t.tepc.toNat, last := none, redir := 0
    traps := t.traps.map fun x => { x with held := false } }

/-! ## What is still on its way to a team's registers -/

/-- The registers in which a returning access writes one lane, the first and how many: FST writes its liveness word alone (R202). -/
def accRegs (a : Acc) : Nat × Nat :=
  match a.kind with
  | .fld => (a.dreg, a.z / 2)
  | .fst => (a.dreg + a.z / 4, a.z / 4)
  | _ => (a.dreg, if a.z ≤ 4 then 1 else a.z / 4)
def accSlots (a : Acc) (lane : Nat) : List Slot :=
  let r := accRegs a
  ((if a.uni then wrU r.1 r.2 0 else wrV r.1 r.2 lane 0).map (·.1)).filter fun sl => !a.dropped.contains sl

def LSt.open (l : LSt) : Bool := match l with | .pending | .fixed _ | .stage | .faulted _ _ | .refused _ => true | _ => false

/-- The slots of a team whose writes by its loads and other returning accesses are outstanding (R66). -/
def outstanding (s : State) (tk : Nat) : List Slot :=
  (Tbl.vals s.accs).flatMap fun a =>
    if a.tk = tk && a.kind.returns then (a.lanes.filter (·.st.open)).flatMap fun l => accSlots a l.lane else []

/-- The slots that an interlocked producer of the team is still to write (R64, R149). -/
def interlocked (t : Team) : List Slot := t.pend.flatMap fun p => if p.due.isNone then p.ws.map (·.1) else []

/-- Whether a VWRI of the team has passes still to write (R149). -/
def vwriPending (t : Team) : Bool := t.pend.any (·.vwri)

/-- The slots an instruction reads in one lane. -/
def Form.reads (f : Form) (lane : Nat) : List Slot := f.ops.flatMap fun o => if o.rd then o.slots lane else []

/-- The passes of an instruction: the lane words it sweeps, or one pass (R27). -/
def Form.passes (f : Form) (t : Team) : List Nat := if f.sweep then sweepWords t.mask else [0]

/-- The lanes whose operands pass k of an instruction reads: a pass that sweeps nothing reads lane 0's uniform operands. A lane in the mask
counts whatever its guard holds, since R56 has a guard withhold only writes and accesses; the registers that VSHUF and VRDI select by value
count only where the guard lets the lane act (log entry 25). -/
def Form.lanes (f : Form) (t : Team) (k : Nat) : List Nat :=
  if f.sweep then passLanes t.mask k else if f.ops.any fun o => o.role == .psrc || o.touchesV then maskLanes t.mask else [0]

/-- The latch that a vector pipe's word updates (R60). -/
def latchOf (f : Form) (s : State) : Pipe :=
  match f.pipe with
  | .U => .U
  | .V0 => .V0
  | .V1 => .V1
  | .X => .X
  | .V01 => if s.cur.v1 then .V1 else .V0

/-- Whether a word reads or writes a vector register, an operand-file slot or lat.a in any role (R149). -/
def Form.touches (f : Form) (s : State) : Bool :=
  f.touch || f.ops.any Opd.touchesV || (latchOf f s == .V0 && f.ops.any fun o => o.role == .vdst)

/-- Whether the group must wait for an interlocked result, or for the passes of a VWRI (R64, R149). -/
def interlockHold (f : Form) (s : State) : Bool :=
  let t := s.ct
  let il := interlocked t
  (!il.isEmpty && (f.passes t).any fun k => (f.lanes t k).any fun l => (f.reads l).any il.contains)
    || (vwriPending t && f.touches s)

/-- TVAL of a trap at decode: the word and its offset in the group, and a field code (R67). Where the fault lies in the E payload the spec does
not say which of the two words is meant: it is the opcode word (log entry 25). -/
def wordVal (s : State) (fld : Nat) : Nat := s.cur.word % 2 ^ 32 + 2 ^ 32 * s.cur.off + 2 ^ 34 * fld

/-- The slots whose fixed-latency or load write is outstanding for a pass of the current group at cycle c (R66). -/
def unwritten (s : State) (c : Nat) : List Slot :=
  let t := s.ct
  outstanding s s.cur.tk ++ t.pend.flatMap fun p =>
    if decide (p.grp < t.grp) && p.due.isSome && !p.dueBy c then p.ws.map (·.1) else []

/-- Whether some pass reads a register whose fixed-latency or load write is outstanding (R66). The passes of a VRDI or VWRI come at
R90's cost: its entry tests them. -/
def underrun (f : Form) (s : State) : Bool :=
  let t := s.ct
  t.chk && !f.indir && (f.passes t).zipIdx.any fun (k, i) =>
    let out := unwritten s (s.cur.cyc + max f.cpp s.cur.cpp * i)
    !out.isEmpty && (f.lanes t k).any fun l => (f.reads l).any out.contains

/-- The same two tests for registers that a pass selects by value (R146, R148): the pass's cycle and the slots. -/
def selectedVerdict (s : State) (ps : List (Nat × List Slot)) : Verdict :=
  let il := interlocked s.ct
  if !il.isEmpty && ps.any fun p => p.2.any il.contains then .hold
  else if s.ct.chk && ps.any fun p => p.2.any (unwritten s p.1).contains then .trap 0x05 (wordVal s 0)
  else .go

/-! ## Releases, fences and acquires over later accesses (R200, R211, R212) -/

/-- Whether every earlier access of a team has performed at a scope, as a release needs it (R200, R212): its accesses, its stores in
the glean log, the sectors of its tile transfers, its cache maintenance; at .wafer and .system also the acknowledgements; and the stores of
other teams that it has acquired (R213). -/
def releaseReady (s : State) (tk g scope : Nat) : Bool :=
  (earlier s tk g).all (·.performedAt scope)
    && (s.core (s.team tk).core).glean.all (fun e => !(e.tk == tk && decide (e.grp < g)))
    && (Tbl.vals s.cmds).all (fun c => !(c.tk = tk && decide (c.grp < g) && (c.kind == .tld || c.kind == .tst)))
    && (Tbl.vals s.reqs).all (fun r => !(r.tk = tk && decide (r.grp < g) && match r.kind with | .vcm .. => true | _ => false))
    && (decide (scope < 3) || s.invs.all fun v => !v.isOf tk fun k => decide (k < g))
    && acquiredDone s tk g scope

/-- Whether no trap of an access that a team issued before waits to be taken: a release performs only then (R326). -/
def trapsClear (s : State) (tk id : Nat) : Bool := (s.team tk).traps.all fun x => decide (id ≤ x.seq)

/-- Whether every earlier load, atomic and FLD of a team has performed and written its destination (FENCE.ACQ). -/
def acquireReady (s : State) (tk g : Nat) : Bool :=
  (earlier s tk g).all fun a => !(match a.kind with | .load _ | .atom _ | .fatom _ | .fld => true | _ => false) || a.lanes.all fun l => match l.st with | .written | .refusedAt => true | _ => false

def Fence.met (s : State) (tk : Nat) (f : Fence) : Bool :=
  if f.rel then releaseReady s tk f.grp f.scope else acquireReady s tk f.grp

/-- Whether a later access of the current team must wait: a fence not met, or an acquire that has not performed; a TLD's is made with
its first sector (R157). -/
def fenceHold (s : State) : Bool :=
  s.ct.fences.any (fun f => !f.met s s.cur.tk)
    || (earlier s s.cur.tk s.ct.grp).any (fun a => a.isAcq && !a.performed)
    || (Tbl.vals s.cmds).any fun m => m.tk == s.cur.tk && decide (m.grp < s.ct.grp) && m.kind == .tld && m.acq && !m.started

/-! ## Issuing a word (R59 to R67) -/

/-- The checks that every word of a form meets at issue, in R67's order. -/
def formVerdict (f : Form) (s : State) : Verdict :=
  if f.ill || (f.priv && !s.ct.priv) then .trap 0x01 (wordVal s 0)
  else match f.ops.find? fun o => !o.legal s.ct with
    | some o => .trap 0x06 (wordVal s o.fld)
    | none =>
      if interlockHold f s then .hold
      else if underrun f s then .trap 0x05 (wordVal s 0)
      else if f.mem && fenceHold s then .hold
      else .go

/-- What follows where a word does not issue. -/
def settle (s : State) (v : Verdict) : State :=
  match v with
  | .go => s
  | .hold => s
  | .trap c x => takeTrap s c x
  | .park st => parkTeam s s.cur.tk st

/-- The verdict on one word: the checks of its form and of its entry. Of several bad fields OPERAND reports that of an operand or payload first, and
then that of a register's value: a MASK of 0 comes before a bad completion word or descriptor (log entry 21). What an entry finds illegal in a register's value comes before
STALL_UNDERRUN, and what it finds so of an encoding before OPERAND (R67). -/
def wordVerdict (f : Form) (chk : State → Verdict) (s : State) : Verdict :=
  match formVerdict f s with
  | .go => chk s
  | .trap 0x06 x => if interlockHold f s then .trap 0x06 x else match chk s with
    | .trap 0x01 v => .trap 0x01 v
    | _ => .trap 0x06 x
  | .trap 0x05 x => match chk s with
    | .trap 0x01 v => .trap 0x01 v
    | .trap 0x06 v => .trap 0x06 v
    | _ => .trap 0x05 x
  | v => v

/-- One word: its verdict, and then its effect. -/
def issue (f : Form) (chk : State → Verdict) (eff : State → State) (s : State) : Host.Outcome State Fault Refusal :=
  let verdict := wordVerdict f chk s
  match s.cur.phase with
  | .check => .next { s with cur := { s.cur with verd := verdict } }
  | .effect => .next (eff s)
  | .alone => match verdict with
    | .go => .next (eff s)
    | v => .next (settle s v)

/-- An entry that checks nothing beyond its form. -/
def noCheck (_ : State) : Verdict := .go

/-! ## Uniform and vector execution (R110 to R112, R135) -/

/-- A uniform instruction's writes, computed from the team as its pass reads it, if its guard holds (R111). -/
def uniExec (f : Form) (e : EPay) (g : Team → List (Slot × Nat)) (s : State) : State :=
  let t := s.ct.view s.cur.cyc
  if t.guardQ e then result s f.lat s.cur.cyc (g t) else s

/-- A uniform result: the destination and lat.u (R110). -/
def uniRes (d n x : Nat) : List (Slot × Nat) := wrU d n x ++ [(.latU, x % 2 ^ (32 * n))]

/-- A vector instruction's sweep (R135): for each pass, the writes of its guarded-in lanes, all read before any lands. -/
def vecExec (f : Form) (e : EPay) (g : Team → Nat → List (Slot × Nat)) (s : State) : State :=
  let t := s.ct
  let ps := (f.passes t).zipIdx.map fun (k, i) =>
    let c := s.cur.cyc + max f.cpp s.cur.cpp * i
    let tv := t.view c
    (c, ((passLanes t.mask k).filter (tv.guardP e)).flatMap (g tv))
  let new : List PendW := (ps.filter fun p => !p.2.isEmpty).map fun p => { grp := t.grp, due := f.lat.map (p.1 + ·), ws := p.2 }
  (pmcAdd s t.core 0x01 ps.length).modCt fun u => { u with pend := u.pend ++ passResults t new }

/-- A vector result in a lane: the destination and the pipe's latch. -/
def vecRes (p : Pipe) (d n lane x : Nat) : List (Slot × Nat) := wrV d n lane x ++ [(.lat p lane, x)]

/-- A floating-point result and its flags. -/
def vecResF (p : Pipe) (d n lane : Nat) (r : FR) : List (Slot × Nat) :=
  vecRes p d n lane r.1 ++ (if r.2 = 0 then [] else [(.flags, r.2)])

end Sys2Proof.Machine
end

