-- ==== Sys2Proof/Machine/Memory.lean ====
section
/-! DEFINITION. Addresses and the levels that hold data: ranges and windows (R170 to R173), scratchpad addresses (R175), channel
maps and the page walk (R184, R185, R244 to R247), virtual caches (R177, R254 to R259), the directory (R179) and the L1
(R176). Everything is a function of the state; the accesses that use it stand in Access.lean and Home.lean. -/
namespace Sys2Proof.Machine

/-- n bytes of v, the lowest first, and back (R79). -/
def toBytes (v : Nat) : Nat → List Byte
  | 0 => []
  | n + 1 => BitVec.ofNat 8 v :: toBytes (v / 256) n
def ofBytes : List Byte → Nat
  | [] => 0
  | b :: r => b.toNat + 256 * ofBytes r

/-- v with the n bytes from byte position p replaced by x. -/
def insBytes (v p n x : Nat) : Nat :=
  v - nb v (8 * p) (8 * n) * 2 ^ (8 * p) + x % 2 ^ (8 * n) * 2 ^ (8 * p)

/-! ## Ranges (R88, R170, R171, R317) -/

def Range.v (r : Range) : Bool := r.w0.getLsbD 63
def Range.vbase (r : Range) : Nat := nb r.w0.toNat 0 36
def Range.ibase (r : Range) : Nat := nb r.w2.toNat 0 37
def Range.count (r : Range) : Nat := nb r.w3.toNat 0 36
def Range.holds (r : Range) (va : Nat) : Bool :=
  r.v && decide (r.vbase ≤ va / 2 ^ 21) && decide (va / 2 ^ 21 < r.vbase + r.count)

/-- The intermediate address of a VA in a range; none where the offset carries out of bit 44 (R171). -/
def Range.ia (r : Range) (va : Nat) : Option Nat :=
  let o := va - r.vbase * 2 ^ 21
  let base := r.ibase * 2 ^ 21
  let off := base % 2 ^ 45
  if r.w0.getLsbD 62 then
    let n := nb r.w0.toNat 59 3 + 1
    let g := o / 2 ^ 16
    let off := off + g / n * 2 ^ 16 + o % 2 ^ 16
    if 2 ^ 45 ≤ off then none
    else some (base / 2 ^ 52 * 2 ^ 52 + nb r.w1.toNat (7 * (g % n)) 7 * 2 ^ 45 + off)
  else if 2 ^ 45 ≤ off + o then none else some (base + o)

/-- The first range of a list that holds a VA. -/
def firstRange (rs : List Range) (va : Nat) : Option Range := rs.find? (·.holds va)

/-- The range set of a sowing, in order. -/
def Sowing.rangeList (w : Sowing) : List Range := (List.range 16).map fun n => Tbl.getD w.ranges n {}

/-- SRG as a direct range (R317). -/
def Core.srgRange (c : Core) : Range :=
  { w0 := BitVec.ofNat 64 ((Tbl.getD c.srg 0 0).toNat % 2 ^ 36 + (if (Tbl.getD c.srg 0 0).getLsbD 63 then 2 ^ 63 else 0))
    w2 := Tbl.getD c.srg 2 0, w3 := Tbl.getD c.srg 1 0 }

/-- A home-domain field as a guest of a hypervisor names it, mapped to its physical domain (R351). A number the guest does not
hold is treated as a home from 72 to 127. -/
def guestIa (s : State) (dom ia : Nat) : Nat :=
  let g := (s.dom dom).guest
  if g = 0 || ia / 2 ^ 52 != 0 then ia
  else
    let home := ia / 2 ^ 45 % 128
    let d := ((List.range 72).find? fun d => (s.dom d).guest == g && (s.dom d).guestNo == home).getD 127
    d * 2 ^ 45 + ia % 2 ^ 45

/-- The translation of a VA for a team: SRG first while it is privileged, then its sowing's ranges; none: RANGE_MISS. -/
def translate (s : State) (tk va : Nat) : Option Nat :=
  let t := s.team tk
  let sys := (s.core t.core).srgRange
  if 2 ^ 57 ≤ va then none
  else (if t.priv && sys.holds va then sys.ia va
    else (firstRange (s.sow (sidOf tk)).rangeList va).bind (·.ia va)).map (guestIa s (domOf t.core))

/-! ## Intermediate addresses (R172, R173) -/

def iaNode (ia : Nat) : Nat := ia / 2 ^ 52
def iaHome (ia : Nat) : Nat := ia / 2 ^ 45 % 128
def iaOff (ia : Nat) : Nat := ia % 2 ^ 45

def nodeWord (s : State) (n w : Nat) : Nat := (Tbl.getD s.nodes (2 * n + w) 0).toNat
def nodeAssigned (s : State) (n : Nat) : Bool := n == 0 || nb (nodeWord s n 0) 63 1 == 1
/-- Whether the topology table, as a domain's guest sees it, assigns a node (R172, R351). -/
def nodeIn (s : State) (dom n : Nat) : Bool := n == 0 || (nodeAssigned s n && ((s.dom dom).guest == 0 || (s.dom dom).guestNodes.getLsbD n))
def nodeIsHost (s : State) (n : Nat) : Bool := n != 0 && nodeAssigned s n && nb (nodeWord s n 0) 61 2 == 2
/-- The host of far frames: the lowest assigned host node (R187). -/
def hostNode (s : State) : Option Nat := (List.range 64).find? (nodeIsHost s)

def fleetBase : Nat := 0x1F0000000000
def reservedBase : Nat := 0x1F0012000000
/-- Whether an IA lies in a fleeting window of this wafer or a peer. -/
def inFleet (s : State) (ia : Nat) : Bool :=
  !nodeIsHost s (iaNode ia) && decide (fleetBase ≤ iaOff ia) && decide (iaOff ia < reservedBase)

/-- The check of an IA at issue for a domain's access, with the trap code, 0 if none (R173): `fl` marks an access that
reaches fleeting memory and nothing else. -/
def iaCode (s : State) (dom : Nat) (fl : Bool) (ia : Nat) : Nat :=
  if !nodeIn s dom (iaNode ia) || (iaNode ia == 0 && (decide (72 ≤ iaHome ia) || decide (reservedBase ≤ iaOff ia))) then 0x11
  else if inFleet s ia then (if fl && iaNode ia == 0 && iaHome ia == dom then 0 else 0x13)
  else if fl then 0x13 else 0

/-- A VA's trap code and IA for a team. -/
def vaCheck (s : State) (tk : Nat) (fl : Bool) (va : Nat) : Nat × Nat :=
  match translate s tk va with
  | none => (0x11, 0)
  | some ia => (iaCode s (domOf (s.team tk).core) fl ia, ia)

/-! ## Scratchpad addresses (R175) -/

/-- Whether each of n bytes at a local address lies inside the plot's allocation on the core that it names: a run goes on into the next
core's name where the allocation is the whole of a scratchpad (R35, R77). -/
def lmOk (t : Team) (la n : Nat) : Bool :=
  decide (la < 2 ^ 21) && if t.lmem = 2 ^ 19 then decide (la + n ≤ 2 ^ 21) else decide (la % 2 ^ 19 + n ≤ t.lmem)

/-! ## Channel maps and DRAM (R184, R185) -/

/-- Word w of channel map m, with its reset value. -/
def mapWord (d : Dom) (m w : Nat) : Nat :=
  (Tbl.getD d.maps (2 * m + w) (if m = 0 then (if w = 0 then 0xC000BA9876543210#64 else 0xC000000000#64) else 0)).toNat

/-- Where byte x of a frame under a map lies: the channel and the layer address; none: a fault of kind map. -/
def place (d : Dom) (m frame x : Nat) : Option (Nat × Nat) :=
  let w0 := mapWord d m 0
  let w1 := mapWord d m 1
  let n := nb w0 60 4
  if n = 0 || frame < nb w1 0 20 || nb w1 20 20 ≤ frame then none
  else
    let u := (frame - nb w1 0 20) * 64 + x / 1024
    let la := (nb w1 42 22 + u / n) * 1024 + x % 1024
    if 2 ^ 32 ≤ la then none else some (nb w0 (4 * (u % n)) 4, la)

/-- The number of a DRAM byte. -/
def dramKey (d ch la : Nat) : Nat := 2 ^ 32 * (12 * d + ch) + la

/-- Whether a map's LIST names a fenced channel. -/
def mapLost (d : Dom) (m : Nat) : Bool :=
  let w0 := mapWord d m 0
  (List.range (nb w0 60 4)).any fun i => d.chF.getLsbD (nb w0 (4 * i) 4)

/-! ## Virtual caches: geometry and lines (R177, R254 to R259) -/

def hashL (x : Nat) : Nat := x ^^^ (x / 2 ^ 16) ^^^ (x / 2 ^ 32)
def bankLive (d : Dom) (b : Nat) : Bool := !d.colF.getLsbD (b / 12)
def bankList (bs : BitVec 144) : List Nat := (List.range 144).filter (bs.getLsbD ·)
def popBits (m : BitVec 8) : Nat := popc m.toNat 8

/-- A geometry: line code, ways, banks. -/
structure Geo where
  line : Nat
  ways : BitVec 8
  banks : BitVec 144

def VcRec.g (r : VcRec) : Geo := ⟨r.line, r.ways, r.banks⟩
def VcRec.g' (r : VcRec) : Geo := ⟨r.pline, r.pways, r.pbanks⟩
def Geo.size (g : Geo) : Nat := 64 * 2 ^ g.line

/-- The bank and set of the line that holds an IA; none where the geometry is empty or the bank is fenced (R256). -/
def Geo.place (d : Dom) (g : Geo) (ia : Nat) : Option (Nat × Nat) :=
  let bs := bankList g.banks
  let l := ia / g.size
  match bs with
  | [] => none
  | _ =>
    let b := bs.getD (hashL l % bs.length) 0
    if bankLive d b then some (b, l / bs.length % (65536 / g.size)) else none

def Line.holds (l : Line) (ia : Nat) : Bool := decide (l.base ≤ ia) && decide (ia < l.base + l.size)
def Line.rd (l : Line) (ia n : Nat) : Nat := nb l.data (8 * (ia - l.base)) (8 * n)

def findLine (d : Dom) (remote : Bool) (vc gen ia : Nat) : Option Line :=
  d.lines.find? fun l => l.remote == remote && l.vc == vc && l.gen == gen && l.holds ia

def Line.same (a b : Line) : Bool := a.remote == b.remote && a.vc == b.vc && a.gen == b.gen && a.base == b.base
def dropLine (s : State) (d : Nat) (l : Line) : State := s.modDom d fun m => { m with lines := m.lines.filter fun x => !x.same l }
/-- An access reaches the layer that holds a DRAM byte: the layer wakes from self-refresh (R349). -/
def touchLayer (s : State) (key : Nat) : State :=
  let ch := key / 2 ^ 32 % 12
  s.modDom (key / 2 ^ 32 / 12) fun m => { m with acctick := Tbl.set m.acctick ch s.tick, srefresh := m.srefresh &&& ~~~(BitVec.twoPow 12 ch) }

/-- Bytes written to a layer. -/
def dramWrite (s : State) (key n v : Nat) : State := { touchLayer s key with dram := Mem.write s.dram key v n }

/-- A line written back to its DRAM layer if it is dirty. -/
def writeBack (s : State) (l : Line) : State := if l.dirty then dramWrite s l.pa l.size l.data else s
/-- A line put in place of its old state, most recent first. -/
def putLine (s : State) (d : Nat) (l : Line) : State := s.modDom d fun m => { m with lines := l :: m.lines.filter fun x => !x.same l }

/-- A line installed in its set; the least recently used line of a full set is written back if dirty and dropped. -/
def install (s : State) (d : Nat) (l : Line) (ways : BitVec 8) : State :=
  let set := (s.dom d).lines.filter fun x => x.remote == l.remote && x.vc == l.vc && x.gen == l.gen && x.bank == l.bank && x.set == l.set
  let s := if set.length < popBits ways then s else match set.getLast? with
    | some v => dropLine (writeBack s v) d v
    | none => s
  putLine s d l

/-- A lookup of one class (R257, R258): while a record migrates, G' first; a hit in G moves to G' when the line sizes are
equal and its bank is live; with other line sizes it is served in G. One whose bank in G' is fenced is written back and dropped, so
that the access is served below (R259). -/
def vcFind (s : State) (d : Nat) (remote : Bool) (vc ia : Nat) : State × Option Line :=
  let dm := s.dom d
  let r := Tbl.getD dm.vcs vc {}
  if r.st = 0 || r.remote != remote then (s, none)
  else if r.st = 2 then
    match findLine dm remote vc ((r.gen + 1) % 2 ^ 32) ia with
    | some l => (putLine s d l, some l)
    | none => match findLine dm remote vc r.gen ia with
      | none => (s, none)
      | some l =>
        if r.line != r.pline then (putLine s d l, some l) else
        let s := dropLine s d l
        match r.g'.place dm l.base with
        | some (b, st) =>
          let l := { l with gen := (r.gen + 1) % 2 ^ 32, bank := b, set := st }
          (install s d l r.pways, some l)
        | none => (writeBack s l, none)
  else match findLine dm remote vc r.gen ia with
    | some l => (putLine s d l, some l)
    | none => (s, none)

/-- The geometry and generation into which a miss of a record fills, if it may allocate (R177, R257, R258). -/
def fillGeo (r : VcRec) (remote : Bool) : Option (Geo × Nat) :=
  if r.remote != remote || r.policy = 2 then none
  else if r.st = 1 then some (r.g, r.gen) else if r.st = 2 then some (r.g', (r.gen + 1) % 2 ^ 32) else none

/-- A line of the old geometry that has served an access while its record migrates to another line size is written back and
dropped (R258). -/
def settleOld (s : State) (d : Nat) (l : Line) : State :=
  let r := Tbl.getD (s.dom d).vcs l.vc {}
  if r.st = 2 && l.gen = r.gen && r.line != r.pline then
    match (s.dom d).lines.find? (·.same l) with
    | some x => dropLine (writeBack s x) d x
    | none => s
  else s

/-- A fill that overlaps lines of the old geometry waits until they are written back and dropped (R258). -/
def clearOld (s : State) (d : Nat) (remote : Bool) (vc gen base size : Nat) : State :=
  let old := (s.dom d).lines.filter fun x => x.remote == remote && x.vc == vc && x.gen != gen && decide (x.base < base + size) && decide (base < x.base + x.size)
  old.foldl (fun s x => dropLine (writeBack s x) d x) s

/-- Bytes of a home's DRAM as the home sees them: from a home-class line where one is present (R246). The addresses of one
line are consecutive in its layer. -/
def homeByte (s : State) (d key : Nat) : Byte :=
  match (s.dom d).lines.find? fun l => !l.remote && decide (l.pa ≤ key) && decide (key < l.pa + l.size) with
  | some l => BitVec.ofNat 8 (l.data / 2 ^ (8 * (key - l.pa)))
  | none => Mem.get s.dram key
def homePeek (s : State) (d key : Nat) : Nat → Nat
  | 0 => 0
  | n + 1 => (homeByte s d key).toNat + 256 * homePeek s d (key + 1) n

/-- A read of home bytes reaches their layer unless a home-class line holds them. -/
def touchMiss (s : State) (d key : Nat) : State :=
  if (s.dom d).lines.any fun l => !l.remote && decide (l.pa ≤ key) && decide (key < l.pa + l.size) then s else touchLayer s key

/-- A lookup whose VC id has no record of the class counts as undefined, but for VC 63, and VC 0 from another domain
(R177, R364). -/
def countUndef (s : State) (d : Nat) (remote : Bool) (vc : Nat) : State :=
  let r := Tbl.getD (s.dom d).vcs vc {}
  if vc != 63 && !(remote && vc == 0) && (r.st == 0 || r.remote != remote) then s.modDom d fun m => { m with undefvc := m.undefvc + 1 } else s

/-- An access to a block at its home makes its directory entry the one most recently used (R179). -/
def dirTouch (s : State) (home block : Nat) : State :=
  match (s.dom home).dir.find? (·.block == block) with
  | none => s
  | some e => s.modDom home fun m => { m with dir := e :: m.dir.filter (·.block != block) }

/-- A read of a block at its home reaches its directory entry, and its layer unless a home-class line holds it (R179, R349). -/
def peekTouch (s : State) (home ia key : Nat) : State := touchMiss (dirTouch s home (ia / 256)) home key

/-- The home-class line of an IA, filled from the level below if it is absent; `for store` only a write-back record fills. -/
def homeLine (s : State) (d vc ia key : Nat) (store : Bool) : State × Option Line :=
  let (s, l?) := vcFind s d false vc ia
  match l? with
  | some l => (s, some l)
  | none =>
    let dm := s.dom d
    let r := Tbl.getD dm.vcs vc {}
    match fillGeo r false with
    | none => (s, none)
    | some (g, gen) =>
      if store && r.policy != 0 then (s, none)
      else match g.place dm ia with
        | none => (s, none)
        | some (b, st) =>
          let base := ia / g.size * g.size
          let s := clearOld s d false vc gen base g.size
          let pa := key - (ia - base)
          let l : Line := ⟨false, vc, gen, base, g.size, b, st, pa, false, Mem.read s.dram pa g.size⟩
          (install (touchLayer s pa) d l g.ways, some l)

/-- A read of n bytes at the home: through the virtual cache the page names, or from DRAM. -/
def homeRead (s : State) (d vc ia key n : Nat) : State × Nat :=
  match homeLine (dirTouch s d (ia / 256)) d vc ia key false with
  | (s, some l) => (settleOld s d l, l.rd ia n)
  | (s, none) => (touchLayer s key, Mem.read s.dram key n)

/-- A write of n bytes at the home. -/
def homeWrite (s : State) (d vc ia key n v : Nat) : State :=
  match homeLine s d vc ia key true with
  | (s, some l) =>
    let l := { l with data := insBytes l.data (ia - l.base) n v }
    settleOld (if (Tbl.getD (s.dom d).vcs vc {}).policy = 0 then putLine s d { l with dirty := true }
      else dramWrite (putLine s d l) key n v) d l
  | (s, none) => dramWrite s key n v

/-! ## The page walk (R244 to R247) -/

/-- What the walker finds: a fault of a kind (R238; 0 for a moving page), or a leaf entry with its page size. -/
inductive Walk where
  | fault (kind : Nat)
  | leaf (e : Nat) (large : Bool)
deriving DecidableEq, Repr

/-- Where a word of the table at TADDR form entry e lies, or the kind of fault that keeps the walker from it: the table stands in frames
under a channel map, to which R185 and R189 apply. -/
def tableKey (s : State) (d e idx : Nat) : Nat ⊕ Nat :=
  let ta := nb e 0 28
  match place (s.dom d) (nb e 58 2) (ta / 256) (ta % 256 * 256 + 8 * idx) with
  | none => .inl 3
  | some p => if mapLost (s.dom d) (nb e 58 2) then .inl 4 else .inr (dramKey d p.1 p.2)

/-- Whether a table entry is well formed: V, LEAF 0, no reserved bit; its fault kind if not. -/
def tableFault (e : Nat) : Option Nat :=
  if nb e 63 1 = 0 then some 1
  else if nb e 60 1 = 1 || nb e 61 2 != 0 || nb e 28 30 != 0 then some 3 else none

/-- The decision on a leaf entry, up to its kind (R246): the kind of fault, or none. -/
def leafFault (s : State) (d e : Nat) (large : Bool) : Option Nat :=
  let kind := nb e 61 2
  let frame := nb e 0 36
  if nb e 63 1 = 0 then some 1
  else if nb e 36 11 != 0 || (kind == 0 && decide (2 ^ 20 ≤ frame)) || (large && decide (kind ≤ 1) && frame % 32 != 0)
      || (kind == 1 && (hostNode s).isNone)
      || (kind == 0 && (place (s.dom d) (nb e 58 2) frame 0).isNone) then some 3
  else if nb e 47 1 = 1 || (kind == 0 && mapLost (s.dom d) (nb e 58 2)) then some 4
  else if kind = 2 then some 2
  else if kind = 3 then some 0
  else none

/-- One level of a walk: the word of the table that an entry names, given to what follows; with it, where the words read lie. -/
def tableStep (s : State) (d e idx : Nat) (next : Nat → List Nat × Walk) : List Nat × Walk :=
  match tableFault e, tableKey s d e idx with
  | some k, _ | none, .inl k => ([], .fault k)
  | none, .inr key => let r := next (homePeek s d key 8); (key :: r.1, r.2)

/-- The leaf entry of an offset, read from the tables, and the places of the words read. An entry with V = 0 where a leaf may stand is one. -/
def readTables (s : State) (d off : Nat) : List Nat × Walk :=
  tableStep s d (s.dom d).ptroot.toNat (off / 2 ^ 33) fun e1 =>
    tableStep s d e1 (off / 2 ^ 21 % 2 ^ 12) fun e2 =>
      if nb e2 60 1 = 1 then ([], .leaf e2 true)
      else tableStep s d e2 (off / 2 ^ 16 % 32) fun e3 =>
        ([], if nb e3 63 1 = 1 && nb e3 60 1 == 0 then .fault 3 else .leaf e3 false)

def readLeaf (s : State) (d off : Nat) : Walk := (readTables s d off).2

/-- The walker's copy of an offset's leaf (R247): of several that cover it the one read first, since a later one is what the tables hold. -/
def cachedLeaf (d : Dom) (off : Nat) : Option Walk :=
  (d.tcache.filter fun c => if c.2.1 then c.1 == off / 2 ^ 21 else c.1 == off / 2 ^ 16).getLast?.map fun c => .leaf c.2.2.toNat c.2.1

/-- A walk: from the cached copy where `tc` says so and one is held, otherwise from the tables; the copy held stays until a PTINV, and where
none is held the entry read is kept. Until then each access on its own may use either. The whole
domain's memory reads as lost once it is fenced (R189). -/
def walk (s : State) (d off : Nat) (tc : Bool) : State × Walk :=
  if (s.dom d).lineMemF then (s, .fault 4)
  else
    let (s, w) := match (if tc then cachedLeaf (s.dom d) off else none) with
      | some w => (s, w)
      | none =>
        let (keys, w) := readTables s d off
        let s := keys.foldl (fun s k => touchMiss s d k) s
        (match w with
          | .leaf e large =>
            let page := if large then off / 2 ^ 21 else off / 2 ^ 16
            s.modDom d fun m => { m with
              tcache := if m.tcache.any fun c => c.1 == page && c.2.1 == large then m.tcache
                else ((page, large, BitVec.ofNat 64 e) :: m.tcache).take 4096 }
          | _ => s, w)
    match w with
    | .leaf e large => match leafFault s d e large with
      | some k => (s, .fault k)
      | none => (s, .leaf e large)
    | w => (s, w)

/-- A page as an access meets it. -/
inductive Page where
  | fault (kind : Nat)            -- R238's kinds 1 to 4; 0: moving
  | local_ (vc key perm : Nat)    -- the VC id, the DRAM byte, PERM
  | far (perm : Nat)
deriving DecidableEq, Repr

/-- The page of an IA at its home. The walk does not look at the routes or at whether the home is live: what an access does whose home is
down, or is reached by no recorded route, the spec does not say, and the model serves it by the home's tables (log entry 25). -/
def pageOf (s : State) (d ia : Nat) (tc : Bool) : State × Page :=
  let off := iaOff ia
  match walk s d off tc with
  | (s, .fault k) => (s, .fault k)
  | (s, .leaf e large) =>
    let perm := nb e 48 4
    if nb e 61 2 = 1 then (s, .far perm)
    else
      let frame := nb e 0 20 + (if large then off / 2 ^ 16 % 32 else 0)
      match place (s.dom d) (nb e 58 2) frame (off % 2 ^ 16) with
      | none => (s, .fault 3)
      | some (ch, la) => (s, .local_ (nb e 52 6) (dramKey d ch la) perm)

/-- Permission bits of PERM (R245). -/
def permExec (p : Nat) : Bool := p % 2 == 1
def permAtom (p : Nat) : Bool := nb p 1 2 == 3
def permWrite (p : Nat) : Bool := nb p 2 1 == 1
def permRead (p : Nat) : Bool := nb p 3 1 == 1

/-! ## The directory (R179, R180) -/

/-- The bank of a block's atomic unit and directory entry: the next live bank from u(b) (R180). -/
def blockBank (d : Dom) (b : Nat) : Nat :=
  let u := hashL b % 144
  (((List.range 144).map fun i => (u + i) % 144).find? (bankLive d)).getD u
def blockSet (b : Nat) : Nat := hashL b / 144 % 256
def dirSlot (d : Dom) (b : Nat) : Nat := 256 * blockBank d b + blockSet b

/-- Whether the store of a team that performs, of issue group g, is a strong one at .wafer or .system: an access, a sector, or a logged
store (R211, R218). -/
def strongWide (s : State) (tk g : Nat) : Bool :=
  ((Tbl.vals s.accs).any fun a => a.tk == tk && a.grp == g && a.kind.stores && a.ord != 0 && decide (3 ≤ a.scope))
    || ((Tbl.vals s.cmds).any fun m => m.tk == tk && m.grp == g && m.strong && decide (3 ≤ m.scope))
    || ((s.core (s.team tk).core).glean.any fun e => e.tk == tk && e.grp == g && e.ord != 0 && decide (3 ≤ e.scope))

/-- Invalidations of a block sent to domains; `strong` names the writers whose stores are strong ones at .wafer or .system. -/
def sendInvs (s : State) (home block by_ grp : Nat) (evict : Bool) (ds : List Nat) (strong : List (Nat × Nat) := []) : State :=
  ds.foldl (fun s d =>
    let (id, s) := s.newId
    { s with invs := s.invs ++ [{ id := id, home := home, dom := d, block := block, by_ := by_, grp := grp, strong := strong, evict := evict }] }) s

def dirFind (d : Dom) (block : Nat) : Option DirE := d.dir.find? (·.block == block)
def dirPut (s : State) (home : Nat) (e : DirE) : State :=
  s.modDom home fun m => { m with dir := e :: m.dir.filter (·.block != e.block) }
def dirErase (s : State) (home block : Nat) : State := s.modDom home fun m => { m with dir := m.dir.filter (·.block != block) }

/-- A write at the home to a block (R179): every sharer but a remote writer whose own copy was updated is invalidated. The writer joins
the invalidations of the block that are still on their way, those of an entry that has left the directory among them. -/
def dirWrite (s : State) (home block by_ grp : Nat) (writer : Option Nat) : State :=
  let strong := if strongWide s by_ grp then [(by_, grp)] else []
  let s := if s.invs.any fun v => v.home == home && v.block == block then
      { s with invs := s.invs.map fun v => if v.home == home && v.block == block
          then { v with also := v.also ++ [(by_, grp)], strong := v.strong ++ strong } else v }
    else s
  match dirFind (s.dom home) block with
  | none => s
  | some e =>
    let known := (e.sharers ++ e.keep).eraseDups
    let victims := known.filter fun d => writer != some d
    if victims.isEmpty && e.pend.isEmpty then dirPut s home e
    else
      let s := sendInvs s home block by_ grp false victims strong
      dirPut s home { e with sharers := [], pend := e.pend ++ victims, keep := (known ++ e.pend).eraseDups.filter fun d => writer == some d }

/-- A read from another domain that fills that domain's cache (R179): the new state, and whether the requester may
allocate; none where the request must wait, since every entry of the set is pending-invalidation. -/
def dirRead (s : State) (home block dom by_ grp : Nat) : Option (State × Bool) :=
  let dm := s.dom home
  match dirFind dm block with
  | some e =>
    if !e.pend.isEmpty then some (dirPut s home e, false)
    else if e.sharers.contains dom then some (dirPut s home e, true)
    else if e.sharers.length < 6 then some (dirPut s home { e with sharers := e.sharers ++ [dom] }, true)
    else some (dirPut (sendInvs s home block by_ grp true e.sharers) home ⟨block, [dom], [], []⟩, true)
  | none =>
    let set := dm.dir.filter fun e => dirSlot dm e.block == dirSlot dm block
    if set.length < 8 then some (dirPut s home ⟨block, [dom], [], []⟩, true)
    else match (set.filter fun e => e.pend.isEmpty).getLast? with
      | none => none
      | some v =>
        let s := dirErase (sendInvs s home v.block by_ grp true v.sharers) home v.block
        some (dirPut s home ⟨block, [dom], [], []⟩, true)

/-! ## The watch table (R250, R251, R277, R278) -/

/-- A WAITA waiter wakes: its access leaves, with acq the wake is an acquire at its scope (R277), and its team becomes ready, or in
fault park goes on once it leaves that. -/
def wakeWaiter (s : State) (acc : Nat) : State :=
  match Tbl.find? s.accs acc with
  | none => s
  | some a =>
    let s := { s with accs := Tbl.erase s.accs acc }
    if (s.team a.tk).leaving then s
    else
      let s := if (s.team a.tk).st = .watchWait acc then wakeTeam s a.tk else s
      if a.isAcq then acquireAct s a.tk a.core a.scope else s

/-- A write of a watched 64-byte block wakes every waiter, oldest first; a WAKEA wakes only the oldest. -/
def watchWrite (s : State) (home block : Nat) (wakea : Bool) : State :=
  match (s.dom home).watch.find? (·.block == block) with
  | none => s
  | some e =>
    let (now, left) := if wakea then (e.waiters.take 1, e.waiters.drop 1) else (e.waiters, [])
    let s := s.modDom home fun m => { m with
      watch := if left.isEmpty then m.watch.filter (·.block != block)
        else m.watch.map fun w => if w.block == block then { w with waiters := left } else w }
    now.foldl wakeWaiter s

/-- A waiter removed from the watch table by anything but a wake. -/
def unwatch (s : State) (home acc : Nat) : State :=
  s.modDom home fun m => { m with
    watch := (m.watch.map fun w => { w with waiters := w.waiters.filter (· != acc) }).filter fun w => !w.waiters.isEmpty }

/-! ## Remote-class copies (R177, R178) -/

def hintOf (d : Dom) (ia : Nat) : Option Nat := (d.hints.find? (·.1 == ia / 2 ^ 16)).map (·.2)
/-- A remote page hint becomes the most recently used, and is installed where it is missing (R178). -/
def putHint (s : State) (dom ia vc : Nat) : State :=
  s.modDom dom fun m => { m with hints := ((ia / 2 ^ 16, vc) :: m.hints.filter (·.1 != ia / 2 ^ 16)).take 4096 }

/-- A store of another domain updates its own copy, if it holds one; the domain is then the writer whose copy stays. -/
def updateRemote (s : State) (dom ia n v : Nat) : State × Bool :=
  match hintOf (s.dom dom) ia with
  | none => (s, false)
  | some vc => match vcFind s dom true vc ia with
    | (s, none) => (s, false)
    | (s, some l) => (settleOld (putLine s dom { l with data := insBytes l.data (ia - l.base) n v }) dom l, true)

/-- The copy of an IA that a domain's remote-class cache shows its loads: the line, of the record that the page's hint names, whose generation
is in use (R177, R178, R257). -/
def remoteLine (d : Dom) (ia : Nat) : Option Line :=
  (hintOf d ia).bind fun vc =>
    let r := Tbl.getD d.vcs vc {}
    if r.st = 0 || !r.remote then none
    else ((if r.st = 2 then findLine d true vc ((r.gen + 1) % 2 ^ 32) ia else none).orElse fun _ => findLine d true vc r.gen ia)

/-- A store of n bytes performed at its home: the writer's own copy, the home, the directory, the watch table. -/
def storeAtHome (s : State) (home vc ia key n v reqDom by_ grp : Nat) (wakea : Bool) : State :=
  let s := countUndef s reqDom (reqDom != home) vc
  -- the reply to an access of another domain carries the page's VC id, by which its own copy is found
  let (s, kept) := if reqDom = home then (s, false) else updateRemote (putHint s reqDom ia vc) reqDom ia n v
  let s := homeWrite s home vc ia key n v
  let s := dirWrite s home (ia / 256) by_ grp (if kept then some reqDom else none)
  watchWrite s home (ia / 64) wakea

/-- A read from another domain served at the home fills the requester's remote-class cache where it may (R177 to R179). -/
def remoteFill (s : State) (home dom vc ia key by_ grp : Nat) : Option State :=
  let s := putHint s dom ia vc
  let r := Tbl.getD (s.dom dom).vcs vc {}
  match fillGeo r true with
  | none => some s
  | some (g, gen) => match g.place (s.dom dom) ia with
    | none => some s
    | some (b, st) => match dirRead s home (ia / 256) dom by_ grp with
      | none => none
      | some (s, false) => some s
      | some (s, true) =>
        let base := ia / g.size * g.size
        let pa := key - (ia - base)
        let s := clearOld s dom true vc gen base g.size
        some (install (touchMiss s home pa) dom ⟨true, vc, gen, base, g.size, b, st, pa, false, homePeek s home pa g.size⟩ g.ways)

/-! ## The L1 data cache (R176) -/

def l1Find (c : Core) (ia : Nat) : Option L1Line := c.l1.find? (·.base == ia / 128 * 128)
def l1DropLine (s : State) (core ia : Nat) : State := s.modCore core fun c => { c with l1 := c.l1.filter (·.base != ia / 128 * 128) }

/-- A store updates the bytes of a line already present, which is then the most recently used. -/
def l1Store (s : State) (core ia n v : Nat) : State :=
  match l1Find (s.core core) ia with
  | none => s
  | some l => s.modCore core fun c => { c with
      l1 := { l with data := insBytes l.data (ia - l.base) n v } :: c.l1.filter (·.base != l.base) }

/-- A line filled, replacing the least recently used of its 8 ways (128 sets). -/
def l1Fill (s : State) (core ia data : Nat) : State :=
  let base := ia / 128 * 128
  s.modCore core fun c =>
    let rest := c.l1.filter (·.base != base)
    let set := rest.filter fun l => l.base / 128 % 128 == base / 128 % 128
    let rest := if set.length < 8 then rest else match set.getLast? with
      | some v => rest.filter (·.base != v.base)
      | none => rest
    { c with l1 := ⟨base, data⟩ :: rest }

/-- A hit: the value, the line now most recent. -/
def l1Read (s : State) (core ia n : Nat) : Option (State × Nat) :=
  match l1Find (s.core core) ia with
  | none => none
  | some l =>
    some (s.modCore core fun c => { c with l1 := l :: c.l1.filter (·.base != l.base) }, nb l.data (8 * (ia - l.base)) (8 * n))

end Sys2Proof.Machine
end

