-- ==== Sys2Proof/Machine/Barriers.lean ====
section
/-! DEFINITION. Completion targets: completion words (R151), completion registers (R270), byte barriers (R271, R272), and
the end of a wait on them (R274). -/
namespace Sys2Proof.Machine

/-! ## Completion words (R151) -/

/-- Whether a completion word raises OPERAND. -/
def cwBad (cw : Nat) : Bool := decide (2 ≤ cwKind cw) || nb cw 21 9 != 0 || (cwKind cw == 1 && decide (4 ≤ cwTarget cw))

/-! ## Byte barriers (R271, R272) -/

/-- The four words of a barrier. -/
structure Bar where
  expect  : Nat
  arrived : Nat
  state   : Nat
  packed  : Nat
deriving DecidableEq, Repr

def Bar.armed (b : Bar) : Bool := nb b.state 31 1 == 1
def Bar.fault (b : Bar) : Nat := nb b.state 16 8
def Bar.phase (b : Bar) : Nat := nb b.state 0 16

def barAt (s : State) (key : Nat) : Bar :=
  ⟨Mem.read s.spm key 4, Mem.read s.spm (key + 4) 4, Mem.read s.spm (key + 8) 4, Mem.read s.spm (key + 12) 4⟩
def barPut (s : State) (key : Nat) (b : Bar) : State :=
  { s with spm := Mem.write (Mem.write (Mem.write (Mem.write s.spm key b.expect 4) (key + 4) b.arrived 4) (key + 8) b.state 4) (key + 12) b.packed 4 }

/-- The test after every change: a phase that is armed and has its bytes completes (R272). -/
def Bar.test (b : Bar) : Bar :=
  if b.armed && decide (b.expect ≤ b.arrived) then
    { b with arrived := b.arrived - b.expect, state := b.state - 2 ^ 31 - b.phase + (b.phase + 1) % 2 ^ 16 }
  else b

/-- BARINIT (R273). -/
def barInit (x : Nat) : Bar := ⟨x, 0, if x = 0 then 0 else 2 ^ 31, 0⟩

/-- BARARM (R273). -/
def Bar.arm (b : Bar) (x : Nat) : Bar :=
  (if b.armed then { b with expect := (b.expect + x) % 2 ^ 32 } else { b with expect := x, state := b.state + 2 ^ 31 }).test

/-- A code recorded over another: the lowest nonzero code is kept (R226, R270, R272). -/
def lowCode (old new : Nat) : Nat := if new = 0 then old else if old = 0 || new < old then new else old

/-- A credit of bytes with a fault code, after the packed count of a COPYG (R228, R272). -/
def Bar.credit (b : Bar) (bytes code : Nat) (packed : Option Nat) : Bar :=
  { b with
    arrived := (b.arrived + bytes) % 2 ^ 32
    state := b.state - b.fault * 2 ^ 16 + lowCode b.fault code * 2 ^ 16
    packed := packed.getD b.packed }.test

/-! ## Waiting on a target (R273, R274) -/

def ccWord (t : Team) (n : Nat) : Nat := (Tbl.getD t.cc n 0).toNat

/-- Whether the condition of a BARWAIT with phase word ph holds. -/
def barCond (s : State) (tk cw ph : Nat) : Bool :=
  if cwBar cw then
    let d := ((barAt s (cwKey s tk cw)).phase + 2 ^ 16 - nb ph 0 16) % 2 ^ 16
    decide (1 ≤ d) && decide (d ≤ 32767)
  else
    let c := ccWord (s.team tk) (cwTarget cw)
    nb c 0 31 == 0 || nb c 31 1 == 1

/-- The fault code a BARWAIT meets, and whether it meets one. -/
def barFault (s : State) (tk cw : Nat) : Option Nat :=
  if cwBar cw then (let f := (barAt s (cwKey s tk cw)).fault; if f = 0 then none else some f)
  else
    let t := s.team tk
    let n := cwTarget cw
    if nb (ccWord t n) 31 1 = 1 then some (nb t.ccf.toNat (8 * n) 8) else none

/-- TVAL of an ENGINE_FAULT. -/
def barVal (cw code : Nat) : Nat := code + 2 ^ 32 * cw

/-- The trap of a BARWAIT: a write of TVEC in its own group does not affect it (R132). -/
def barTrap (s : State) (tk cw c at_ : Nat) : State :=
  trapTo s tk 0x1A (barVal cw c) at_ ((s.team tk).tvecWas.getD (s.core (s.team tk).core).tvec).toNat

/-- A team leaves its barrier wait: the acquire, and then the trap if the target holds a fault (R274). -/
def leaveBar (s : State) (tk cw : Nat) : State :=
  let s := observeTarget (landAll s tk) tk cw
  match barFault s tk cw with
  | none => wakeTeam s tk
  | some c => barTrap s tk cw c (s.team tk).waitAt

/-- Whether an earlier BAR instruction, access or tile store of a team to a barrier has not performed, so that a BARWAIT on it must wait for it
(R210, R273). -/
def barBusy (s : State) (tk cw : Nat) : Bool :=
  cwBar cw && ((Tbl.vals s.accs).any (fun a => a.tk == tk && a.waitsOn (.lm (cwKey s tk cw)) 16)
    || (Tbl.vals s.cmds).any fun m => m.tk == tk && m.kind == .tst && m.touches (.lm (cwKey s tk cw)) 16)

/-- Every resident team that waits on a barrier whose bytes just changed, or were just read by it, tests its condition. -/
def barTests (s : State) (key n : Nat) : State :=
  s.teams.foldl (fun s (tk, t) => match t.st with
    | .barWait cw ph =>
      let cw := cw.toNat
      let k := cwKey s tk cw
      if cwBar cw && decide (k < key + n) && decide (key < k + 16) && !t.leaving && (s.plot (pidOf tk)).resident && !barBusy s tk cw && barCond s tk cw ph.toNat then leaveBar s tk cw else s
    | _ => s) s

/-- Bytes written in a scratchpad, with the tests that a barrier's waiters make. -/
def spmWrite (s : State) (key v n : Nat) : State := barTests { s with spm := Mem.write s.spm key v n } key n

/-- A change of a barrier at its bank. -/
def barChange (s : State) (key : Nat) (f : Bar → Bar) : State := barTests (barPut s key (f (barAt s key))) key 16

/-! ## Completion registers (R270) -/

def setCc (s : State) (tk n v : Nat) : State := s.modTeam tk fun t => { t with cc := Tbl.put t.cc n (BitVec.ofNat 32 v) 0 }
def setCcCode (s : State) (tk n c : Nat) : State :=
  s.modTeam tk fun t => { t with ccf := BitVec.ofNat 32 (t.ccf.toNat - nb t.ccf.toNat (8 * n) 8 * 2 ^ (8 * n) + c * 2 ^ (8 * n)) }

/-- A team that waits on one of its completion registers tests its condition. -/
def ccTest (s : State) (tk : Nat) : State :=
  match (s.team tk).st with
  | .barWait cw ph => if !cwBar cw.toNat && !(s.team tk).leaving && barCond s tk cw.toNat ph.toNat then leaveBar s tk cw.toNat else s
  | _ => s

/-- A credit of bytes to cc_n with a fault code. -/
def ccCredit (s : State) (tk n bytes code : Nat) : State :=
  let t := s.team tk
  let c := ccWord t n
  let s := setCc s tk n ((nb c 0 31 + 2 ^ 31 - bytes % 2 ^ 31) % 2 ^ 31 + (if code ≠ 0 || nb c 31 1 = 1 then 2 ^ 31 else 0))
  let s := if code = 0 then s else setCcCode s tk n (lowCode (nb t.ccf.toNat (8 * n) 8) code)
  ccTest s tk

end Sys2Proof.Machine
end

