-- ==== Sys2Proof/Machine/Access.lean ====
section
/-! DEFINITION. The accesses of a team: forming addresses and checking them (R190 to R192), counting (R195, R269), what performs
at issue (R175, R176), when an access in flight may perform (R210 to R212), the glean log (R239, R323, R324), and atomics
(R197 to R199). -/
namespace Sys2Proof.Machine

/-! ## In-flight counters (R195, R269) -/

/-- A counter rises. -/
def inflInc (s : State) (tk p : Nat) : State :=
  s.modTeam tk fun t => { t with infl := Tbl.put t.infl p (t.count p + 1) 0 }

/-- A counter falls, and a team that waits for it wakes when it reaches its threshold (R40, R129). -/
def inflDec (s : State) (tk p : Nat) : State :=
  let s := s.modTeam tk fun t => { t with infl := Tbl.put t.infl p (t.count p - 1) 0 }
  match (s.team tk).st with
  | .counterWait q thr =>
    if q = p && decide ((s.team tk).count p ≤ thr) && !(s.team tk).leaving then leaveCount (wakeTeam s tk) tk p else s
  | _ => s

/-! ## Addresses (R190) -/

/-- The address of a lane, or of a uniform access (lane 0). -/
def addrOf (t : Team) (uni : Bool) (a mode : Nat) (e : EPay) (z lane : Nat) : Nat :=
  let off (x : Nat) := (t.rdU (eXop e) 2 + ux 64 (sx 32 x * 2 ^ eScale e)) % 2 ^ 64
  match mode with
  | 0 => if uni then t.rdU a 2 else t.rdV a 2 lane
  | 1 => if uni then t.rdU a 2 else (t.rdU a 2 + z * lane) % 2 ^ 64
  | 2 => off (if uni then t.rdU a 1 else t.rdV a 1 lane)
  | _ => if uni then t.rdU a 1 else t.rdV a 1 lane

/-- The guarded-in lanes of a memory instruction, each with the team as its pass reads it; a uniform one has lane 0. -/
def servedLanes (f : Form) (uni : Bool) (e : EPay) (s : State) : List (Nat × Team) :=
  let t := s.ct
  if uni then (let tv := t.view s.cur.cyc; if tv.guardQ e then [(0, tv)] else [])
  else (f.passes t).zipIdx.flatMap fun (k, i) =>
    let tv := t.view (s.cur.cyc + max f.cpp s.cur.cpp * i)
    ((passLanes t.mask k).filter (tv.guardP e)).map fun l => (l, tv)

/-- The first address that fails a check, with the code of the trap (R192): the checks in order, each over every lane. -/
def firstFail (as : List Nat) (cs : List (Nat × (Nat → Bool))) : Option (Nat × Nat) :=
  match cs with
  | [] => none
  | (code, bad) :: r => match as.find? bad with
    | some a => some (code, a)
    | none => firstFail as r

/-- The watchpoint region that an address lies in, for a matching type (R320). -/
def watchHit (s : State) (ld st : Bool) (va : Nat) : Bool :=
  !s.ct.priv && (List.range 2).any fun i =>
    let w := (Tbl.getD (s.core s.ct.core).wpt i 0).toNat
    let sz := nb w 57 4 + 3
    nb w 63 1 == 1 && ((ld && nb w 62 1 == 1) || (st && nb w 61 1 == 1)) && va / 2 ^ sz == nb w 0 57 / 2 ^ sz

/-- The checks of R192 over the addresses of a memory instruction: `lm` marks mode 0b11, `fl` a fleeting access, `fa` an
FATOM; `ld` and `st` are its watchpoint types. -/
def addrTrap (s : State) (lm fl fa ld st : Bool) (z : Nat) (as : List Nat) : Option (Nat × Nat) :=
  let tk := s.cur.tk
  let va (c : Nat) := (c, fun a => (vaCheck s tk fl a).1 == c)
  let traps := if lm then [(0x07, fun a => a % z != 0), (0x10, fun a => !lmOk s.ct a z)]
    else [(0x07, fun a => a % z != 0), va 0x11, va 0x13,
      (0x14, fun a => fa && nodeIsHost s (iaNode (vaCheck s tk fl a).2))]
  firstFail as (traps ++ [(0x21, fun a => !lm && watchHit s ld st a)])

/-! ## The glean log (R239, R323, R324) -/

/-- Whether a team has glean entries in its core's log. -/
def gleanOf (s : State) (tk : Nat) : List GleanE := (s.core (s.team tk).core).glean.filter (·.tk == tk)

/-- The stores that the log takes: ST, UST and WAKEA (R323). -/
def AKind.logged (k : AKind) : Bool := k == .store || k == .wakea

/-- The entries of lanes of one store: one for each 64-byte block, in ascending block order; of lanes that write one byte the
highest-numbered prevails (R191). -/
def gleanEntries (tk ord scope z grp seq : Nat) (wake queued : Bool) (ls : List Lane) (tok : Nat → Nat) : List GleanE :=
  let ias := ls.filterMap fun l => match l.loc with | .ia a => some (a, l.data) | _ => none
  let blocks := sortBy (fun a b => decide (a ≤ b)) (ias.map (·.1 / 64)).eraseDups
  blocks.map fun b =>
    (ias.filter (·.1 / 64 == b)).foldl (fun e (a, v) =>
      { e with be := e.be ||| BitVec.ofNat 64 ((2 ^ z - 1) * 2 ^ (a % 64)), data := insBytes e.data (a % 64) z v })
      { tk := tk, ready := tok b == 0, ord := ord, scope := scope, tok := tok b, block := b, be := 0, data := 0, wake := wake, grp := grp
        queued := queued, seq := seq }

/-- A log with one more entry: a team's entries stand in the order of issue of their stores (R323). -/
def gleanInsert (e : GleanE) : List GleanE → List GleanE
  | [] => [e]
  | g :: r => if g.tk == e.tk && decide (e.seq < g.seq) then e :: g :: r else g :: gleanInsert e r

/-- Entries put into the core's log; GLEAN is set (R323). -/
def gleanPush (s : State) (tk : Nat) (es : List GleanE) : State :=
  if es.isEmpty then s else
  let core := (s.team tk).core
  let s := s.modCore core fun c => { c with glean := es.foldl (fun l e => gleanInsert e l) c.glean }
  pmcAdd (s.modTeam tk fun t => { t with tstat := setB t.tstat 9 true }) core 0x0C es.length

/-- Whether a logged store keeps an access to n bytes from performing: one of its team's own to the block, issued before it, or one of
its core that had performed at .core before what a test admits and writes a byte of it (R209, R210). -/
def gleanAhead (s : State) (core tk grp : Nat) (before : Nat → Bool) (loc : Loc) (n : Nat) : Bool :=
  match loc with
  | .lm _ => false
  | .ia x => (s.core core).glean.any fun e => e.block == x / 64
      && ((e.tk == tk && decide (e.grp < grp))
        || (e.queued && before e.seq && (List.range n).any fun j => e.be.getLsbD (x % 64 + j)))

/-- Whether a store of a core that has performed at .core, before what a test admits, still has some of n bytes to write at their home
(R209): it is queued beyond L1, or logged. -/
def queuedAhead (s : State) (core : Nat) (before : Nat → Bool) (loc : Loc) (n : Nat) : Bool :=
  ((Tbl.vals s.accs).any fun b => b.core == core && b.queued && before b.id && b.waitsOn loc n) || gleanAhead s core 0 0 before loc n

/-! ## When an access in flight may perform (R210 to R212) -/

/-- A store that no load is part of: it may wait behind a load elsewhere (R211). -/
def AKind.pureStore (k : AKind) : Bool := k.stores && !k.loads

/-- Whether L1 may serve a load: a weak one, or one at .core (R176). -/
def Acc.l1May (a : Acc) : Bool := a.ord == 0 || a.scope == 0

/-- Whether a lane of a load would hit in L1 now, where every store that has performed at .core is seen (R176, R209). -/
def Acc.hits (s : State) (a : Acc) (l : Lane) : Bool :=
  match a.kind, l.loc with
  | .load _, .ia x => a.l1May && l.left.isNone && (l1Find (s.core a.core) x).isSome
  | _, _ => false

/-- Whether the strong accesses that a team made before group g, and the strong sectors of its transfers and its strong logged stores,
let its access of a scope perform (R211, R218): all have performed at the narrower of the two scopes, but for stores to other bytes
before a load, and at .wafer or .system the invalidations of such stores are acknowledged. `bs` are its accesses before. -/
def strongMay (s : State) (bs : List Acc) (tk core g scope : Nat) (stores : Bool) (loc : Loc) (z : Nat) : Bool :=
  (bs.all fun b => b.ord == 0 || b.performedAt (min b.scope scope) || (b.kind.pureStore && !stores && !b.waitsOn loc z))
    && ((Tbl.vals s.cmds).all fun m => !(m.tk == tk && decide (m.grp < g) && m.strong && !m.work.isEmpty) || (m.kind == .tst && !stores && !m.touches loc z))
    && (!stores || (s.core core).glean.all fun e => !(e.tk == tk && decide (e.grp < g) && e.ord != 0 && !(e.queued && min e.scope scope == 0)))
    && (decide (scope < 3) || s.invs.all fun v => !v.strong.any fun p => p.1 == tk && decide (p.2 < g))

/-- Whether the orders of a team let a lane of its access perform now: its own earlier accesses to the bytes come first, and of the
other teams of its core the stores to them that performed at .core before it left L1, before a store all earlier ones (R209, R210); the logged
stores ahead of it, and the sectors of its team's earlier tile transfers; strong accesses keep their order (R211); a release waits for
everything before it, and for the trap of a store refused before it (R212, R326), one that has performed at its scope no longer; lanes that a
token's replay repeats go in lane order (R322). What is left of a saved plot's accesses waits for its resume (R331). -/
def mayPerform (s : State) (a : Acc) (l : Lane) : Bool :=
  let before := (Tbl.vals s.accs).filter fun b => decide (b.id < a.id) && b.core == a.core
  let hit := a.hits s l
  (s.plot (pidOf a.tk)).resident
    && before.all (fun b => !((b.tk == a.tk || (b.kind.stores && a.kind.stores)) && !(hit && b.queued) && b.waitsOn l.loc a.z))
    && (hit || a.kind.stores || !queuedAhead s a.core (fun i => l.left.all (i < ·)) l.loc a.z)
    && (Tbl.vals s.cmds).all (fun m => !(m.tk == a.tk && decide (m.grp < a.grp) && (m.kind == .tld || m.kind == .tst) && m.touches l.loc a.z))
    && (a.ord == 0 || strongMay s (before.filter (·.tk == a.tk)) a.tk a.core a.grp a.scope a.kind.stores l.loc a.z)
    && (!a.isRel || a.queued || (releaseReady s a.tk a.grp a.scope && !(s.team a.tk).rerr && (gleanOf s a.tk).isEmpty
      && trapsClear s a.tk a.id))
    && !gleanAhead s a.core a.tk a.grp (fun i => a.kind.stores && decide (i < a.id)) l.loc a.z
    && (l.again.isNone || a.lanes.all fun m => !(decide (m.lane < l.lane) && m.again == l.again && m.st == .pending))

/-- Whether a store that issues may perform at .core at once (R209): it names no other node; no earlier store of its core, load of its team that
has not left L1, or tile transfer of its team is still to reach the same bytes; the orders of its team allow it at that scope; and a release may
perform at its own (R212). -/
def mayQueue (s : State) (a : Acc) : Bool :=
  let before := (Tbl.vals s.accs).filter fun b => decide (b.id < a.id) && b.core == a.core
  let late (b : Acc) : Acc := { b with lanes := b.lanes.filter (·.left.isNone) }
  (a.lanes.all fun l => (match l.loc with | .ia x => iaNode x == 0 | .lm _ => true)
    && before.all (fun b => !(if b.kind.stores then !b.queued && b.waitsOn l.loc a.z else b.tk == a.tk && (late b).waitsOn l.loc a.z))
    && (Tbl.vals s.cmds).all (fun m => !(m.tk == a.tk && decide (m.grp < a.grp) && (m.kind == .tld || m.kind == .tst) && m.touches l.loc a.z))
    && (a.ord == 0 || strongMay s (before.filter (·.tk == a.tk)) a.tk a.core a.grp 0 true l.loc a.z))
    && (!a.isRel || (releaseReady s a.tk a.grp a.scope && !(s.team a.tk).rerr && (gleanOf s a.tk).isEmpty && trapsClear s a.tk a.id))

/-! ## Atomics (R109, R197, R198) -/

/-- The new value of an integer atomic at width w from the old value, the operand and the compare value. -/
def atomNew (op w o d cmp : Nat) : Nat :=
  match op with
  | 0 => (o + d) % 2 ^ w
  | 1 => (o + (2 ^ w - d)) % 2 ^ w
  | 2 => o &&& d
  | 3 => o ||| d
  | 4 => o ^^^ d
  | 5 => minS w o d
  | 6 => maxS w o d
  | 7 => min o d
  | 8 => max o d
  | 9 => d
  | _ => if o = cmp then d else o

/-- The new value of a floating-point atomic: nearest even, subnormals kept, no flag (R109). -/
def fatomNew (op o d : Nat) : Nat :=
  match op with
  | 0 => (fAdd .f32 .plain o d).1
  | 1 => (fAdd .f64 .plain o d).1
  | 2 => (packed2 (fun a b _ => fAdd .bf16 .plain a b) o d 0).1
  | 3 => (fMinMax false .f32 .plain o d).1
  | 4 => (fMinMax true .f32 .plain o d).1
  | 5 => (fMinMax false .f64 .plain o d).1
  | _ => (fMinMax true .f64 .plain o d).1

def AKind.newValue (k : AKind) (z o d cmp : Nat) : Nat :=
  match k with
  | .atom op => atomNew op (8 * z) o d cmp
  | .fatom op => fatomNew op o d
  | _ => d

/-! ## Lanes that perform at issue -/

def setLane (a : Acc) (lane : Nat) (st : LSt) : Acc :=
  { a with lanes := a.lanes.map fun l => if l.lane == lane then { l with st := st } else l }
def State.setAcc (s : State) (a : Acc) : State := { s with accs := Tbl.set s.accs a.id a }
def State.endAcc (s : State) (id : Nat) : State := { s with accs := Tbl.erase s.accs id }

/-- A scratchpad lane performs at its bank (R175, R199, R273): an acquire acts first, and a team that waits on a barrier there tests
it again. -/
def lmPerform (s : State) (a : Acc) (l : Lane) (key : Nat) : State :=
  let s := if a.isAcq then acquireAct s a.tk a.core a.scope else s
  let s := if a.isRel then hbRelease s a.tk a.scope a.grp 1 else s
  let old := Mem.read s.spm key a.z
  match a.kind with
  | .load _ => barTests (s.setAcc (setLane a l.lane (.fixed old))) key a.z
  | .store => spmWrite (s.setAcc (setLane a l.lane .written)) key l.data a.z
  | .bar arm =>
    let s := if arm then s else { s with seen := Tbl.erase s.seen key }
    barChange (s.setAcc (setLane a l.lane .written)) key fun b => if arm then b.arm l.data else barInit l.data
  | _ => spmWrite (s.setAcc (setLane a l.lane (.fixed old))) key (a.kind.newValue a.z old l.data l.cmp) a.z

/-- A load that L1 may serve is looked up there (R176): the hit, or the miss, is counted (R281). -/
def l1Lookup (s : State) (a : Acc) (l : Lane) (x : Nat) : State × Option Nat :=
  match l1Read s a.core x a.z with
  | some (s, v) => (pmcAdd s a.core 0x02 1, some v)
  | none =>
    let (n, s) := s.newId
    (pmcAdd (s.setAcc { a with lanes := a.lanes.map fun m => if m.lane == l.lane then { m with left := some n } else m }) a.core 0x03 1, none)

/-- A lane at issue: a scratchpad access performs at its bank if its orders allow, a load that L1 may serve takes its value
from a line present (R175, R176). Everything else is on its way. -/
def laneAtIssue (s : State) (id lane : Nat) : State :=
  match Tbl.find? s.accs id with
  | none => s
  | some a => match a.lanes.find? (·.lane == lane) with
    | none => s
    | some l => match l.loc with
      | .lm k => if mayPerform s a l then lmPerform s a l k else s
      | .ia x =>
        match a.kind with
        | .load _ =>
          if a.l1May && mayPerform s a l then
            match l1Lookup s a l x with
            | (s, some v) => s.setAcc (setLane a lane (.fixed v))
            | (s, none) => s
          else s
        | _ => s

/-- A later access issues only when every fence is met (R200): then the fences act, and none is left. -/
def closeFences (s : State) : State :=
  let t := s.ct
  let s := t.fences.foldl (fun s f => if f.rel then releaseBy (if 1 ≤ f.scope then l1Drop s t.core else s) s.cur.tk t.core f.scope f.grp 0
    else acquireAct s s.cur.tk t.core f.scope) s
  if t.fences.isEmpty then s else s.modCt fun t => { t with fences := [] }

/-- A store performs at .core: the bytes of a line that L1 holds are updated (R176, R209). That is the scope of a weak store and of one at
.core, whose count falls (R269). -/
def queueStore (s : State) (a : Acc) : State :=
  let own := a.ord == 0 || a.scope == 0
  let s := a.lanes.foldl (fun s l => match l.loc with | .ia x => l1Store s a.core x a.z l.data | .lm _ => s)
    (s.setAcc { a with queued := true, counted := a.counted && !own })
  if a.counted && own then inflDec s a.tk a.path else s

/-- A new access of the current team: counted, a store queued beyond L1 at once or waiting (log entry 13), its lanes performed where
they can be. Lanes in a scratchpad that nothing holds perform here one after the other in ascending order: R199 fixes none (log entry 12). -/
def startAcc (s : State) (kind : AKind) (z ord scope path dreg : Nat) (uni : Bool) (ls : List Lane) : State :=
  if ls.isEmpty then s else
  let s := closeFences s
  let t := s.ct
  let s := inflInc s s.cur.tk path
  let (id, s) := s.newId
  -- lanes of one store that write the same bytes: only the highest-numbered is written (R191)
  let ls := if kind == .store then ls.map fun l =>
      if ls.any fun m => decide (l.lane < m.lane) && m.loc == l.loc then { l with st := .written } else l
    else ls
  let a : Acc := {
    id := id, tk := s.cur.tk, core := t.core, dom := domOf t.core, grp := t.grp, kind := kind, z := z, ord := ord
    scope := scope, path := path, uni := uni, dreg := dreg, lanes := ls }
  let s := s.setAcc a
  let s := if (kind == .store || kind == .wakea) && path != 2 && mayQueue s a && !Config.storeWaits id then queueStore s a else s
  let s := if a.isAcq then acquireAct s s.cur.tk t.core scope else s
  ls.foldl (fun s l => if l.st == .pending then laneAtIssue s id l.lane else s) s

/-! ## The checks that hold or park an access (R192, R195, R196, R324) -/

/-- A release at issue (R196, R324): it traps while RERR is 1, and waits while the team has logged stores. -/
def releaseVerdict (s : State) : Verdict :=
  if s.ct.rerr then .trap 0x18 (5 * 2 ^ 60)
  else if s.ct.gleaning then .park .releasePark
  else .go

/-- The places that the log of a team's core still has (R239). -/
def gleanRoom (s : State) : Nat := 256 - (s.core s.ct.core).glean.length

/-- The entries that the log takes when the fault of a store is reported (R323): those of the store, whose blocks that have faulted bear their
tokens, and of each later store of its team that has not performed. -/
def gleanNeeds (s : State) (a : Acc) : List GleanE :=
  let open_ (b : Acc) := b.lanes.filter fun l => l.st.waiting && (match l.loc with | .ia _ => true | .lm _ => false)
  ((Tbl.vals s.accs).filter fun b => b.tk == a.tk && b.kind.logged && decide (a.id ≤ b.id)).flatMap fun b =>
    gleanEntries b.tk b.ord b.scope b.z b.grp b.id (b.kind == .wakea) b.queued (open_ b) fun blk =>
      if b.id != a.id then 0 else
      ((open_ b).findSome? fun l => match l.st, l.loc with
        | .faulted t _, .ia ia => if ia / 64 == blk then some t else none
        | _, _ => none).getD 0

/-- Whether a store of the current team waits for room in the log: no later store of the team issues (R239). -/
def logBlocked (s : State) : Bool :=
  (Tbl.vals s.accs).any fun a => a.tk == s.cur.tk && a.kind.logged
    && (a.lanes.any fun l => match l.st, l.loc with | .faulted _ _, .ia _ => true | _, _ => false)
    && decide (gleanRoom s < (gleanNeeds s a).length)

/-- The verdict on an access once its addresses are known. -/
def accessVerdict (s : State) (lm fl fa ld st rel : Bool) (z path : Nat) (as : List Nat) : Verdict :=
  if as.isEmpty then .go else
  match addrTrap s lm fl fa ld st z as with
  | some (c, a) => .trap c a
  | none =>
    match (if rel then releaseVerdict s else .go) with
    | .go =>
      let blocks := as.map fun a => (vaCheck s s.cur.tk fl a).2 / 64
      if ld && !lm && s.ct.gleaning && (blocks.any fun b => (gleanOf s s.cur.tk).any (·.block == b))
        then .park .releasePark
      else if 63 ≤ s.ct.count path then .hold
      -- a store of a team with logged stores enters the log, which must have room for its blocks (R239)
      else if st && !ld && !lm && !fl && (logBlocked s || (s.ct.gleaning && decide (gleanRoom s < blocks.eraseDups.length))) then .hold
      else .go
    | v => v

/-- The location of an address of the current team. -/
def locOf (s : State) (lm fl : Bool) (a : Nat) : Loc := if lm then .lm (lmKey s s.ct a) else .ia (vaCheck s s.cur.tk fl a).2

/-- A store at issue: it starts, or retires into the log of a team that has logged stores (R323), from which it
performs at every scope as it drains. -/
def startStore (s : State) (kind : AKind) (z ord scope path : Nat) (uni lm : Bool) (ls : List Lane) : State :=
  if s.ct.gleaning && !lm then
    let (id, s) := (closeFences s).newId
    gleanPush s s.cur.tk (gleanEntries s.cur.tk ord scope z s.ct.grp id (kind == .wakea) false ls fun _ => 0)
  else startAcc s kind z ord scope path 0 uni ls

/-! ## Loads, stores, atomics (R193 to R199) -/

/-- A load of z bytes a lane (R193, R194). -/
def loadInstr (i : Instr) (uni : Bool) (z : Nat) (signed : Bool) (d a q : BitVec 8) (e : EPay) (s : State) :
    Host.Outcome State Fault Refusal :=
  let f := form i
  let m := qMode q.toNat
  let lm := m == 3
  let path := if lm then 2 else 0
  let lanes (s : State) := (servedLanes f uni e s).map fun (l, tv) => (l, addrOf tv uni a.toNat m e z l)
  issue f (fun s => accessVerdict s lm false false true false false z path ((lanes s).map (·.2)))
    (fun s => startAcc s (.load signed) z (qOrd q.toNat) (qScope q.toNat) path d.toNat uni
      ((lanes s).map fun (l, x) => { lane := l, va := x, loc := locOf s lm false x })) s

/-- A store of z bytes a lane. -/
def storeInstr (i : Instr) (uni : Bool) (z : Nat) (d a q : BitVec 8) (e : EPay) (s : State) : Host.Outcome State Fault Refusal :=
  let f := form i
  let m := qMode q.toNat
  let lm := m == 3
  let path := if lm then 2 else 1
  let n := max 1 (z / 4)
  let lanes (s : State) := (servedLanes f uni e s).map fun (l, tv) =>
    (l, addrOf tv uni a.toNat m e z l, (if uni then tv.rdU d.toNat n else tv.rdV d.toNat n l) % 2 ^ (8 * z))
  issue f (fun s => accessVerdict s lm false false false true (qOrd q.toNat == 3) z path ((lanes s).map (·.2.1)))
    (fun s => startStore s .store z (qOrd q.toNat) (qScope q.toNat) path uni lm
      ((lanes s).map fun (l, x, v) => { lane := l, va := x, loc := locOf s lm false x, data := v })) s

/-- An atomic: D gives the operand, or the compare and the new value, and takes the old value (R197, R198). -/
def atomInstr (i : Instr) (uni fa : Bool) (z : Nat) (kind : AKind) (d a q : BitVec 8) (e : EPay) (s : State) :
    Host.Outcome State Fault Refusal :=
  let f := form i
  let m := qMode q.toNat
  let lm := m == 3
  let path := if lm then 2 else 0
  let n := z / 4
  let cas := kind == .atom 10
  let rd (tv : Team) (r l : Nat) := if uni then tv.rdU r n else tv.rdV r n l
  let lanes (s : State) := (servedLanes f uni e s).map fun (l, tv) =>
    (l, addrOf tv uni a.toNat m e z l, rd tv d.toNat l, if cas then rd tv (d.toNat + n) l else 0)
  let o := qOrd q.toNat
  issue f (fun s => accessVerdict s lm false fa true true (o == 3 || o == 4) z path ((lanes s).map (·.2.1)))
    (fun s => startAcc s kind z o (qScope q.toNat) path d.toNat uni
      ((lanes s).map fun (l, x, v, w) =>
        { lane := l, va := x, loc := locOf s lm false x, data := if cas then w else v, cmp := v })) s

/-! ## Fences and prefetch (R200, R201) -/

/-- FENCE: later accesses of the team wait until its condition holds. -/
def fenceInstr (i : Instr) (o sc : BitVec 3) (s : State) : Host.Outcome State Fault Refusal :=
  let rel := o == 3
  issue (form i) (fun s => if rel then releaseVerdict s else .go)
    (fun s => s.modCt fun t => { t with fences := t.fences ++ [⟨rel, sc.toNat, t.grp⟩] }) s

/-- The byte of an IA as a core of a domain sees it below its L1: its domain's remote-class copy, or the home. -/
def levelByte (s : State) (dom home ia key : Nat) : Byte :=
  match (if dom = home then none else remoteLine (s.dom dom) ia) with
  | some l => BitVec.ofNat 8 (l.rd ia 1)
  | none => homeByte s home key

/-- The bytes of the core's own stores that have performed at .core and are queued beyond L1, or logged, that fall on one byte: the
latest (R209). -/
def shadowByte (s : State) (core ia : Nat) : Option Byte :=
  let logged := ((s.core core).glean.filter fun e => e.queued && e.block == ia / 64 && e.be.getLsbD (ia % 64)).map fun e =>
    (e.seq, BitVec.ofNat 8 (e.data / 2 ^ (8 * (ia % 64))))
  let queued := ((Tbl.vals s.accs).filter fun a => a.core == core && a.queued).flatMap fun a => a.lanes.filterMap fun l => match l.loc with
    | .ia x => if l.st.waiting && decide (x ≤ ia) && decide (ia < x + a.z) then some (a.id, BitVec.ofNat 8 (l.data / 2 ^ (8 * (ia - x)))) else none
    | .lm _ => none
  ((logged ++ queued).foldl (fun r p => match r with | some q => if p.1 < q.1 then r else some p | none => some p) none).map fun (p : Nat × Byte) => p.2

/-- The core's L1 filled with the line of an IA, from the level below with the core's own stores on their way over it. -/
def fillL1 (s : State) (core home ia key : Nat) : State :=
  let base := ia / 128 * 128
  let k := key - (ia - base)
  l1Fill s core ia (ofBytes ((List.range 128).map fun j =>
    (shadowByte s core (base + j)).getD (levelByte s (domOf core) home (base + j) (k + j))))

/-- PREFETCH of one address: the line is brought in where a load would allocate it, and dropped otherwise (R201). -/
def prefetchOne (s : State) (l1 : Bool) (va : Nat) : State :=
  let t := s.ct
  let dom := domOf t.core
  match vaCheck s s.cur.tk false va with
  | (0, ia) =>
    let home := iaHome ia
    if iaNode ia != 0 then s
    else match pageOf s home ia false with
      | (s', .local_ vc key perm) =>
        let r := Tbl.getD (s.dom dom).vcs vc {}
        if !permRead perm || (fillGeo r (dom != home)).isNone then s
        else
          let s := if dom = home then (homeLine (dirTouch s' home (ia / 256)) home vc ia key false).1 else (remoteFill s' home dom vc ia key s.cur.tk t.grp).getD s'
          if l1 then fillL1 s t.core home ia key else s
      | _ => s
  | _ => s

/-- PREFETCH (R201), which has no access size: in mode 0b01 its lanes are 4 bytes apart (log entry 25). -/
def prefetchInstr (i : Instr) (l1 : Bool) (a : BitVec 8) (m : BitVec 2) (e : EPay) (s : State) : Host.Outcome State Fault Refusal :=
  let f := form i
  issue f noCheck (fun s =>
    let as := (servedLanes f false e s).map fun (l, tv) => addrOf tv false a.toNat m.toNat e 4 l
    as.foldl (fun s va => prefetchOne s l1 va) (closeFences s)) s

/-! ## Fleeting accesses (R202 to R204) -/

/-- FLD and FST: data and a liveness word (R202). -/
def fleetInstr (i : Instr) (st : Bool) (d a q : BitVec 8) (e : EPay) (s : State) : Host.Outcome State Fault Refusal :=
  let f := form i
  let n := eRegs e
  let z := 4 * n
  let m := qMode q.toNat
  let lanes (s : State) := (servedLanes f false e s).map fun (l, tv) => (l, addrOf tv false a.toNat m e z l, tv.rdV d.toNat n l)
  issue f (fun s => accessVerdict s false true false (!st) st (st && qOrd q.toNat == 3) z 3 ((lanes s).map (·.2.1)))
    (fun s => startAcc s (if st then .fst else .fld) z (qOrd q.toNat) (qScope q.toNat) 3 d.toNat false
      ((lanes s).map fun (l, x, v) => { lane := l, va := x, loc := locOf s false true x, data := v })) s

/-- FCTL: one whole tile (R204). A WATCH region (R320) matches FLIFE as a load, FBIRTH and FRENEW as stores: the spec names no type for them (log
entry 25). -/
def fctlInstr (i : Instr) (kind : AKind) (d a : BitVec 8) (s : State) : Host.Outcome State Fault Refusal :=
  let va (s : State) := (s.ct.view s.cur.cyc).rdU a.toNat 2
  issue (form i) (fun s => accessVerdict s false true false (kind == .flife) (kind != .flife) false 4096 3 [va s])
    (fun s => startAcc s kind 4 1 2 3 d.toNat true [{ lane := 0, va := va s, loc := locOf s false true (va s) }]) s

end Sys2Proof.Machine
end

