-- ==== Sys2Proof/Machine/Home.lean ====
section
/-! DEFINITION. What happens at a home: loads, stores and atomics there (R174, R177 to R180, R186, R187), the wait table
(R248, R249), the end of a fault (R266, R322), and the fault queue (R237, R238). -/
namespace Sys2Proof.Machine

/-! ## Accesses at the home (R174, R196) -/

/-- What an access meets at the memory side (R196): it performs, with a value; its page faults with a kind of R238, 0 for a
moving page; a permission is clear; an FATOM meets a far frame; or it must wait for room in the directory (R179). -/
inductive HOut where
  | ok (v : Nat)
  | fault (kind : Nat)
  | perm
  | unsup
  | wait
deriving DecidableEq, Repr

/-- A read of n bytes at their home by a party of a domain: at home through the virtual cache that the page names, for another domain the
home's bytes, with the reply's hint (R177 to R179). That domain's own copy, if it is older, is brought up to what has been read, so that no later
load reads less (R210). -/
def readAtHome (s : State) (dom home vc ia key n : Nat) : State × Nat :=
  let s := countUndef s dom (dom != home) vc
  if dom = home then homeRead s home vc ia key n
  else
    let v := homePeek s home key n
    ((updateRemote (putHint (peekTouch s home ia key) dom ia vc) dom ia n v).1, v)

/-- A load of n bytes by a party of a domain. `wide` marks a scope of .wafer or .system, whose loads read at the home
(R209). `ext` is the value that another node or a far frame gives (log entry 15). -/
def memLoad (s : State) (dom : Nat) (wide : Bool) (ia n : Nat) (tc : Bool) (by_ grp ext : Nat) : State × HOut :=
  if iaNode ia != 0 then (s, .ok (ext % 2 ^ (8 * n)))
  else
    let home := iaHome ia
    let (s, hit) := if dom = home || wide then (s, none)
      else match hintOf (s.dom dom) ia with
        | none => (s, none)
        | some vc => vcFind s dom true vc ia
    match hit with
    | some l => (settleOld (putHint s dom ia l.vc) dom l, .ok (l.rd ia n))
    | none => match pageOf s home ia tc with
      | (s, .fault k) => (s, .fault k)
      | (s, .far p) => (s, if permRead p then .ok (ext % 2 ^ (8 * n)) else .perm)
      | (s, .local_ vc key p) =>
        if !permRead p then (s, .perm)
        else
          let (s, v) := readAtHome s dom home vc ia key n
          if dom = home || wide then (s, .ok v)
          else match remoteFill s home dom vc ia key by_ grp with
            | none => (s, .wait)
            | some s => (s, .ok v)

/-- A store of n bytes by a party of a domain. -/
def memStore (s : State) (dom ia n v : Nat) (tc : Bool) (by_ grp : Nat) (wakea : Bool) : State × HOut :=
  if iaNode ia != 0 then (s, .ok 0)
  else match pageOf s (iaHome ia) ia tc with
    | (s, .fault k) => (s, .fault k)
    | (s, .far p) => (s, if permWrite p then .ok 0 else .perm)
    | (s, .local_ vc key p) =>
      if !permWrite p then (s, .perm)
      else (storeAtHome s (iaHome ia) vc ia key n v dom by_ grp wakea, .ok 0)

/-- An atomic at the home's atomic unit: one read, one write, in one step (R180, R199). Its read allocates a home-class line as a load's does, where
R177 names loads and stores alone (log entry 25). -/
def memAtomic (s : State) (dom ia n : Nat) (new : Nat → Nat) (fa : Bool) (tc : Bool) (by_ grp ext : Nat) : State × HOut :=
  if iaNode ia != 0 then (s, .ok (ext % 2 ^ (8 * n)))
  else
    let home := iaHome ia
    match pageOf s home ia tc with
    | (s, .fault k) => (s, .fault k)
    | (s, .far p) => (s, if !permAtom p then .perm else if fa then .unsup else .ok (ext % 2 ^ (8 * n)))
    | (s, .local_ vc key p) =>
      if !permAtom p then (s, .perm)
      else
        let (s, old) := homeRead s home vc ia key n
        (storeAtHome s home vc ia key n (new old) dom by_ grp false, .ok old)

/-! ## The fault queue (R237, R238) -/

/-- What reads by the controllers of a domain do at the homes of some IAs: a VC that the page names without a definition is counted (R282), and
layers wake (R349). A controller's own tables need no permission. -/
def readTouch (s : State) (dom : Nat) (own : Bool) (ias : List Nat) : State :=
  ias.foldl (fun s ia =>
    let home := iaHome ia
    if iaNode ia != 0 || 72 ≤ home || fleetBase ≤ iaOff ia then s
    else match pageOf s home ia true with
      | (u, .local_ vc key p) => if own || permRead p then peekTouch (countUndef u dom (dom != home) vc) home ia key else u
      | (u, _) => u) s

def fqFull (d : Dom) : Bool := (d.fqprod - d.fqcons).toNat == 2 ^ d.fqsize

/-- The DRAM byte of a node-0 offset as controllers and firmware reach it; none where its page has no local frame. -/
def keyOf (s : State) (ia : Nat) : Option Nat :=
  match (pageOf s (iaHome ia) ia false).2 with
  | .local_ _ key _ => some key
  | _ => none

/-- A write of n bytes by a domain controller at the home (R208), known by a number. -/
def ctlStore (s : State) (by_ ia n v : Nat) : State :=
  match pageOf s (iaHome ia) ia false with
  | (_, .local_ vc key _) => storeAtHome s (iaHome ia) vc ia key n v (iaHome ia) by_ 0 false
  | _ => s
def ctlWrite (s : State) (ia n v : Nat) : State := ctlStore s 0 ia n v

/-- Words of 8 bytes, a multiple of eight of them, written from an IA by the domain controller, in blocks of 64 bytes. -/
def ctlWrites (s : State) (ia : Nat) (vs : List Nat) : State :=
  (List.range (vs.length / 8)).foldl (fun s i =>
    ctlWrite s (ia + 64 * i) 64 (((vs.drop (8 * i)).take 8).foldr (fun v a => v + 2 ^ 64 * a) 0)) s

/-- The number by which the invalidations of the records in a domain's queue are known. -/
def fqKey (dom : Nat) : Nat := 2 ^ 82 + dom
/-- The IA of the record at PROD mod 2^N. -/
def fqAt (d : Dom) : Nat := d.fqbase.toNat + 32 * (d.fqprod.toNat % 2 ^ d.fqsize)

/-- The release at .system of a record under way has performed once every invalidation of the words before is acknowledged: word 3, with its
PHASE and TICK, is written, and PROD advances. -/
def endRecord (s : State) (dom : Nat) : State :=
  let d := s.dom dom
  if !d.fqput || s.invs.any (fun v => v.isOf (fqKey dom) fun _ => true) then s
  else
    (ctlStore s (fqKey dom) (fqAt d + 24) 8 (nb d.fqprod.toNat d.fqsize 1 * 2 ^ 63 + s.tick)).modDom dom fun d =>
      { d with fqput := false, fqprod := d.fqprod + 1 }

/-- A record written at PROD mod 2^N: words 0 to 2, and with a release at .system word 3 (R237). -/
def putRecord (s : State) (dom : Nat) (ws : List DWord) : State :=
  let at_ := fqAt (s.dom dom)
  let s := (ws.zipIdx).foldl (fun s (w, i) => ctlStore s (fqKey dom) (at_ + 8 * i) 8 w.toNat) s
  endRecord (s.modDom dom fun d => { d with fqput := true }) dom

/-- A record posted: written, or waiting at the domain stage while the queue is full or the record before is under way. It may be that of a wait
entry of the domain. -/
def postRecord (s : State) (dom : Nat) (idx : Option Nat) (ws : List DWord) : State :=
  let d := s.dom dom
  if fqFull d || d.fqput || !d.fqwait.isEmpty then s.modDom dom fun d => { d with fqwait := d.fqwait ++ [(idx, ws)] }
  else putRecord s dom ws

def WaitE.token (e : WaitE) (idx : Nat) : Nat := idx + 2 ^ 10 * e.gen
/-- An answer to the message under way (R345). -/
def reply (s : State) (x : Input) (body : List Nat) : State := { s with replies := s.replies ++ [⟨x.node, x.tag % 2 ^ 32, body⟩] }
/-- A message for this wafer; one for another node is not delivered here (R345). -/
def message (f : Input → State → State) (x : Input) (s : State) : State := if x.dest = 0 then f x s else s

/-- The port by which a message about an IA travels (R346): a fixed hash of its 256-byte block over the PORTS of its destination, for a far
frame the host; none where the row names no port. -/
def portFor (s : State) (ia : Nat) : Option Nat :=
  let n := if iaNode ia = 0 then (hostNode s).getD 0 else iaNode ia
  let ps := (List.range 64).filter fun p => nb (nodeWord s n 1) p 1 == 1
  ps[Config.portHash (ia / 256) % ps.length]?

/-- A request about an IA leaves its port now; without a port in service it is lost. -/
def sendOut (s : State) (ia left : Nat) : Sent :=
  match portFor s ia with
  | some p => { at_ := s.tick, port := p, left := left }
  | none => { at_ := s.tick, port := 64, left := left, lost := true }

/-- Whether 100 µs have passed since a request left its port (R326). -/
def expired (s : State) (x : Option Sent) : Bool := match x with | some x => decide (100 ≤ (s.tick + 2 ^ 40 - x.at_) % 2 ^ 40) | none => false

/-- A request sent by a port that fails is lost (R346). -/
def Sent.fail (p : Nat) (x : Option Sent) : Option Sent := x.map fun x => if x.port = p then { x with lost := true } else x

/-- The words 0 to 2 of a fault record for an entry (R238). `first` is SOWID, NODE, DOM, QUAD, CORE, TEAM, SRC. -/
def WaitE.record (e : WaitE) (idx : Nat) : List DWord :=
  let f (i : Nat) := e.first.getD i 0
  [BitVec.ofNat 64 (e.token idx * 2 ^ 32 + e.kind * 2 ^ 24 + e.union * 2 ^ 19 + min e.waiters 65535),
   BitVec.ofNat 64 (e.page % 2 ^ 42 * 2 ^ 16),
   BitVec.ofNat 64 (f 0 * 2 ^ 32 + f 1 * 2 ^ 24 + f 2 * 2 ^ 16 + f 3 * 2 ^ 12 + f 4 * 2 ^ 10 + f 5 * 2 ^ 6 + f 6 * 2 ^ 3)]

/-- The words of a record that waited: those of its entry as it stands, while it stands under the same token (R238). -/
def recordNow (d : Dom) (r : Option Nat × List DWord) : List DWord :=
  match r.1 with
  | none => r.2
  | some i =>
    let e := Tbl.getD d.wait i {}
    if e.v && e.token i * 2 ^ 32 == (r.2.getD 0 0).toNat / 2 ^ 32 * 2 ^ 32 then e.record i else r.2

/-- Records that wait are written while there is room; at most n of them. -/
def drainRecords (s : State) (dom : Nat) : Nat → State
  | 0 => s
  | n + 1 =>
    let d := s.dom dom
    match d.fqwait with
    | [] => s
    | w :: r => if fqFull d || d.fqput then s else drainRecords (putRecord (s.modDom dom fun d => { d with fqwait := r }) dom (recordNow d w)) dom n

/-! ## The wait table (R248, R249) -/

/-- The live entry of a page that is not replaying. -/
def waitOf (d : Dom) (page : Nat) : Option (Nat × WaitE) := List.find? (fun (e : Nat × WaitE) => e.2.v && e.2.page == page && e.2.st != 3) d.wait
/-- The lowest free index. -/
def waitFree (d : Dom) : Option Nat := (List.range 1024).find? fun i => !(Tbl.getD d.wait i {}).v
def modWait (s : State) (dom idx : Nat) (f : WaitE → WaitE) : State :=
  s.modDom dom fun d => { d with wait := Tbl.set d.wait idx (f (Tbl.getD d.wait idx {})) }

/-- The access types of UNION: read, write, atomic, execute, engine. -/
def tyRead : Nat := 16
def tyWrite : Nat := 8
def tyAtom : Nat := 4
def tyExec : Nat := 2
def tyEngine : Nat := 1

/-- One more request merged into an entry. -/
def WaitE.merge (e : WaitE) (ty dom : Nat) : WaitE :=
  { e with union := e.union ||| ty, waiters := min 65535 (e.waiters + 1), doms := e.doms ||| BitVec.twoPow 72 dom }

/-- A request that meets a fault or a moving page (R249): the token it takes; none while the table is full. A request that
finds a live entry is counted when its core's filter, or its engine, merges (R321), which `count` says it does here. -/
def waitMerge (s : State) (home ia kind ty dom : Nat) (count : Bool) (first : List Nat) : State × Option Nat :=
  let d := s.dom home
  let page := ia / 2 ^ 16
  match waitOf d page with
  | some (i, e) => (if count then modWait s home i fun e => e.merge ty dom else s, some (e.token i))
  | none => match waitFree d with
    | none => (s, none)
    | some i =>
      let g := ((Tbl.getD d.wait i {}).gen + 1) % 2 ^ 22
      let e : WaitE := {
        v := true, gen := if g = 0 then 1 else g, kind := kind, union := ty, waiters := 1, st := if kind = 0 then 2 else 0
        page := page, doms := BitVec.twoPow 72 dom, tick := s.tick, first := first }
      (modWait s home i fun _ => e, some (e.token i))

/-- The live entry that a token names in a domain. -/
def waitTok (d : Dom) (tok : Nat) : Option (Nat × WaitE) :=
  let i := tok % 2 ^ 10
  let e := Tbl.getD d.wait i {}
  if e.v && e.gen == tok / 2 ^ 10 then some (i, e) else none

/-- The requester fields of a record for a team's engine (R238); `src` 0 for a load, 1 for a store. -/
def engineFirst (s : State) (tk src : Nat) : List Nat :=
  let c := (s.team tk).core
  [sidOf tk, 0, domOf c, c % 48 / 4, c % 4, tk % 16, src]
/-- The same for an access of the team itself, with the team's key, by which its core's filter knows it (R321). -/
def teamFirst (s : State) (tk src : Nat) : List Nat := engineFirst s tk src ++ [tk]

/-- A report to a domain's controller (R165, R334). -/
def tellController (s : State) (dom : Nat) (r : List Nat) : State := s.modDom dom fun d => { d with notes := d.notes ++ [r] }

/-- A record posted at once, under the token of a wait entry allocated and released for it (R226, R334). While the wait table is full
it waits at the fault stage (R249). -/
def reportOnce (s : State) (home queue page kind union : Nat) (first : List Nat) : State :=
  match (if (s.dom home).repQ.isEmpty then waitFree (s.dom home) else none) with
  | none => s.modDom home fun d => { d with repQ := d.repQ ++ [queue :: page :: kind :: union :: first] }
  | some i =>
    let g := ((Tbl.getD (s.dom home).wait i {}).gen + 1) % 2 ^ 22
    let e : WaitE := { v := false, gen := if g = 0 then 1 else g, kind := kind, union := union, waiters := 1, page := page, first := first }
    postRecord (modWait s home i fun _ => e) queue none (e.record i)

/-- The records that wait for a wait entry are posted once one is free. -/
def pumpReports (s : State) (home : Nat) : State :=
  let q := (s.dom home).repQ
  if q.isEmpty || (waitFree (s.dom home)).isNone then s
  else q.foldl (fun s r => match r with
    | queue :: page :: kind :: union :: first => reportOnce s home queue page kind union first
    | _ => s) (s.modDom home fun d => { d with repQ := [] })

/-! ## The core's fault filter (R321) -/

/-- The key by which a core's filter knows one of its engines: the copy engine 0, the matrix fetches 1, the reduce unit 2, the tile
transfers 3. Teams' keys lie above. -/
def engineKey (k : CKind) : Nat :=
  match k with
  | .wfetch => 1
  | .ired _ => 2
  | .tld | .tst => 3
  | _ => 0

/-- The core's fault filter takes a report by a team or an engine: the state, and whether it was taken. The first requester was counted
when the wait entry was allocated. -/
def filterTake (s : State) (core who ia tok ty : Nat) (fresh : Bool) : State × Bool :=
  let c := s.core core
  let page := ia / 2 ^ 16
  let home := iaHome ia
  let count (s : State) : State := match waitTok (s.dom home) tok with
    | some (i, e) => if fresh || (who > 3 && e.first.getD 7 0 == who) then
        modWait s home i fun e => { e with union := e.union ||| ty, doms := e.doms ||| BitVec.twoPow 72 (domOf core) }
      else modWait s home i fun e => e.merge ty (domOf core)
    | none => s
  match c.filt.find? fun f => f.page == page && f.tok == tok with
  | some f =>
    let s' := s.modCore core fun c => { c with
      filt := c.filt.map fun g => if g.page == page && g.tok == tok then
        { g with union := g.union ||| ty, teams := if g.teams.contains who then g.teams else g.teams ++ [who] } else g }
    (if f.teams.contains who then s' else count s', true)
  | none =>
    if 32 ≤ c.filt.length then (s, false)
    else (count (s.modCore core fun c => { c with filt := c.filt ++ [⟨page, tok, ty, [who]⟩] }), true)

/-! ## Fault park (R318, R322) -/

/-- A team enters fault park, and keeps what it waited for. An ended team stays ended. -/
def faultPark (s : State) (tk : Nat) : State :=
  s.modTeam tk fun t => match t.st with
    | .ended | .faultPark _ => t
    | x => { t with st := .faultPark x }

/-- Whether a load of a team, or its instruction fetch, waits under a token. -/
def anyParked (s : State) (tk : Nat) : Bool :=
  (s.team tk).fetchTok.isSome || (Tbl.vals s.accs).any fun a => a.tk == tk && a.kind.loads
    && a.lanes.any fun l => match l.st with | .faulted _ r => r | _ => false

/-- A team in fault park wakes when none of its loads waits; the wait it was in goes on, or is over. One of a saved plot does so at its resume
(R331). -/
def unpark (s : State) (tk : Nat) : State :=
  if anyParked s tk || !(s.plot (pidOf tk)).resident then s else
  match (s.team tk).st with
  | .faultPark b =>
    let s := s.modTeam tk fun t => { t with st := b }
    match b with
    | .counterWait p thr => if decide ((s.team tk).count p ≤ thr) then leaveCount (wakeTeam s tk) tk p else s
    | .barWait cw ph => if !barBusy s tk cw.toNat && barCond s tk cw.toNat ph.toNat then leaveBar s tk cw.toNat else s
    | .watchWait a => if (Tbl.find? s.accs a).isSome then s else wakeTeam s tk
    | .releasePark => if (s.team tk).gleaning then s else wakeTeam s tk
    | .engineStall =>
      let c := s.core (s.team tk).core
      if c.stallM.any (·.tk == tk) || c.stallC.any (fun i => (Tbl.find? s.cmds i).any (·.tk == tk))
        || c.stallI.any (fun i => (Tbl.vals s.cmds).any fun m => m.inst == i && m.tk == tk) then s else wakeTeam s tk
    | .netWait _ => s
    | _ => wakeTeam s tk
  | _ => s

/-- A token's entry enters STATE 3 (R249, R266): its loads repeat, its logged stores are READY, its fetches, engines and image reads go on,
its filter entries are freed, and the entry, with no waiter left, is released. -/
def replayEntry (s : State) (home idx : Nat) : State :=
  let e := Tbl.getD (s.dom home).wait idx {}
  if !e.v then s else
  let tok := e.token idx
  let mine (ia : Nat) := iaNode ia == 0 && iaHome ia == home
  let lane (l : Lane) : Lane := match l.st, l.loc with
    | .faulted t _, .ia a => if t == tok && mine a then { l with st := .pending, again := some tok } else l
    | _, _ => l
  let coreF (c : Core) : Core := { c with
    filt := c.filt.filter fun f => !(f.tok == tok && mine (f.page * 2 ^ 16))
    glean := c.glean.map fun g => if g.tok == tok && mine (g.block * 64) then { g with ready := true } else g }
  let loamF (p : LPlot) : LPlot := { p with out := p.out.map fun a => if a.tok == tok + 2 ^ 32 * home then { a with tok := 0 } else a }
  let s := { s with
    accs := Tbl.mapV (fun a => { a with lanes := a.lanes.map lane }) s.accs
    cores := Tbl.mapV coreF s.cores
    cmds := Tbl.mapV (fun c => if c.tok == tok + 2 ^ 32 * home then { c with tok := 0 } else c) s.cmds
    reqs := Tbl.mapV (fun r => if r.tok == tok + 2 ^ 32 * home then { r with tok := 0 } else r) s.reqs
    lplots := Tbl.mapV loamF s.lplots }
  let s := s.teams.foldl (fun s (tk, (t : Team)) =>
    let s := if t.fetchTok = some (tok + 2 ^ 32 * home) then s.modTeam tk fun t => { t with fetchTok := none } else s
    unpark s tk) s
  pumpReports (modWait s home idx fun e => { e with v := false, st := 3 }) home

/-! ## Responses at the core (R195, R269, R326) -/

/-- Whether every lane of an access is done. -/
def Acc.done (a : Acc) : Bool := a.lanes.all fun l => match l.st with | .written | .refusedAt => true | _ => false

/-- Whether the invalidations that a store at .wafer or .system caused are acknowledged. -/
def invsDone (s : State) (tk grp : Nat) : Bool := s.invs.all fun v => !v.isOf tk (· == grp)

/-- Whether a store at .wafer or .system still waits for acknowledgements (R209, R269). -/
def Acc.unacked (s : State) (a : Acc) : Bool := a.kind.pureStore && a.ord != 0 && decide (3 ≤ a.scope) && !invsDone s a.tk a.grp

/-- An access leaves once every lane is done, and for a store at .wafer or .system its invalidations are acknowledged: its path's
counter falls (R195, R269). -/
def finishAcc (s : State) (id : Nat) : State :=
  match Tbl.find? s.accs id with
  | none => s
  | some a => if !a.done || a.unacked s then s
    else
      let s := s.endAcc id
      if a.counted then inflDec s a.tk a.path else s

/-- The values of lanes fixed, as the writes of their destinations and lat.x. -/
def AKind.writes (a : Acc) (l : Lane) (v : Nat) : List (Slot × Nat) :=
  let reg (n x : Nat) := if a.uni then wrU a.dreg n x else wrV a.dreg n l.lane x
  let latx (x : Nat) : List (Slot × Nat) := if a.uni then [] else [(.lat .X l.lane, x % 2 ^ 64)]
  match a.kind with
  | .load sg => let x := if sg then ux 32 (sx (8 * a.z) v) else v
                reg (if a.z ≤ 4 then 1 else a.z / 4) x ++ latx x
  | .atom _ | .fatom _ => reg (a.z / 4) v ++ latx v
  | .fld | .fst =>
    -- v is the liveness word plus twice the data (R202)
    let live := v % 2
    let n := a.z / 4
    (match a.kind with | .fld => wrV a.dreg n l.lane (v / 2) | _ => []) ++ wrV (a.dreg + n) n l.lane live ++ latx live
  | .fbirth | .frenew | .flife => wrU a.dreg 1 v
  | _ => []

/-- The data of an access reaches the core (R195): every lane that has a value writes its destination, in the order of R65. -/
def respond (s : State) (id : Nat) : State :=
  match Tbl.find? s.accs id with
  | none => s
  | some a =>
    let ws := a.lanes.flatMap fun l => match l.st with
      | .fixed v => (AKind.writes a l v).filter fun w => !a.dropped.any fun b => b.covers w.1
      | _ => []
    let s := expand s a.tk ws
    let s := commit s a.tk a.grp ws
    let s := s.setAcc { a with lanes := a.lanes.map fun l => match l.st with | .fixed _ => { l with st := .written } | _ => l }
    finishAcc s id

/-- One more response-precise trap of a team. A team that has ended, or whose plot is being stopped, meets none (R318, R333). -/
def addTrap (s : State) (tk : Nat) (tr : Trap) : State :=
  if (s.team tk).st = .ended || (s.plot (pidOf tk)).st == .stopping then (match tr.path with | some p => inflDec s tk p | none => s)
  else s.modTeam tk fun t => { t with traps := t.traps ++ [tr] }

/-- TVAL of a response-precise trap (R315). -/
def preciseVal (acc va : Nat) : Nat := 2 ^ 63 + acc * 2 ^ 60 + va % 2 ^ 57

/-- A response-precise trap waits for the next group boundary (R315); of one access, one trap waits, with the VA of the
lowest lane refused. -/
def pushTrap (s : State) (tk code acc id va : Nat) : State :=
  addTrap (s.modTeam tk fun t => { t with traps := t.traps.filter fun x => !(x.seq == id && x.code == code) }) tk
    { code := code, tval := preciseVal acc va, seq := id }

/-- The access field of TVAL (R315). -/
def accField (k : AKind) : Nat :=
  match k with
  | .store | .wakea | .bar _ => 1
  | .atom _ => 2
  | .fatom _ => 3
  | .waita => 4
  | _ => 0

/-- An entry leaves the log; with the team's last one GLEAN clears and a release park ends. -/
def gleanPop (s : State) (tk core : Nat) (g : GleanE) : State :=
  let s := s.modCore core fun c => { c with glean := c.glean.erase g }
  if !(gleanOf s tk).isEmpty then s
  else
    let s := s.modTeam tk fun t => { t with tstat := setB t.tstat 9 false }
    if (s.team tk).st = .releasePark then wakeTeam s tk else s

/-- Every release that waits when an earlier store of its team fails never performs, one in the glean log neither (R212): each raises the trap
of R315, and its count on its path falls when that is taken. A NETBAR waits no longer, also where it waits behind another word of its group (R275). -/
def failWaitingRelease (s : State) (tk grp : Nat) : State :=
  let fail (s : State) (id : Nat) (path : Option Nat) : State := addTrap s tk { code := 0x18, tval := preciseVal 5 0, seq := id, path := path }
  let accs := (Tbl.vals s.accs).filter fun a => a.tk == tk && a.isRel && decide (grp < a.grp) && !a.performedAt a.scope
  let logs := (gleanOf s tk).filter fun e => e.ord == 3 && decide (grp < e.grp) && !(e.queued && e.scope == 0)
  let fences := (s.team tk).fences.filter fun f => f.rel && decide (grp < f.grp) && !f.met s tk
  let cmds := (Tbl.vals s.cmds).filter fun m => m.tk == tk && m.kind == .tst && m.rel && !m.started && decide (grp < m.grp)
  let reqs := (Tbl.vals s.reqs).filter fun q => q.tk == tk && decide (grp < q.grp) && (match q.kind with | .sow _ (some _) => true | _ => false)
  let nets := (s.team tk).later.filter fun w => match w.1 with | .netWait _ => true | _ => false
  let s := accs.foldl (fun s a => fail (s.endAcc a.id) a.id (if a.counted then some a.path else none)) s
  let s := logs.foldl (fun s e => gleanPop s tk (s.team tk).core e) s
  let s := (logs.map (·.seq)).eraseDups.foldl (fun s q => fail s q none) s
  let s := fences.foldl (fun s f =>
    let (n, s) := s.newId
    fail (s.modTeam tk fun t => { t with fences := t.fences.filter (· != f) }) n none) s
  let s := cmds.foldl (fun s m => fail { s with cmds := Tbl.erase s.cmds m.id } m.id (some m.path)) s
  let s := reqs.foldl (fun s q => fail { s with reqs := Tbl.erase s.reqs q.id } q.id (some 4)) s
  let s := nets.foldl (fun s w =>
    let (n, s) := s.newId
    fail (s.modTeam tk fun t => { t with later := t.later.erase w }) n none) s
  match (s.team tk).st with
  | .netWait _ => (let (n, s) := s.newId; fail (wakeTeam s tk) n none)
  | .faultPark (.netWait _) => (let (n, s) := s.newId; fail (s.modTeam tk fun t => { t with st := .faultPark .ready }) n none)
  | _ => s

/-- A remote store of a team failed (R84, R196). -/
def failStore (s : State) (tk grp : Nat) : State :=
  let s := failWaitingRelease s tk grp
  s.modTeam tk fun t => if t.st = .ended then t else t.orFlags (setB · 6 true)

end Sys2Proof.Machine
end

