-- ==== Sys2Proof/Machine/Work.lean ====
section
/-! DEFINITION. The work of engines: the register window as bytes (R79), fleeting tiles (R181 to R183, R203, R225), the sectors
of a command (R157, R225, R226), crediting (R152, R270, R272), and posting to the queues (R160, R221). -/
namespace Sys2Proof.Machine

/-! ## The window as bytes (R79, R80, R91) -/

def Team.winByte (t : Team) (off : Nat) : Byte := BitVec.ofNat 8 ((Tbl.getD t.win (off / 4) 0).toNat / 2 ^ (8 * (off % 4)))
def Team.winBytes (t : Team) (off n : Nat) : List Byte := (List.range n).map fun j => t.winByte (off + j)
def Team.putByte (t : Team) (off : Nat) (b : Byte) : Team :=
  { t with win := Tbl.put t.win (off / 4) (BitVec.ofNat 32 (insBytes (Tbl.getD t.win (off / 4) 0).toNat (off % 4) 1 b.toNat)) 0 }

/-- The bytes of an engine's result land in the window; a register they write in part may have been in uniform form. -/
def winWrite (s : State) (tk off : Nat) (bs : List Byte) : State :=
  let t := s.team tk
  let els := (List.range ((off + bs.length + 3) / 4 - off / 4)).map (off / 4 + ·)
  let ws := els.filterMap fun e => (t.slotOf e).map fun sl => (sl, 0)
  let s := expand s tk ws
  s.modTeam tk fun t => bs.zipIdx.foldl (fun t (b, j) => t.putByte (off + j) b) t

/-- The window as an operation accepted now may read it (R81): every result of an earlier group is in it. -/
def Team.accepted (t : Team) : Tbl Word := ((t.pend.filter fun p => decide (p.grp < t.grp)).foldl (fun t p => t.puts p.ws) t).win

/-- A team once the results of every group before g have landed. -/
def upTo (s : State) (tk g : Nat) : Team :=
  let t := s.team tk
  (t.pend.filter fun p => decide (p.grp < g)).foldl (fun t p => t.puts (p.ws.filter fun w => !beneath s tk p.grp w.1)) t

/-- The window as an accepted operation reads it (R81): an unobserved element is one of the values that a vector read may see, and one that a
vector instruction issued since its group g has written is the old one or the new, each chosen freely. An entry of the matrix FIFO reads an
accumulator that an earlier entry has written as that entry's checked result (R164). -/
def readWin (s : State) (tk g : Nat) (was : Tbl Word) (fifo : Bool) : State × Team :=
  let t := upTo s tk g
  let rs := s.races.filter (·.tk == tk)
  let race (p : State × Team) (r : Race) : State × Team :=
    let n := p.1.freeN
    let w := Tbl.getD t.win r.elem 0
    let v := if fifo && r.ordered then r.final else r.pick n
    ({ p.1 with freeN := n + 2 },
     { p.2 with win := Tbl.put p.2.win r.elem (if w = r.shown || Config.windowChoice (n + 1) % 2 = 0 then v else w) 0 })
  let late (p : State × Team) (e : Nat) : State × Team :=
    ({ p.1 with freeN := p.1.freeN + 1 },
     if Config.windowChoice p.1.freeN % 2 = 0 then p.2 else { p.2 with win := Tbl.put p.2.win e (Tbl.getD was e 0) 0 })
  (((was.map (·.1)) ++ t.win.map (·.1)).eraseDups.filter fun e => Tbl.getD was e 0 != Tbl.getD t.win e 0 && !rs.any (·.elem == e)).foldl late
    (rs.foldl race (s, t))

/-- A write by an operation of one element that held `a` and, of earlier operations not yet observed, stood as `old`: it holds b, or what a
vector instruction issued after the operation has written (R81). n numbers the choice. -/
def raceOf (tk e : Nat) (ordered late : Bool) (p : RStep) (old : Option Race) (a b : Word) (n : Nat) : Race :=
  let keep := late && Config.windowChoice n % 2 = 1
  let before := match old with | some r => r.final | none => a
  { tk := tk, elem := e, ordered := ordered, final := if keep then a else b, shown := b
    steps := (match old with | some r => r.steps | none => [])
      ++ [{ p with others := if keep then [b, before] else [before] }] }

/-- The bytes of an operation's result land, for a completion target: until a wait has observed the completion each element
may still be read as it was (R81). `was` is the window at the operation's acceptance, g its issue group: what an earlier group has still to
write lands beneath. -/
def engineWrite (s : State) (tk cw inst path g : Nat) (ordered : Bool) (was : Tbl Word) (off : Nat) (bs : List Byte) : State :=
  let els := (List.range ((off + bs.length + 3) / 4 - off / 4)).map (off / 4 + ·)
  let u := winWrite { s with races := s.races.filter fun r => !(r.tk == tk && els.contains r.elem) } tk off bs
  let soon := upTo s tk g
  let one (u : State) (e : Nat) : State :=
    let a := Tbl.getD (s.team tk).win e 0
    let b := Tbl.getD (u.team tk).win e 0
    let old := s.races.find? fun r => r.tk == tk && r.elem == e
    let late := match old with | some r => a != r.shown | none => Tbl.getD was e 0 != Tbl.getD soon.win e 0
    let mask := BitVec.ofNat 32 (ofBytes ((List.range 4).map fun j => if off ≤ 4 * e + j && decide (4 * e + j < off + bs.length) then 255 else 0))
    let p : RStep := { target := targetKey s tk cw, inst := inst, path := path, grp := g, mask := mask, others := [] }
    { u with
      freeN := u.freeN + 2
      races := u.races ++ [raceOf tk e ordered late p (old.map fun r => r.now (s.team tk) (u.freeN + 1)) a b u.freeN] }
  let v := els.foldl one u
  keepWas v tk (els.map fun e => (e, Tbl.getD (v.team tk).win e 0))

/-- The completion of an instruction has been credited. -/
def credited (s : State) (inst : Nat) : State :=
  match s.races with
  | [] => s
  | rs => { s with races := rs.map fun r => { r with steps := r.steps.map fun p => if p.inst == inst then { p with landed := true } else p } }

/-! ## Fleeting tiles (R181 to R183) -/

def tileOf (ia : Nat) : Nat := (iaOff ia - fleetBase) / 4096
def tileKey (dom t : Nat) : Nat := 73728 * dom + t
def tileAt (s : State) (dom t : Nat) : Tile := Tbl.getD s.tiles (tileKey dom t) {}
def tileFenced (s : State) (dom t : Nat) : Bool := (s.dom dom).colF.getLsbD (t / 6144)
/-- Whether a tile is live at the current tick. -/
def tileLive (s : State) (dom t : Nat) : Bool :=
  let x := tileAt s dom t
  !x.exp && !tileFenced s dom t && decide ((s.tick + 2 ^ 40 - x.birth) % 2 ^ 40 < (s.dom dom).w)
def setTile (s : State) (dom t : Nat) (x : Tile) : State := { s with tiles := Tbl.put s.tiles (tileKey dom t) x {} }
/-- A birth at the current tick (R204). -/
def bornTile (s : State) (dom t : Nat) : State := setTile s dom t ⟨false, s.tick⟩
def fleetKey (ia : Nat) : Nat := 4096 * tileKey (iaHome ia) (tileOf ia) + iaOff ia % 4096
/-- The data of a tile zeroed. -/
def zeroTile (s : State) (dom t : Nat) : State :=
  let k := 4096 * tileKey dom t
  { s with fleet := s.fleet.filter fun c => !(decide (k ≤ c.1) && decide (c.1 < k + 4096)) }

/-! ## Posts (R39, R160, R221) -/

/-- Whether the post of a team may be accepted now: its plot is in its quad, and no trap is about to withdraw it. -/
def mayPost (s : State) (tk : Nat) : Bool := (s.plot (pidOf tk)).resident && !(s.team tk).leaving

/-- The oldest post that a test admits, and the others. -/
def firstPost {α : Type} (ok : α → Bool) : List α → Option (α × List α)
  | [] => none
  | x :: r => if ok x then some (x, r) else (firstPost ok r).map fun p => (p.1, x :: p.2)

def cmdMayPost (s : State) (id : Nat) : Bool := (Tbl.find? s.cmds id).all fun m => mayPost s m.tk
def instMayPost (s : State) (i : Nat) : Bool := ((Tbl.vals s.cmds).find? (·.inst == i)).all fun m => mayPost s m.tk

/-- A team goes on after its post. -/
def posted (s : State) (tk : Nat) : State :=
  let s := inflInc s tk 4
  if (s.team tk).st = .engineStall then wakeTeam s tk else s

/-- The copy engine's queue takes waiting posts while it has room; at most n of them. Each team goes on after its post. -/
def pumpCopy (s : State) (core : Nat) : Nat → State
  | 0 => s
  | n + 1 =>
    let c := s.core core
    match (if 32 ≤ c.copyQ.length then none else firstPost (cmdMayPost s) c.stallC) with
    | none => s
    | some (id, r) =>
      let s := s.modCore core fun c => { c with stallC := r, copyQ := c.copyQ ++ [id] }
      pumpCopy (match Tbl.find? s.cmds id with | some m => posted s m.tk | none => s) core n

/-- A command is posted, or its team stalls. -/
def postCopy (s : State) (m : Cmd) : State :=
  let s := { s with cmds := Tbl.set s.cmds m.id m }
  let c := s.core m.core
  if c.copyQ.length < 32 && !c.stallC.any (cmdMayPost s) then
    inflInc (s.modCore m.core fun c => { c with copyQ := c.copyQ ++ [m.id] }) m.tk 4
  else enterWait (s.modCore m.core fun c => { c with stallC := c.stallC ++ [m.id] }) .engineStall

def pumpMatrix (s : State) (core : Nat) : Nat → State
  | 0 => s
  | n + 1 =>
    let c := s.core core
    match (if 16 ≤ c.fifo.length then none else firstPost (fun (e : MEnt) => mayPost s e.tk) c.stallM) with
    | none => s
    | some (e, r) => pumpMatrix (posted (s.modCore core fun c => { c with stallM := r, fifo := c.fifo ++ [e] }) e.tk) core n

def postMatrix (s : State) (core : Nat) (e : MEnt) : State :=
  let c := s.core core
  if c.fifo.length < 16 && !c.stallM.any (fun e => mayPost s e.tk) then inflInc (s.modCore core fun c => { c with fifo := c.fifo ++ [e] }) e.tk 4
  else enterWait (s.modCore core fun c => { c with stallM := c.stallM ++ [e], mstall := c.mstall + 1 }) .engineStall

def pumpIred (s : State) (core : Nat) : Nat → State
  | 0 => s
  | n + 1 =>
    let c := s.core core
    match (if 16 ≤ c.iredQ.length then none else firstPost (instMayPost s) c.stallI) with
    | none => s
    | some (i, r) =>
      let s := s.modCore core fun c => { c with stallI := r, iredQ := c.iredQ ++ [i] }
      pumpIred (match (Tbl.vals s.cmds).find? (·.inst == i) with | some m => posted s m.tk | none => s) core n

def postIred (s : State) (core inst tk : Nat) (ms : List Cmd) : State :=
  let s := ms.foldl (fun s m => { s with cmds := Tbl.set s.cmds m.id m }) s
  let c := s.core core
  if c.iredQ.length < 16 && !c.stallI.any (instMayPost s) then inflInc (s.modCore core fun c => { c with iredQ := c.iredQ ++ [inst] }) tk 4
  else enterWait (s.modCore core fun c => { c with stallI := c.stallI ++ [inst] }) .engineStall

/-! ## Credits (R152, R217, R270 to R272) -/

/-- Whether an instruction still has a command or a credit on its way. -/
def instOpen (s : State) (inst : Nat) : Bool :=
  (Tbl.vals s.cmds).any (·.inst == inst) || s.credits.any (·.inst == inst)

/-- A credit reaches its target (R272): with the last one of its instruction the counter of the path falls (R152), and the place of a matrix
entry is free (R160). The scope of its command's release is kept for the wait that observes it (R217), and a matrix entry's flags enter its team's TSTAT (R161). -/
def creditLands (s : State) (c : Credit) : State :=
  let s := { s with credits := s.credits.erase c }
  let s := if instOpen s c.inst then s else credited s c.inst
  let s := noteScope s c.at_ c.scope
  let s := if c.path = 4 then noteScope s (enKey c.tk) c.scope else s
  let s := if c.stat = 0 || (s.team c.tk).st = .ended then s else s.modTeam c.tk (·.orFlags (orStat · c.stat))
  let s := if 2 ^ 48 ≤ c.at_ then ccCredit s c.tk (c.at_ % 8) c.bytes c.code else barChange s c.at_ fun b => b.credit c.bytes c.code c.packed
  let s := if instOpen s c.inst then s else inflDec s c.tk c.path
  match c.mx with
  | none => s
  | some core => pumpMatrix (s.modCore core fun k => { k with fifo := k.fifo.filter (·.id != c.inst) }) core (s.core core).stallM.length

/-- A completion is credited, at each of a word's targets: a completion register now, a barrier by a credit on its way to the bank. -/
def creditTo (s : State) (tk cw bytes code : Nat) (packed : Option Nat) (path inst scope : Nat) (mx : Option Nat) (keys : List Nat)
    (stat : Nat := 0) : State :=
  let c (k : Nat) : Credit := {
    at_ := k, bytes := bytes, code := code, packed := packed, tk := tk, path := path, scope := scope, inst := inst, mx := mx, stat := stat }
  if cwBar cw then { s with credits := s.credits ++ keys.map c } else creditLands s (c (targetKey s tk cw))

/-! ## One piece of work (R157, R225, R226, R230) -/

/-- The engine fault code of a fault kind or refusal (R226). -/
def engineCode (kind : Nat) : Nat := if kind = 4 then 3 else if kind = 5 then 2 else 1

/-- The SRC of a command's records (R238). -/
def CKind.src (k : CKind) : Nat :=
  match k with
  | .tld => 0
  | .tst => 1
  | .ired _ => 3
  | .wfetch => 4
  | _ => 2

def setCmd (s : State) (m : Cmd) : State := { s with cmds := Tbl.set s.cmds m.id m }
/-- A command stops at a piece of its work: the code is recorded, and nothing more is done (R157, R226). -/
def stopCmd (s : State) (m : Cmd) (code : Nat) : State := setCmd s { m with work := [], code := lowCode m.code code }

/-- A fault at the memory side joins the core's filter (R321): a moving page holds the command, any other stops it with a record. Until the
wait table and the filter have room nothing happens. -/
def cmdFault (s : State) (m : Cmd) (ia kind : Nat) : State :=
  -- a command of a plot that is being stopped waits for no page (R333)
  if (s.plot (pidOf m.tk)).st == .stopping then stopCmd s m (if kind = 0 then 0 else engineCode kind) else
  let fresh := (waitOf (s.dom (iaHome ia)) (ia / 2 ^ 16)).isNone
  match waitMerge s (iaHome ia) ia kind tyEngine (domOf m.core) false (engineFirst s m.tk m.kind.src) with
  | (_, none) => s
  | (s', some tok) => match filterTake s' m.core (engineKey m.kind) ia tok tyEngine fresh with
    | (_, false) => s
    | (s', true) => if kind = 0 then setCmd s' { m with tok := tok + 2 ^ 32 * iaHome ia } else stopCmd s' m (engineCode kind)

/-- A stop with a record of its own (R226), in the queue of the page's home, or for another node of the issuing domain. -/
def stopReport (s : State) (m : Cmd) (ia kind code : Nat) : State :=
  let home := if iaNode ia = 0 then iaHome ia else domOf m.core
  stopCmd (reportOnce s home home (ia / 2 ^ 16) kind tyEngine (engineFirst s m.tk m.kind.src)) m code

/-- A row that the indexed-reduce path cannot reach (R231, R232). -/
def stopPath (s : State) (m : Cmd) (ia : Nat) : State := stopReport s m ia 8 8

def cmdOut (s : State) (m : Cmd) (ia : Nat) (o : HOut) (ok : State → Nat → State) : State :=
  match o with
  | .ok v => ok s v
  | .fault k => cmdFault s m ia k
  | .perm => stopReport s m ia 5 2
  | .unsup | .wait => s

/-- The elements of a row combined with the sum so far (R230). -/
def combElem (typ op a b : Nat) : Nat :=
  if typ = 2 then (match op with | 0 => (a + b) % 2 ^ 32 | 1 => minS 32 a b | _ => maxS 32 a b)
  else (match op with | 0 => fAdd .f32 .plain a b | 1 => fMinMax false .f32 .plain a b | _ => fMinMax true .f32 .plain a b).1

/-- A row as elements of 32 bits: BF16 widened exactly. -/
def widenRow (typ : Nat) (bs : List Byte) : List Nat :=
  if typ = 1 then (List.range (bs.length / 2)).map fun j => ofBytes ((bs.drop (2 * j)).take 2) * 2 ^ 16
  else (List.range (bs.length / 4)).map fun j => ofBytes ((bs.drop (4 * j)).take 4)
/-- BF16 results rounded once, to nearest even. -/
def narrowRow (typ : Nat) (xs : List Nat) : List Byte :=
  if typ = 1 then xs.flatMap fun x => toBytes (cvtFF .plain 3 0 x).1 2
  else xs.flatMap fun x => toBytes x 4

/-- The identity of an operation (R230). -/
def combIdent (typ op : Nat) : Nat :=
  match op with
  | 0 => 0
  | 1 => if typ = 2 then 0x7FFFFFFF else 0x7F800000
  | _ => if typ = 2 then 0x80000000 else 0xFF800000

/-- Whether a page faults for every access now: what it holds is waited for by none of them. -/
def pageGone (s : State) (loc : Loc) : Bool :=
  match loc with
  | .lm _ => false
  | .ia ia => iaNode ia == 0 && [false, true].all fun tc => match (pageOf s (iaHome ia) ia tc).2 with | .fault _ => true | _ => false

/-- Whether a piece of a command's work must wait: for the stores of its core to the bytes that have performed at .core, whose scope the
engine shares (R208, R217); and a sector of a tile transfer (R209 to R211, R218) for an access that the team or its core made to it before, for
the team's logged stores there, for a sector of an earlier transfer of the team to the same bytes, for what R211 puts before a strong one, and
in a TST at .wafer or .system for the acknowledgements of the sector below. -/
def sectorWaits (s : State) (m : Cmd) (loc : Loc) (n : Nat) : Bool :=
  let tile (k : CKind) := k == .tld || k == .tst
  let st := m.kind == .tst
  (queuedAhead s m.core (fun _ => true) loc n && !pageGone s loc)
    || (tile m.kind && (((Tbl.vals s.accs).any fun b => decide (b.id < m.id) && b.core == m.core && (b.tk == m.tk || (b.kind.stores && st))
        && b.waitsOn loc n)
      || gleanAhead s m.core m.tk m.grp (fun _ => false) loc n
      || ((Tbl.vals s.cmds).any fun c => c.tk == m.tk && decide (c.id < m.id) && tile c.kind && c.touches loc n)
      || (m.strong && (!strongMay s (earlier s m.tk m.grp) m.tk m.core m.grp m.scope st loc n
        || (st && decide (3 ≤ m.scope) && !invsDone s m.tk m.grp)))))

/-- The first step of a command that acquires or releases (R157, R217, R222): whether it may be made, and its effect. Of an indexed reduction
whose post waits outside the queue nothing is made (R221). -/
def cmdStart (s : State) (m : Cmd) : Option State :=
  if (match m.kind with | .ired _ => !(s.core m.core).iredQ.contains m.inst | _ => false) then none
  else if m.started then some s
  else
    let dom := domOf m.core
    let s := setCmd s { m with started := true }
    match m.kind with
    | .tst => if !m.rel then some s
      else if releaseReady s m.tk m.grp m.scope && !(s.team m.tk).rerr && (gleanOf s m.tk).isEmpty && trapsClear s m.tk m.id
        then some (releaseBy s m.tk m.core m.scope m.grp 1) else none
    | .tld => some (if m.acq then acquireAct s m.tk m.core m.scope else s)
    | .ired _ => some (if m.acq && decide (3 ≤ m.scope) then emptyInvq s dom else s)
    | _ => none

/-- Whether a command of the copy engine needs a reservation for each chunk (R342). -/
def Cmd.chunked (m : Cmd) : Bool := match m.kind with | .copy | .copyg | .copyb | .tfetch | .wfetch => true | _ => false
/-- Bytes of its chunk used. -/
def spend (m : Cmd) (n : Nat) : Cmd := { m with left := m.left - n }

/-- The place in memory of the next piece of a command's work, where it may be made now: its command has started or may, waits for no page and no
reservation, and no access before holds it. -/
def pieceOf (s : State) (m : Cmd) : Option (Nat × Nat) :=
  if m.tok ≠ 0 || m.chunked && m.left == 0 || (cmdStart s m).isNone then none
  else match m.work with
    | .rd (.mem ia) n :: _ | .wr (.mem ia) n _ :: _ | .raw ia n :: _ => if sectorWaits s m (.ia ia) n then none else some (ia, n)
    | _ => none

/-- Whether a command's next piece was lost with its port (R346). -/
def Cmd.lost (m : Cmd) : Bool := match m.sent with | some x => x.lost && x.left == m.work.length | none => false

/-- A command whose first piece has not been made, since it met a moving page or waits for room, has not started: what its start does comes with
that piece (R157, R212). -/
def unstart (s : State) (m0 : Cmd) : State :=
  match Tbl.find? s.cmds m0.id with
  | some m => if m.work.length = m0.work.length then setCmd s { m with started := false } else s
  | none => s

/-- The next piece of a command's work. A weak TLD sector that misses L1 allocates no line there: R156 says only that it may hit (log entry 25). -/
def workStep (s : State) (id : Nat) (tc : Bool) (ext : Nat) : State :=
  match Tbl.find? s.cmds id with
  | none => s
  | some m0 => match cmdStart s m0 with
    | none => s
    | some s' =>
      let m := { m0 with started := true }
      (fun u => if m0.started then u else unstart u m0) <|
      if m.tok ≠ 0 || m.chunked && m.left == 0 || m.lost then s else
      let dom := domOf m.core
      match m.work with
      | [] => s
      | w :: r =>
        let next (s : State) (m : Cmd) : State := setCmd s { m with work := r }
        let got (s : State) (bs : List Byte) : State := next s { m with buf := m.buf ++ bs }
        match w with
        | .zero n => got s' (List.replicate n 0)
        | .drop n => next s' { m with buf := m.buf.drop n }
        | .comb =>
          let row := widenRow m.typ m.buf
          let sum := match m.acc with
            | none => row
            | some bs => (List.range row.length).map fun j => combElem m.typ m.op (ofBytes ((bs.drop (4 * j)).take 4)) (row.getD j 0)
          next s' { m with buf := [], acc := some (sum.flatMap fun x => toBytes x 4) }
        | .raw ia n =>
          if sectorWaits s m (.ia ia) n then s
          else if iaNode ia != 0 then stopPath s' m ia
          else match pageOf s' (iaHome ia) ia tc with
            | (s, .fault k) => cmdFault s m ia k
            | (s, .far p) => if permRead p then stopPath s m ia else cmdOut s m ia .perm fun s _ => s
            | (s, .local_ _ key p) =>
              if permRead p then got (touchLayer (dirTouch s (iaHome ia) (ia / 256)) key) (toBytes (Mem.read s.dram key n) n)
              else cmdOut s m ia .perm fun s _ => s
        | .rd p n =>
          match p with
          | .lm k => if sectorWaits s m (.lm k) n then s else got s' (toBytes (Mem.read s'.spm k n) n)
          | .win tk off => (let p := readWin s' tk m.grp m.was false; got p.1 (p.2.winBytes off n))
          | .buf _ => next s' m
          | .mem ia =>
            if inFleet s' ia then
              if tileLive s' (iaHome ia) (tileOf ia) then got s' (toBytes (Mem.read s'.fleet (fleetKey ia) n) n)
              else next s' { m with buf := m.buf ++ List.replicate n 0, code := lowCode m.code 6 }
            else if sectorWaits s m (.ia ia) n then s
            else if m.kind == .ired false && iaNode ia != 0 then stopPath s' m ia
            else match (if m.kind == .tld && (!m.strong || m.scope == 0) then l1Read s' m.core ia n else none) with
            | some (s'', v) => got (pmcAdd s'' m.core 0x02 1) (toBytes v n)
            | none =>
              -- a sector that waits for a moving page or for room at the home has not been looked up for the last time
              let miss (s : State) : State := if m.kind == .tld && (!m.strong || m.scope == 0) then pmcAdd s m.core 0x03 1 else s
              match memLoad s' dom (m.kind == .ired false || (m.strong && decide (3 ≤ m.scope))) ia n tc m.tk m.grp ext with
              | (_, .wait) => s
              | (s'', o) =>
                if m.kind == .ired false && (match (pageOf s' (iaHome ia) ia tc).2 with | .far p => permRead p | _ => false)
                then stopPath s'' m ia else cmdOut (if o = .fault 0 then s'' else miss s'') m ia o fun s v => got s (toBytes v n)
        | .wr p n mask =>
          let bs := m.buf.take n
          let bs := match bs.getLast? with | some b => bs.dropLast ++ [b &&& BitVec.ofNat 8 mask] | none => bs
          let whole := m
          let m := spend { m with buf := m.buf.drop n } n
          match p with
          | .lm k => if sectorWaits s m (.lm k) n then s else spmWrite (next s' m) k (ofBytes bs) n
          | .win tk off => next (engineWrite s' tk m.cw.toNat m.inst m.path m.grp false m.was off bs) m
          | .buf off => next s' { m with acc := m.acc.map fun b => b.take off ++ bs ++ b.drop (off + n) }
          | .mem ia =>
            if inFleet s' ia then
              let t := tileOf ia
              if tileFenced s' (iaHome ia) t then next s' { m with code := lowCode m.code 7 }
              else
                let s := { s' with fleet := Mem.write s'.fleet (fleetKey ia) (ofBytes bs) n }
                let last := !r.any fun x => match x with | .wr (.mem y) _ _ => inFleet s y && tileOf y == t | _ => false
                next (if m.births.contains t && last then bornTile s (iaHome ia) t else s) m
            else if sectorWaits s m (.ia ia) n then s
            else match memStore s' dom ia n (ofBytes bs) tc m.tk m.grp false with
              | (s'', o) => cmdOut s'' { whole with buf := bs ++ m.buf } ia o fun s _ =>
                if m.kind == .tst then next (l1Store s m.core ia n (ofBytes bs)) m else next s { m with l1inv := (ia / 128) :: m.l1inv }
        | .put p n =>
          match p with
          | .lm k => next (spmWrite s' k (ofBytes (m.buf.take n)) n) (spend m n)
          | _ => next s' m

end Sys2Proof.Machine
end

