-- ==== Sys2Proof/Machine/Requests.lean ====
section
/-! DEFINITION. The events of accesses in flight: at the home and the banks, responses, invalidations, faults, the glean log,
refusals, and results that land (R63, R64, R174 to R181, R195, R203, R215, R239, R248, R249, R277, R315, R321 to R327).
An event that cannot happen in a state changes nothing (log entry 2). -/
namespace Sys2Proof.Machine

/-- An event is a next state, made from what its turn carries. -/
def ev (f : Input → State → State) (s : State) : Host.Outcome State Fault Refusal := .next (f s.cur.arg s)

/-- A lane of an access in flight, if it is there. -/
def laneOf (s : State) (id lane : Nat) : Option (Acc × Lane) :=
  match Tbl.find? s.accs id with
  | none => none
  | some a => (a.lanes.find? (·.lane == lane)).map fun l => (a, l)

def setLaneSt (s : State) (id lane : Nat) (st : LSt) : State :=
  match Tbl.find? s.accs id with
  | none => s
  | some a => s.setAcc (setLane a lane st)

/-! ## At the home (R174, R196, R249) -/

def AKind.ty (k : AKind) : Nat :=
  match k with
  | .store | .wakea => tyWrite
  | .atom _ | .fatom _ => tyAtom
  | _ => tyRead
def AKind.src (k : AKind) : Nat := match k with | .store | .wakea => 1 | _ => 0

/-- A lane whose page faults, or is moving, takes a token, or waits at the full fault stage (R249). -/
def laneFault (s : State) (a : Acc) (l : Lane) (ia kind : Nat) : State :=
  -- an access of a stopping plot that would wait is dropped (R333)
  if (s.plot (pidOf a.tk)).st == .stopping then finishAcc (setLaneSt s a.id l.lane .refusedAt) a.id else
  match waitMerge s (iaHome ia) ia kind a.kind.ty a.dom false (teamFirst s a.tk a.kind.src) with
  | (s, some tok) => setLaneSt s a.id l.lane (.faulted tok false)
  | (s, none) => (setLaneSt s a.id l.lane .stage).modDom (iaHome ia) fun d => { d with stageQ := d.stageQ ++ [(a.id, l.lane)] }

/-- A load at its home: the value, and the L1 line that a weak load or one at .core allocates (R176). -/
def loadAtHome (s : State) (a : Acc) (l : Lane) (ia : Nat) (tc : Bool) (ext : Nat) : State :=
  match memLoad s a.dom (a.ord != 0 && decide (3 ≤ a.scope)) ia a.z tc a.tk a.grp ext with
  | (s, .ok v) =>
    let s := if a.isAcq then acquireAct s a.tk a.core a.scope else s
    let s := setLaneSt s a.id l.lane (.fixed v)
    if a.l1May && iaNode ia == 0 then
      match (pageOf s (iaHome ia) ia true).2 with
      | .local_ _ key _ => fillL1 s a.core (iaHome ia) ia key
      | _ => s
    else s
  | (s, .fault k) => laneFault s a l ia k
  | (s, .perm) => setLaneSt s a.id l.lane (.refused 0x12)
  | (s, .unsup) => setLaneSt s a.id l.lane (.refused 0x14)
  | (_, .wait) => s

/-- A load that was held when it issued is looked up in L1 now, if L1 may serve it. -/
def loadLane (s : State) (a : Acc) (l : Lane) (ia : Nat) (tc : Bool) (ext : Nat) : State :=
  if !a.l1May || l.left.isSome then loadAtHome s a l ia tc ext
  else match l1Lookup s a l ia with
    | (s, some v) => setLaneSt (if a.isAcq then acquireAct s a.tk a.core a.scope else s) a.id l.lane (.fixed v)
    | (s, none) => loadAtHome s a l ia tc ext

/-- A store, or a WAKEA, at its home; one that had not performed at .core does so now. -/
def storeAtHomeLane (s : State) (a : Acc) (l : Lane) (ia : Nat) (tc : Bool) : State :=
  let s0 := s
  let s := if a.isRel then releaseBy s a.tk a.core a.scope a.grp 1 else s
  match memStore s a.dom ia a.z l.data tc a.tk a.grp (a.kind == .wakea) with
  | (s, .ok _) => setLaneSt (if a.queued then s else l1Store s a.core ia a.z l.data) a.id l.lane .written
  | (s, .fault k) => laneFault s a l ia k
  | (s, .perm) => setLaneSt s a.id l.lane (.refused 0x12)
  | _ => s0

/-- An atomic at its home's unit (R180, R199); its store updates a line that its core's L1 holds (R176). -/
def atomAtHomeLane (s : State) (a : Acc) (l : Lane) (ia : Nat) (tc : Bool) (ext : Nat) : State :=
  let s0 := s
  let s := if a.isRel then releaseBy s a.tk a.core a.scope a.grp 1 else s
  let fa := match a.kind with | .fatom _ => true | _ => false
  match memAtomic s a.dom ia a.z (fun o => a.kind.newValue a.z o l.data l.cmp) fa tc a.tk a.grp ext with
  | (s, .ok v) =>
    let s := l1Store s a.core ia a.z (a.kind.newValue a.z v l.data l.cmp)
    setLaneSt (if a.isAcq then acquireAct s a.tk a.core a.scope else s) a.id l.lane (.fixed v)
  | (s, .fault k) => laneFault s a l ia k
  | (s, .perm) => setLaneSt s a.id l.lane (.refused 0x12)
  | (s, .unsup) => setLaneSt s a.id l.lane (.refused 0x14)
  | (_, .wait) => s0

/-- Whether an access of a kind to a page has its permission, and may go to a far frame. -/
def AKind.permOk (k : AKind) (p : Nat) : Bool :=
  match k with
  | .store | .wakea => permWrite p
  | .atom _ => permAtom p
  | .fatom _ => false
  | _ => permRead p

/-- Whether a lane's request goes to another node or a far frame, where it can meet a refusal or no answer; a permission that is clear,
and an FATOM to a far frame, are found on this wafer (R196). -/
def laneOutside (s : State) (a : Acc) (l : Lane) : Bool :=
  match l.loc with
  | .lm _ => false
  | .ia ia => iaNode ia != 0 || (match (pageOf s (iaHome ia) ia true).2 with | .far p => a.kind.permOk p | _ => false)

/-- Whether a lane's request was lost with its port: no answer to it comes (R346). -/
def Lane.lost (l : Lane) : Bool := match l.sent with | some x => x.lost | none => false

/-- A lane's request leaves a Selup port, and no answer has come: the 100 µs of R326 begin. -/
def leaveLane (s : State) (a : Acc) (l : Lane) : State :=
  if laneOutside s a l && l.sent.isNone then
    let ia := match l.loc with | .ia ia => ia | .lm _ => 0
    s.setAcc { a with lanes := a.lanes.map fun m => if m.lane == l.lane then { m with sent := some (sendOut s ia 0) } else m }
  else s

/-- The place of the next piece of a command's work, where it may be made now and goes to another node or a far frame whose permission is set: there
it can meet a refusal or no answer. A row of IRED.C there is stopped on this wafer (R226, R231). -/
def cmdOutside (s : State) (m : Cmd) : Option Nat :=
  match m.kind, m.work, pieceOf s m with
  | .ired _, .rd .. :: _, _ => none
  | _, w :: _, some (ia, _) =>
    let ok (p : Nat) : Bool := match w with | .rd .. => permRead p | _ => permWrite p
    if (match w with | .raw .. => false | _ => true)
      && (iaNode ia != 0 || (match (pageOf s (iaHome ia) ia true).2 with | .far p => ok p | _ => false)) then some ia else none
  | _, _, _ => none

/-- The request of a command's next piece leaves a Selup port. -/
def leaveCmd (s : State) (id : Nat) : State :=
  match Tbl.find? s.cmds id with
  | none => s
  | some m => match cmdOutside s m with
    | some ia => if m.sent.all (·.left != m.work.length) then setCmd s { m with sent := some (sendOut s ia m.work.length) } else s
    | none => s

/-- Whether a lane's, or a command's next, request for another node or a far frame has still to leave: no answer comes before (R346). -/
def unsent (s : State) (a : Acc) (l : Lane) : Bool := laneOutside s a l && l.sent.isNone
def unsentCmd (s : State) (id : Nat) : Bool :=
  (Tbl.find? s.cmds id).any fun m => (cmdOutside s m).isSome && m.sent.all (·.left != m.work.length)

/-- An access reaches the place where it performs: a lane of a load or store at its home or bank, or the next piece of a
command's work. For another node or a far frame its request leaves first, and waits there for an answer; with c = 1 it does only that. -/
def requestAct (x : Input) (s : State) : State :=
  match laneOf s x.a x.b with
  | none => if x.c = 1 || unsentCmd s x.a then leaveCmd s x.a else workStep s x.a x.flag x.ext
  | some (a, l) =>
    if l.st != .pending || !mayPerform s a l then s
    else if x.c = 1 || unsent s a l then leaveLane s a l
    else if l.lost then s
    else match l.loc, a.kind with
      | .lm k, _ => lmPerform s a l k
      | .ia ia, .load _ => loadLane s a l ia x.flag x.ext
      | .ia ia, .store => storeAtHomeLane s a l ia x.flag
      | .ia ia, .wakea => storeAtHomeLane s a l ia x.flag
      | _, _ => s

def atomicAct (x : Input) (s : State) : State :=
  match laneOf s x.a x.b with
  | none => s
  | some (a, l) =>
    if l.st != .pending || l.lost || !mayPerform s a l then s
    else if unsent s a l then leaveLane s a l
    else match l.loc, a.kind with
      | .ia ia, .atom _ => atomAtHomeLane s a l ia x.flag x.ext
      | .ia ia, .fatom _ => atomAtHomeLane s a l ia x.flag x.ext
      | .lm k, .atom _ => lmPerform s a l k
      | .lm k, .fatom _ => lmPerform s a l k
      | _, _ => s

/-! ## Fleeting banks (R202 to R204) -/

def locTile (l : Loc) : Nat := match l with | .ia a => tileOf a | .lm _ => 0
def AKind.fleeting (k : AKind) : Bool := match k with | .fld | .fst | .fbirth | .frenew | .flife => true | _ => false

/-- The fleeting accesses of one team to one tile are served in issue order. -/
def tileTurn (s : State) (a : Acc) (t : Nat) : Bool :=
  (Tbl.vals s.accs).all fun b => !(b.tk == a.tk && decide (b.id < a.id) && b.kind.fleeting && b.lanes.any fun l => l.st.waiting && locTile l.loc == t)

/-- One lane served at a tile's bank at the current tick. -/
def fleetLane (s : State) (a : Acc) (l : Lane) (ia : Nat) : State :=
  let dom := iaHome ia
  let t := tileOf ia
  let live := tileLive s dom t
  let b := if live then 1 else 0
  let fix (s : State) (v : Nat) : State := setLaneSt s a.id l.lane (.fixed v)
  match a.kind with
  | .fld => fix s (if live then 1 + 2 * Mem.read s.fleet (fleetKey ia) a.z else 0)
  | .fst => fix { s with fleet := Mem.write s.fleet (fleetKey ia) l.data a.z } b
  | .fbirth => if tileFenced s dom t then fix s 0 else fix (bornTile (zeroTile s dom t) dom t) 1
  | .frenew => fix (if live then bornTile s dom t else s) b
  | .flife => fix s (if live then (s.dom dom).w - (s.tick + 2 ^ 40 - (tileAt s dom t).birth) % 2 ^ 40 else 0)
  | _ => s

/-- The lanes of an access that name one tile are served together, at one tick (R203). -/
def fleetAct (x : Input) (s : State) : State :=
  match laneOf s x.a x.b with
  | none => s
  | some (a, l0) =>
    let t := locTile l0.loc
    if l0.st != .pending || !a.kind.fleeting || !tileTurn s a t || !mayPerform s a l0 then s
    else
      let s := if a.isRel then releaseBy s a.tk a.core a.scope a.grp 1 else s
      let s := a.lanes.foldl (fun s l => match l.loc with
        | .ia ia => if l.st == .pending && tileOf ia == t then fleetLane s a l ia else s
        | .lm _ => s) s
      if a.isAcq then acquireAct s a.tk a.core a.scope else s

/-- EXP is set once a tile's window has passed (R181, R183). -/
def expiryAct (x : Input) (s : State) : State :=
  let t := tileAt s x.a x.b
  if x.a < 72 && x.b < 73728 && !t.exp && !tileLive s x.a x.b then setTile s x.a x.b { t with exp := true } else s

/-! ## Invalidations (R179, R215) -/

def invArrive (x : Input) (s : State) : State :=
  match s.invs.find? (·.id == x.a) with
  | none => s
  | some v =>
    if v.arrived || decide (256 ≤ (s.dom v.dom).invq.length) then s
    else
      let s := { s with invs := s.invs.map fun (w : Inv) => if w.id == v.id then { w with arrived := true } else w }
      s.modDom v.dom fun d => { d with invq := d.invq ++ [v.block] }

def invApply (x : Input) (s : State) : State :=
  match (s.dom x.a).invq with
  | [] => s
  | b :: r => (dropRemote s x.a b).modDom x.a fun d => { d with invq := r }

/-- An acknowledgement at the home: with the last one the block leaves pending-invalidation. -/
def ackedAt (s : State) (v : Inv) : State :=
  let s := { s with invs := s.invs.filter (·.id != v.id) }
  match (if v.evict then none else dirFind (s.dom v.home) v.block) with
  | none => s
  | some e =>
    -- the entry may have been made anew since (R259): then it does not wait for this domain
    if !e.pend.contains v.dom then s else
    let pend := e.pend.erase v.dom
    let put (e : DirE) : State := s.modDom v.home fun m => { m with dir := m.dir.map fun y => if y.block == e.block then e else y }
    if !pend.isEmpty then put { e with pend := pend }
    else if e.keep.isEmpty then dirErase s v.home v.block
    else put { e with pend := [], sharers := e.keep, keep := [] }

/-- The records of fault queues that waited for an acknowledgement go on. -/
def ackedRecords (s : State) (v : Inv) : State :=
  ((v.by_ :: v.also.map (·.1)).filter (2 ^ 82 ≤ ·)).foldl (fun s k =>
    let s := endRecord s (k - 2 ^ 82)
    drainRecords s (k - 2 ^ 82) (s.dom (k - 2 ^ 82)).fqwait.length) s

def invAck (x : Input) (s : State) : State :=
  match s.invs.find? (·.id == x.a) with
  | none => s
  | some v => if v.arrived then ackedRecords (ackedAt s v) v else s

/-! ## Watches (R277, R250, R251) -/

/-- Waiters woken because the table has no room (R251), and counted as such (R278). -/
def wakeForRoom (s : State) (home : Nat) (ws : List Nat) : State :=
  let s := ws.foldl wakeWaiter s
  s.modDom home fun d => { d with watchev := d.watchev + BitVec.ofNat 32 ws.length }

/-- A team's place among its core's teams (R239, R250). -/
def teamSlot (s : State) (core tk : Nat) : Nat := ((s.teams.filter fun t => t.2.core == core).map (·.1)).findIdx (· == tk) % 128

/-- A WAITA's slot is that of its core and of its team's place there as it is appended (R250). -/
def slotted (s : State) (acc : Nat) : State :=
  match Tbl.find? s.accs acc with
  | none => s
  | some a => s.setAcc { a with wslot := domOf a.core * 2 ^ 16 + a.core % 48 * 2 ^ 10 + teamSlot s a.core a.tk * 2 ^ 3 }

/-- A waiter appended to the entry of a block. -/
def watchAppend (s : State) (home block acc : Nat) : State :=
  let s := slotted s acc
  let d := s.dom home
  match d.watch.find? (·.block == block) with
  | some e =>
    let (out, ws) := if e.waiters.length < 16 then ([], e.waiters) else (e.waiters.take 1, e.waiters.drop 1)
    let s := s.modDom home fun d => { d with watch := ⟨block, ws ++ [acc]⟩ :: d.watch.filter (·.block != block) }
    wakeForRoom s home out
  | none =>
    let set := d.watch.filter fun e => e.block % 512 == block % 512
    let victim := if set.length < 8 then none else set.getLast?
    let s := s.modDom home fun d => { d with
      watch := ⟨block, [acc]⟩ :: d.watch.filter fun e => match victim with | some v => e.block != v.block | none => true }
    match victim with
    | some v => wakeForRoom s home v.waiters
    | none => s

/-- The comparison of a WAITA has been made: its count falls. -/
def waitaCounted (s : State) (a : Acc) : State :=
  let s := match Tbl.find? s.accs a.id with
    | some b => s.setAcc { setLane b 0 (.fixed 0) with counted := false }
    | none => s
  if a.counted then inflDec s a.tk a.path else s

def waitaAct (x : Input) (s : State) : State :=
  match laneOf s x.a 0 with
  | none => s
  | some (a, l) =>
    if l.st != .pending || l.lost || a.kind != .waita || !mayPerform s a l then s
    else if unsent s a l then leaveLane s a l
    else match l.loc with
      | .lm _ => s
      | .ia ia =>
        let wake (s : State) : State := wakeWaiter (waitaCounted s a) a.id
        if iaNode ia != 0 then wake s
        else
          let home := iaHome ia
          match pageOf s home ia x.flag with
          | (s, .fault k) => laneFault s a l ia k
          | (s, .far p) => if permRead p then wake s else setLaneSt s a.id 0 (.refused 0x12)
          | (s, .local_ vc key p) =>
            if !permRead p then setLaneSt s a.id 0 (.refused 0x12)
            else
              let (s, v) := readAtHome s a.dom home vc ia key 4
              if v != l.data then wake s
              else watchAppend (waitaCounted s a) home (ia / 64) a.id

/-! ## Responses (R195, R269, R326) -/

/-- Only an access that writes registers has a response to come. -/
def loadAct (x : Input) (s : State) : State :=
  match Tbl.find? s.accs x.a with
  | some a => if a.kind.returns then respond s x.a else s
  | none => s

/-- A store is complete: every lane has performed at its scope, so at .wafer or .system its invalidations are acknowledged. -/
def storeAckAct (x : Input) (s : State) : State :=
  match Tbl.find? s.accs x.a with
  | none => s
  | some a => match a.kind with
    | .store | .wakea | .bar _ => finishAcc s x.a
    | _ => s

/-- A refusal reaches the core (R326): a trap for a load, an atomic or a WAITA, and for a permission; RERR for a remote store. -/
def refuseLane (s : State) (a : Acc) (l : Lane) (code : Nat) : State :=
  let s := setLaneSt s a.id l.lane .refusedAt
  let va := match Tbl.find? s.accs a.id with
    | some b => ((b.lanes.find? (·.st == .refusedAt)).map (·.va)).getD l.va
    | none => l.va
  let remoteStore := (code == 0x18 || code == 0x19) && (a.kind == .store || a.kind == .wakea)
  let s := if remoteStore then failStore s a.tk a.grp else pushTrap s a.tk code (accField a.kind) a.id va
  finishAcc s a.id

/-- A peer or host refuses, or does not answer, a sector of a command (R226). -/
def refuseCmd (s : State) (m : Cmd) (code kind : Nat) : State :=
  match (if m.sent.any (·.left == m.work.length) then cmdOutside s m else none) with
  | some ia => stopCmd (reportOnce s (domOf m.core) (domOf m.core) (ia / 2 ^ 16) kind tyEngine (engineFirst s m.tk m.kind.src)) { m with started := true } code
  | none => s

def refusalAct (x : Input) (s : State) : State :=
  match laneOf s x.a x.b with
  | none => (match Tbl.find? s.cmds x.a with | some m => if m.lost then s else refuseCmd s m 4 6 | none => s)
  | some (a, l) => match l.st with
    | .refused code => refuseLane s a l code
    | .pending => if laneOutside s a l && l.sent.isSome && !l.lost && mayPerform s a l then refuseLane s a l 0x18 else s
    | _ => s

/-- No answer has come within 100 µs of a request's leaving (R326). -/
def timeoutAct (x : Input) (s : State) : State :=
  match laneOf s x.a x.b with
  | none => (match Tbl.find? s.cmds x.a with
    | some m => if expired s (m.sent.filter (·.left == m.work.length)) then refuseCmd s m 5 7 else s
    | none => s)
  | some (a, l) => if l.st == .pending && laneOutside s a l && mayPerform s a l && expired s l.sent then refuseLane s a l 0x19 else s

/-! ## Faults at the core (R321 to R323) -/

/-- A store whose page faults enters the glean log with every later store of its team that has not performed, once there is room (R323). -/
def gleanRetire (s : State) (a : Acc) : State :=
  let es := gleanNeeds s a
  if 256 < (s.core a.core).glean.length + es.length then s
  else
    let later := (Tbl.vals s.accs).filter fun b => es.any (·.seq == b.id)
    later.foldl (fun s b =>
      let s := s.setAcc { b with lanes := b.lanes.map fun l => if l.st.waiting then { l with st := .written } else l }
      finishAcc s b.id) (gleanPush s a.tk es)

/-- A fault report at the core: a load parks its team, a store enters the log. -/
def reportAct (s : State) (id lane : Nat) : State :=
  match laneOf s id lane with
  | none => s
  | some (a, l) => match l.st, l.loc with
    | .faulted tok false, .ia ia => match filterTake s a.core a.tk ia tok a.kind.ty false with
      | (s, false) => s.modCore a.core fun c => { c with filtQ := if c.filtQ.contains (id, lane) then c.filtQ else c.filtQ ++ [(id, lane)] }
      | (s', true) =>
        if a.kind.logged then gleanRetire s' a
        else faultPark (setLaneSt s' id lane (.faulted tok true)) a.tk
    | _, _ => s

/-- A report that waited at a full filter is taken. -/
def filterRetryAct (x : Input) (s : State) : State :=
  match (s.core x.a).filtQ with
  | [] => s
  | (id, lane) :: r =>
    if 32 ≤ (s.core x.a).filt.length then s
    else reportAct (s.modCore x.a fun c => { c with filtQ := r }) id lane

/-- A request that waited at the full fault stage is taken. -/
def stageRetryAct (x : Input) (s : State) : State :=
  match (s.dom x.a).stageQ with
  | [] => s
  | (id, lane) :: r =>
    if (waitFree (s.dom x.a)).isNone then s
    else
      let s := s.modDom x.a fun d => { d with stageQ := r }
      -- it meets the page again, as it stands now
      match laneOf s id lane with
      | some (_, l) => if l.st == .stage then setLaneSt s id lane .pending else s
      | none => s

/-- At the end of a fault entry's first tick its record is written, and it enters STATE 1 (R238, R249). -/
def recordAct (x : Input) (s : State) : State :=
  let e := Tbl.getD (s.dom x.a).wait x.b {}
  if e.v && e.st == 0 && e.kind != 0 && e.tick != s.tick then
    postRecord (modWait s x.a x.b fun e => { e with st := 1 }) x.a (some x.b) (e.record x.b)
  else s

def consAct (x : Input) (s : State) : State :=
  let s := s.modDom x.a fun d => { d with fqcons := BitVec.ofNat 32 x.c }
  drainRecords s x.a (s.dom x.a).fqwait.length

/-! ## The drain of the glean log (R239, R325, R326) -/

/-- The runs of enabled bytes of an entry: offset and length. -/
def beRuns (be : BitVec 64) : List (Nat × Nat) :=
  (((List.range 64).filter fun j => be.getLsbD j).foldr (fun j acc => match acc with
    | (k, n) :: r => if k = j + 1 then (j, n + 1) :: r else (j, 1) :: (k, n) :: r
    | [] => [(j, 1)]) [])

/-- Whether a store that performed at .core before an entry that has too still has bytes of the entry to write at their home (R209, R210). -/
def drainAhead (s : State) (core : Nat) (g : GleanE) : Bool :=
  g.queued && ((Tbl.vals s.accs).any (fun b => b.core == core && b.queued && decide (b.id < g.seq) && b.waitsOn (.ia (g.block * 64)) 64)
    || (s.core core).glean.any fun e => e.tk != g.tk && e.queued && decide (e.seq < g.seq) && e.block == g.block && e.be &&& g.be != 0)

/-- A team's oldest entry, if READY, performs with its own order and scope, after the team's earlier accesses to the block and, of a
strong store, after those that R211 puts before it. One that had not performed at .core does so now: its core's L1 sees it, but for the
bytes that a store which has is still to write after it (R209). `ans` is what another node or the host answers: 0 done, 1 refused, 2 no
answer in time, 3 none yet. -/
def drainAct (s : State) (tk : Nat) (tc : Bool) (ans : Nat) : State :=
  let core := (s.team tk).core
  match gleanOf s tk with
  | [] => s
  | g :: _ =>
    let ia := g.block * 64
    let rel := g.ord == 3
    let bs := earlier s tk g.grp
    let may := (bs.all fun b => !b.waitsOn (.ia ia) 64) && !drainAhead s core g
      && ((Tbl.vals s.cmds).all fun m => !(m.tk == tk && decide (m.grp < g.grp) && (m.kind == .tld || m.kind == .tst) && m.touches (.ia ia) 64))
      && (g.ord == 0 || strongMay s bs tk core g.grp g.scope true (.ia ia) 64)
      && (!rel || (trapsClear s tk g.seq && releaseReady s tk g.grp g.scope))
    if !g.ready || !may then s
    else
      let s1 := if rel then releaseBy s tk core g.scope g.grp 1 else s
      let byte (x : Nat) (s : State) (j : Nat) : State :=
        if g.queued || (shadowByte s core (x + j)).isSome then s else l1Store s core (x + j) 1 (nb g.data (8 * (x - ia + j)) 8)
      let run (p : State × HOut) (r : Nat × Nat) : State × HOut := match p with
        | (s, .ok _) => memStore ((List.range r.2).foldl (byte (ia + r.1)) s) (domOf core) (ia + r.1) r.2 (nb g.data (8 * r.1) (8 * r.2)) tc tk g.grp g.wake
        | p => p
      let outside := iaNode ia != 0 || (match (pageOf s (iaHome ia) ia tc).2 with | .far p => permWrite p | _ => false)
      if outside && (ans = 3 || g.sent.isNone) then s.modCore core fun c => { c with glean := c.glean.map fun e => if e == g && e.sent.isNone then { e with sent := some (sendOut s ia 0) } else e }
      else if outside && ans = 2 && !expired s g.sent then s
      else if outside && ans != 2 && (match g.sent with | some x => x.lost | none => false) then s
      else if outside && ans != 0 then failStore (gleanPop s tk core g) tk g.grp
      else match (beRuns g.be).foldl run (s1, .ok 0) with
        | (s, .ok _) => gleanPop s tk core g
        | (s, .perm) => addTrap (gleanPop s tk core g) tk { code := 0x12, tval := preciseVal 1 ia, seq := g.seq }
        | (s', .fault k) =>
          let fresh := (waitOf (s'.dom (iaHome ia)) (ia / 2 ^ 16)).isNone
          match waitMerge s' (iaHome ia) ia k tyWrite (domOf core) false (teamFirst s' tk 1) with
          | (_, none) => s
          | (s', some tok) => match filterTake s' core tk ia tok tyWrite fresh with
            | (s', true) => s'.modCore core fun c => { c with glean := c.glean.map fun e => if e == g then { e with ready := false, tok := tok } else e }
            | (_, false) => s
        | _ => s

/-! ## Response-precise traps (R315, R318) -/

/-- The trap whose access issued first. -/
def firstTrap (ts : List Trap) : Option Trap :=
  ts.foldl (fun r t => match r with | none => some t | some u => if t.seq < u.seq then some t else r) none

/-- A team's waiting post is withdrawn. -/
def dropPosts (s : State) (tk : Nat) : State :=
  let core := (s.team tk).core
  let c := s.core core
  let mine (i : Nat) := (Tbl.find? s.cmds i).any (·.tk == tk)
  let insts := c.stallI.filter fun i => (Tbl.vals s.cmds).any fun m => m.inst == i && m.tk == tk
  let gone := c.stallC.filter mine
  let s := s.modCore core fun c => { c with
    stallM := c.stallM.filter (·.tk != tk), stallC := c.stallC.filter (fun i => !gone.contains i), stallI := c.stallI.filter fun i => !insts.contains i }
  { s with cmds := s.cmds.filter fun p => !(gone.contains p.1 || insts.contains p.2.inst) }

/-- The trap of a team taken at a boundary, or out of a wait that R318 lets it leave. -/
def preciseAct (x : Input) (s : State) : State :=
  let tk := x.a
  let t := s.team tk
  -- a trap comes when its access has left, so that its counter has fallen (R195)
  match firstTrap (t.traps.filter fun x => !x.held && (Tbl.find? s.accs x.seq).isNone) with
  | none => s
  | some tr =>
    if (s.plot (pidOf tk)).st != .bound then s
    else
      let enter (s : State) (tepc : Nat) : State :=
        let s := s.modTeam tk fun t => { t with traps := (t.traps.erase tr).map fun x => { x with held := true }, entered := false }
        let s := trapEntry s tk tr.code tr.tval tepc
        match tr.path with | some p => inflDec s tk p | none => s
      match t.st with
      | .ready => enter s t.resumePc
      | .counterWait _ _ => enter s t.waitAt
      | .barWait _ _ => enter s t.waitAt
      | .watchWait acc =>
        let s := match Tbl.find? s.accs acc with
          | some a =>
            let home := match a.lanes with | [l] => (match l.loc with | .ia ia => iaHome ia | .lm _ => 0) | _ => 0
            let s := unwatch (s.endAcc acc) home acc
            if a.counted then inflDec s tk a.path else s
          | none => s
        enter s t.waitAt
      | .engineStall => enter (dropPosts s tk) t.waitAt
      | .ended => s.modTeam tk fun t => { t with traps := [] }
      | .netWait _ | .faultPark _ | .releasePark => s

/-! ## Accesses from other nodes (R327) -/

/-- The access type of an inbound access in UNION, and whether a page's PERM allows it (R245). -/
def Inbound.ty (r : Inbound) : Nat := if r.kind = 0 then tyRead else if r.kind = 1 then tyWrite else tyAtom
def Inbound.allowed (r : Inbound) (p : Nat) : Bool := if r.kind = 0 then permRead p else if r.kind = 1 then permWrite p else permAtom p
/-- Who caused the invalidations of an inbound access, among the teams. -/
def Inbound.key (r : Inbound) : Nat := 2 ^ 80 + r.id
def Inbound.answer (r : Inbound) (body : List Nat) : Reply := ⟨r.node, r.tag, body⟩

/-- An inbound access is answered. -/
def inEnd (s : State) (r : Inbound) (body : List Nat) : State :=
  { s with inbound := s.inbound.filter (·.id != r.id), replies := s.replies ++ [r.answer body] }

/-- It is refused: its home writes a record with SRC 6 and NODE the initiator (R327). -/
def inRefuse (s : State) (r : Inbound) (kind : Nat) : State :=
  let ia := r.ia % 2 ^ 52
  let home := iaHome ia
  inEnd (reportOnce s home home (ia / 2 ^ 16) kind r.ty [0, r.node, home, 0, 0, 0, 6]) r [1]

/-- It has performed: it is answered once every invalidation it caused is acknowledged (R209). -/
def inDone (s : State) (r : Inbound) (v : Nat) : State :=
  if s.invs.any fun i => i.isOf r.key fun _ => true then
    { s with inbound := s.inbound.map fun q => if q.id == r.id then { q with val := some v } else q }
  else inEnd s r [0, v]

/-- An inbound access meets its page (R174, R186, R187, R327): a local one is performed at the home, with no line allocated for it (log entry
25); a far one goes on to the host, whose answer `ans` is 0 done with hv, 1 a refusal, 2 none yet. A moving page is waited for. An offset in the
fleeting or reserved window is refused as one that names no page. -/
def inboundServe (s : State) (r : Inbound) (ans hv : Nat) : State :=
  let ia := r.ia % 2 ^ 52
  let home := iaHome ia
  if 72 ≤ home then inEnd s r [1]
  else if fleetBase ≤ iaOff ia then inRefuse s r 1
  else match pageOf s home ia true with
    | (_, .fault 0) => s
    | (s, .fault k) => inRefuse s r k
    | (s, .far p) =>
      if !r.allowed p || 16 ≤ r.kind then inRefuse s r 5   -- an FATOM is refused as by permission (R196)
      else match ans with
        | 0 => inEnd s r [0, if r.kind = 1 then 0 else hv % 2 ^ (8 * r.size)]
        | 1 => inRefuse s r 6
        | _ => s
    | (s, .local_ vc key p) =>
      if !r.allowed p then inRefuse s r 5
      else
        if r.kind = 0 then inDone (peekTouch (countUndef s home false vc) home ia key) r (homePeek s home key r.size)
        else if r.kind = 1 then inDone (storeAtHome s home vc ia key r.size r.data home r.key 0 false) r 0
        else
          let old := homePeek s home key r.size
          let k : AKind := if r.kind < 16 then .atom (r.kind - 2) else .fatom (r.kind - 16)
          inDone (storeAtHome (touchMiss s home key) home vc ia key r.size (k.newValue r.size old r.data r.cmp) home r.key 0 false) r old

/-- An access from another node: node, tag, order and scope of its message, c the kind, a the IA, b the size, ext the data, and in us the compare value
of a CAS (R199), what the host answers to an access that goes on to it, and the host's value. With flag set, the access of identifier a that
waits for its page, for the host or for acknowledgements is looked at again. -/
def inboundAct (x : Input) (s : State) : State :=
  if x.flag then
    match s.inbound.find? (·.id == x.a) with
    | none => s
    | some r => match r.val with
      | some v => inDone s r v
      | none => inboundServe s r (x.us.getD 1 0) (x.us.getD 2 0)
  else
    let (id, s) := s.newId
    let r : Inbound := { id := id, node := x.node, tag := x.tag % 2 ^ 32, kind := x.c, ia := x.a, size := x.b, ord := x.ord, scope := x.scope
                         data := x.ext, cmp := x.us.getD 0 0, tick := s.tick }
    inboundServe { s with inbound := s.inbound ++ [r] } r (x.us.getD 1 0) (x.us.getD 2 0)

/-- The kind of an inbound access's record that has not been answered within 100 µs: its page is absent to it while it moves, and its
host has not answered (R327 names no kind; log entry 24). -/
def inLateKind (s : State) (r : Inbound) : Nat :=
  match (pageOf s (iaHome (r.ia % 2 ^ 52)) (r.ia % 2 ^ 52) true).2 with | .far _ => 7 | _ => 2

/-- An access that cannot be answered within 100 µs is refused. -/
def inboundLate (x : Input) (s : State) : State :=
  match s.inbound.find? (·.id == x.a) with
  | none => s
  | some r => if (s.tick + 2 ^ 40 - r.tick) % 2 ^ 40 < 100 then s else inRefuse s r (inLateKind s r)

/-! ## Results that land (R63, R64) -/

/-- The clock of a team's core reaches the cycle in which its earliest fixed-latency result is read, and what is due lands. -/
def fixedAct (x : Input) (s : State) : State :=
  let t := s.team x.a
  match (t.pend.filterMap (·.due)).foldl (fun r d => match r with | none => some d | some e => some (min d e)) none with
  | none => s
  | some d =>
    land (advance s t.core d) x.a d

/-- The oldest interlocked result of a team is written; a VWRI only after every result issued before it (R65, R149). -/
def interlockAct (x : Input) (s : State) : State :=
  let t := s.team x.a
  match t.pend.find? fun p => p.due.isNone && !(p.vwri && t.pend.any fun q => decide (q.grp ≤ p.grp) && !q.vwri) with
  | none => s
  | some p =>
    landOne (s.modTeam x.a fun t => { t with pend := t.pend.erase p }) x.a p

/-- R174: An access arrives at its home, where the walker translates it and it is performed, parked or refused according to the page entry. Reads a, the access or command; b, the lane; flag, whether the walker answers from its copy; ext (log entry 15); c, where 1 the request leaves for another node or a far frame. -/
def execMemoryRequestAtHome (s : State) : Host.Outcome State Fault Refusal :=
  ev requestAct s

/-- R180: An atomic or FATOM is performed at the home's atomic unit as one indivisible read-modify-write. Reads a, b, flag and ext as a request does. -/
def execAtomicAtHome (s : State) : Host.Outcome State Fault Refusal :=
  ev atomicAct s

/-- R203: A tile's bank serves a fleeting access or FCTL operation at its perform tick and decides liveness. Reads a, the access, and b, a lane of the tile served. -/
def execFleetingAccessAtBank (s : State) : Host.Outcome State Fault Refusal :=
  ev fleetAct s

/-- R181: The part sets EXP of a fleeting tile once its retention window has passed. Reads a, the domain, and b, the tile. -/
def execFleetingExpiry (s : State) : Host.Outcome State Fault Refusal :=
  ev expiryAct s

/-- R195: Load data reaches the core, writes the lanes' destinations and the latch, and lowers the in-flight counter. Reads a, the access. -/
def execLoadResponse (s : State) : Host.Outcome State Fault Refusal :=
  ev loadAct s

/-- R269: A store has performed at its scope, and the team's st counter falls. Reads a, the access. -/
def execStoreAck (s : State) : Host.Outcome State Fault Refusal :=
  ev storeAckAct s

/-- R215: An invalidation enters a domain's invalidation queue and is acknowledged at once. Reads a, the invalidation. -/
def execInvalidationArrival (s : State) : Host.Outcome State Fault Refusal :=
  ev invArrive s

/-- R215: The invalidation queue applies its oldest invalidation and drops every line of the block. Reads a, the domain. -/
def execInvalidationApply (s : State) : Host.Outcome State Fault Refusal :=
  ev invApply s

/-- R179: An acknowledgement returns to the home, and the block leaves pending-invalidation when it is the last one. Reads a, the invalidation. -/
def execInvalidationAckAtHome (s : State) : Host.Outcome State Fault Refusal :=
  ev invAck s

/-- R277: At the home, a WAITA compares the watched word and either wakes the team or appends it to the watch entry in one step. Reads a, the access, and flag. -/
def execWaitaCompare (s : State) : Host.Outcome State Fault Refusal :=
  ev waitaAct s

/-- R321: A fault report reaches the core, and its fault filter allocates or joins an entry and sends one merge request per team. Reads a, the access, and b, the lane. -/
def execFaultReport (s : State) : Host.Outcome State Fault Refusal :=
  ev (fun x s => reportAct s x.a x.b) s

/-- R321: A report that waited while all 32 filter entries were live is taken once an entry frees. Reads a, the core. -/
def execFaultFilterRetry (s : State) : Host.Outcome State Fault Refusal :=
  ev filterRetryAct s

/-- R249: A request that waited at the fault stage while the wait table was full is taken once an entry frees. Reads a, the domain. -/
def execFaultStageRetry (s : State) : Host.Outcome State Fault Refusal :=
  ev stageRetryAct s

/-- R238: At the end of a fault entry's first tick, its fault record is written to the fault queue and PROD advances. Reads a, the domain, and b, the wait entry. -/
def execFaultRecordWrite (s : State) : Host.Outcome State Fault Refusal :=
  ev recordAct s

/-- R237: System software or the host advances FQCONS, which frees room for waiting fault records. Reads a, the domain, and c, the value. -/
def execFqconsWrite (s : State) : Host.Outcome State Fault Refusal :=
  ev consAct s

/-- R239: A team's oldest READY glean entry performs with its own order and scope, or takes a new token if it faults again. Reads a, the team; flag; c, what another node answers (0 done, 1 refused, 2 no answer in time, 3 none yet). -/
def execGleanDrain (s : State) : Host.Outcome State Fault Refusal :=
  ev (fun x s => drainAct s x.a x.flag x.c) s

/-- R326: A refusal from the memory side reaches the core and either leads to a response-precise trap or sets TSTAT.RERR. Reads a, the access or command, and b, the lane. -/
def execRefusalResponse (s : State) : Host.Outcome State Fault Refusal :=
  ev refusalAct s

/-- R326: No response has arrived 100 µs after a request left the Selup port, so the request is treated as a timeout. Reads a and b as a refusal does. -/
def execRemoteTimeoutExpiry (s : State) : Host.Outcome State Fault Refusal :=
  ev timeoutAct s

/-- R315: At the first group boundary after a refusing response, the trap is taken with TEPC naming the next group. Reads a, the team. -/
def execResponsePreciseTrap (s : State) : Host.Outcome State Fault Refusal :=
  ev preciseAct s

/-- R327: An access from another node is served at its target home, or refused there with a fault record of SRC 6. Reads node, dest, tag, ord, scope, c, a, b, ext, us and flag. -/
def execInboundAccess (s : State) : Host.Outcome State Fault Refusal :=
  ev (message inboundAct) s

/-- R327: An inbound access waiting on a moving page is refused after 100 µs. Reads a, the access. -/
def execInboundMovingTimeout (s : State) : Host.Outcome State Fault Refusal :=
  ev inboundLate s

/-- R63: A pass's result lands in its register and latch L cycles after issue, and from then on reads see it and do not trip STALL_UNDERRUN. Reads a, the team. -/
def execFixedLatencyWrite (s : State) : Host.Outcome State Fault Refusal :=
  ev fixedAct s

/-- R64: The result of an interlocked producer (UDIV/UREM, VIALU divide, f64 SQRT, VRED, VRDI, VWRI) is written, which releases the groups held on it. Reads a, the team. -/
def execInterlockedWrite (s : State) : Host.Outcome State Fault Refusal :=
  ev interlockAct s

end Sys2Proof.Machine
end

