-- ==== Sys2Proof/Machine/Sowings.lean ====
section
/-! DEFINITION. Stopping and ending sowings: what a stopped plot drops (R333), and how a sowing ends (R49, R236, R363). -/
namespace Sys2Proof.Machine

/-! ## Wait entries that lose a waiter (R333) -/

/-- One merge of a token is withdrawn, by a team `tk` or an engine; an entry with no waiter left is released. -/
def withdraw (s : State) (home tok tk : Nat) : State :=
  match waitTok (s.dom home) tok with
  | none => s
  | some (i, e) => if e.waiters ≤ 1 then replayEntry s home i else modWait s home i fun e =>
      { e with waiters := e.waiters - 1, first := if e.first.getD 7 0 == tk then e.first.take 7 else e.first }

/-- Whether an access of a team under a token has been counted: as the one for which the entry was made, or by its core's filter (R249, R321). -/
def counted (s : State) (core tk home tok : Nat) : Bool :=
  (s.core core).filt.any (fun f => f.tok == tok && iaHome (f.page * 2 ^ 16) == home && f.teams.contains tk)
    || (waitTok (s.dom home) tok).any fun e => e.2.first.getD 7 0 == tk

/-- A team leaves its core's filter: what it reports from then on is counted anew. -/
def leaveFilter (s : State) (core tk : Nat) : State :=
  s.modCore core fun c => { c with filt := c.filt.map fun f => { f with teams := f.teams.filter (· != tk) } }

/-- The merges that a team's waits have made, each a home and a token: one for each token of its accesses and logged stores, one for each image
and for its fetch. -/
def tokensOf (s : State) (tk : Nat) : List (Nat × Nat) :=
  let lanes := (Tbl.vals s.accs).flatMap fun a => if a.tk != tk then [] else a.lanes.filterMap fun l => match l.st, l.loc with
    | .faulted t _, .ia ia => if counted s a.core tk (iaHome ia) t then some (iaHome ia, t) else none
    | _, _ => none
  let logs := ((gleanOf s tk).filter fun g => !g.ready).map fun g => (iaHome (g.block * 64), g.tok)
  let imgs := (Tbl.vals s.reqs).filterMap fun r => if r.tk == tk && r.tok != 0 then some (r.tok / 2 ^ 32, r.tok % 2 ^ 32) else none
  let fetch := match (s.team tk).fetchTok with | some f => [(f / 2 ^ 32, f % 2 ^ 32)] | none => []
  (lanes ++ logs).eraseDups ++ imgs ++ fetch

/-- Lanes that a test names are dropped: they never perform, and write nothing. -/
def dropLanes (s : State) (tk : Nat) (f : Acc → Lane → Bool) : State :=
  (Tbl.vals s.accs).foldl (fun s a =>
    if a.tk != tk || !(a.lanes.any (f a)) then s
    else finishAcc (s.setAcc { a with lanes := a.lanes.map fun l => if f a l then { l with st := .refusedAt } else l }) a.id) s

/-- The watch of a team, if it waits by one, in fault park or not. -/
def TState.watchOf (st : TState) : Option Nat :=
  match st with
  | .watchWait a => some a
  | .faultPark (.watchWait a) => some a
  | _ => none

/-- The home at whose table a WAITA waits. -/
def Acc.watchHome (a : Acc) : Nat := match a.lanes with | [l] => (match l.loc with | .ia ia => iaHome ia | .lm _ => 0) | _ => 0

/-- A command that a page holds does no more. Its engine's merge is withdrawn with the last command that the engine has under the token (R321). -/
def dropHeld (s : State) (m : Cmd) : State :=
  let s := setCmd s { m with tok := 0, work := [] }
  let last := !(Tbl.vals s.cmds).any fun c => c.core == m.core && engineKey c.kind == engineKey m.kind && c.tok == m.tok
  let s := if last then s.modCore m.core fun c => { c with filt := c.filt.map fun f =>
      if f.tok == m.tok % 2 ^ 32 then { f with teams := f.teams.filter (· != engineKey m.kind) } else f } else s
  if last then withdraw s (m.tok / 2 ^ 32) (m.tok % 2 ^ 32) 0 else s

/-- What a team of a stopped plot drops: accesses that wait on a fault or a moving page, its watch, its logged stores, the
posts that stall, and the commands and images that a page holds (R333). -/
def dropWaits (s : State) (tk : Nat) : State :=
  let toks := tokensOf s tk
  let core := (s.team tk).core
  let s := match (s.team tk).st.watchOf with
    | some acc => match Tbl.find? s.accs acc with
      | some a => (let s := unwatch (s.endAcc acc) a.watchHome acc; if a.counted then inflDec s tk a.path else s)
      | none => s
    | none => s
  let s := dropLanes s tk fun _ l => match l.st with | .stage | .faulted _ _ => true | _ => false
  let held := (Tbl.vals s.cmds).filter fun m => m.tk == tk && m.tok != 0
  let s := held.foldl dropHeld s
  let s := ((Tbl.vals s.reqs).filter fun r => r.tk == tk && r.tok != 0).foldl (fun s r => inflDec { s with reqs := Tbl.erase s.reqs r.id } tk 4) s
  let s := dropPosts s tk
  let s := s.modCore core fun c => { c with glean := c.glean.filter (·.tk != tk) }
  let s := s.modTeam tk fun t => { t with tstat := setB t.tstat 9 false, traps := [], later := [], fetchTok := none }
  toks.foldl (fun s h => withdraw s h.1 h.2 tk) (leaveFilter s core tk)

/-! ## The end of sowings (R49, R236, R363) -/

def leadDom (s : State) : Nat := s.lead.getD 0

/-- A record of a sowing's end in the lead domain's queue (R363). That of kind 9, the sowing stopped, is a loss, which its controller is told
of too (R334). -/
def sowRecord (s : State) (sid kind page dom quad : Nat) : State :=
  let s := reportOnce s (leadDom s) (leadDom s) page kind 0 [sid, 0, dom, quad, 0, 0, 5]
  if kind = 9 then tellController s (leadDom s) [1, page, 5] else s

/-- The sowing that follows one in a queue, round-robin (R32). -/
def afterIn (q : List Nat) (sid : Nat) : Nat :=
  match q.findIdx? (· == sid) with
  | some i => ((q.drop (i + 1) ++ q.take i).head?).getD 0
  | none => 0

/-- A sowing leaves its class queue; if it was its turn, the turn is that of the one after it. -/
def unqueue (s : State) (sid : Nat) : State :=
  let next (k n : Nat) : Nat := if n == sid then afterIn (Tbl.getD s.queues (k % 4) []) sid else n
  { s with queues := Tbl.mapV (fun q => q.filter (· != sid)) s.queues, rrNext := s.rrNext.map fun e => (e.1, next e.1 e.2) }

/-- A sowing with plots to bind again goes back to its class queue unless it is there: at the head, since the spec does not say where (R49; log
entry 25). -/
def requeue (s : State) (sid cls : Nat) : State :=
  let q := Tbl.getD s.queues cls []
  if q.contains sid then s else { s with queues := Tbl.set s.queues cls (sid :: q) }

/-- A sowing is to end with a status: none of its plots is bound any more. -/
def endSow (s : State) (sid page dom quad : Nat) : State :=
  let w := s.sow sid
  if w.ended then s
  else (unqueue s sid).modSow sid fun w => { w with ended := true, redo := [], stopRec := [page, dom, quad] }

/-- A plot and everything it holds leaves the machine. -/
def erasePlot (s : State) (pid : Nat) : State :=
  let p := s.plot pid
  let q := 12 * p.dom + p.quad
  let held := p.resident
  let s := (plotTeams p).foldl (fun s tk => { s with teams := Tbl.erase s.teams tk }) s
  let s := { s with races := s.races.filter fun r => pidOf r.tk != pid }
  let s := if held then s.modQuad q fun d => { d with slots := Tbl.erase d.slots p.slot } else s
  { s with plots := Tbl.erase s.plots pid }

/-- A team of a plot that is not in a quad ends: what it was to repeat goes with it (R319, R333). -/
def dropTeam (s : State) (tk : Nat) : State :=
  let s := dropWaits s tk
  { s with accs := s.accs.filter fun p => p.2.tk != tk }

/-- A bound plot is stopped (R333): its teams stop, at the boundary at which they stand, and drop what waits. -/
def stopPlot (s : State) (pid : Nat) : State :=
  let s := setSlotState (s.modPlot pid fun p => { p with st := .stopping }) pid 4
  (plotTeams (s.plot pid)).foldl dropWaits s

/-- Containment stops a core sowing (R333): its bound plots stop; a restartable one has them bound again, any other ends.
A plot saved before the stop is not bound: it resumes, or is discarded with the sowing. -/
def stopSow (s : State) (sid dom quad : Nat) : State :=
  let w := s.sow sid
  if w.ended || (Tbl.find? s.sows sid).isNone then s
  else
    let bound := (plotsOf s sid).filter fun p => p.2.st == .bound || p.2.st == .preempting
    let s := bound.foldl (fun s p => stopPlot s p.1) s
    -- the plots of a co-resident sowing are all bound again at one moment (R34)
    let s := if bound.isEmpty then s else s.modSow sid fun w => { w with started := false, headAt := none, coFall := false }
    if nb (w.words.getD 4 0).toNat 0 1 == 1 then s
    else
      let s := (plotsOf s sid).foldl (fun s (pid, (p : Plot)) => match p.st with
        | .saved | .halted => erasePlot ((plotTeams p).foldl dropTeam s) pid
        | _ => s) s
      endSow s sid 0 dom quad

end Sys2Proof.Machine
end

