-- ==== Sys2Proof/Machine/Vector.lean ====
section
/-! DEFINITION. The vector instructions (R134 to R149). -/
namespace Sys2Proof.Machine

/-- The B operand of a lane: a vector source, or one uniform register for every lane. -/
def rdB (t : Team) (bu : Bool) (v n lane : Nat) : Nat := if bu then t.rdU v n else t.rdV v n lane

/-- A floating-point operation in the type that the E type selects; packed types work half by half (R95, R136). -/
def typed (ty : Nat) (op : Fmt → Nat → Nat → Nat → FR) (a b d : Nat) : FR :=
  match ty with
  | 0 => op .f32 a b d
  | 1 => packed2 (op .bf16) a b d
  | 2 => packed2 (op .f16) a b d
  | _ => op .f64 a b d

/-- Floating-point arithmetic: D := op(A, B, D) under FMT (R135, R136). -/
def vfp (i : Instr) (bu : Bool) (d a b : BitVec 8) (e : EPay) (op : Fmt → Env → Nat → Nat → Nat → FR) (s : State) :
    Host.Outcome State Fault Refusal :=
  let f := form i
  let n := eRegs e
  let v := s.ct.env
  issue f noCheck (vecExec f e fun t l => vecResF (latchOf f s) d.toNat n l
    (typed (eType e) (fun g => op g v) (t.rdV a.toNat n l) (rdB t bu b.toNat n l) (t.rdV d.toNat n l))) s

/-- VFCMP: a predicate for each lane, and flags (R137). -/
def vfcompare (i : Instr) (bu : Bool) (k : BitVec 5) (p : BitVec 3) (a b : BitVec 8) (e : EPay) (s : State) :
    Host.Outcome State Fault Refusal :=
  let f := form i
  let n := eRegs e
  let v := s.ct.env
  issue f noCheck (vecExec f e fun t l =>
    let r := fCmp (if n = 2 then .f64 else .f32) v k.toNat (t.rdV a.toNat n l) (rdB t bu b.toNat n l)
    (.p l p.toNat, if r.1 then 1 else 0) :: (if r.2 = 0 then [] else [(.flags, r.2)])) s

/-- VDOT2 (R138). -/
def vdot (i : Instr) (bu : Bool) (d a b : BitVec 8) (e : EPay) (s : State) : Host.Outcome State Fault Refusal :=
  let f := form i
  let v := s.ct.env
  issue f noCheck (vecExec f e fun t l => vecResF (latchOf f s) d.toNat 1 l
    (fDot2 (if eType e = 2 then .f16 else .bf16) v (t.rdV a.toNat 1 l) (rdB t bu b.toNat 1 l) (t.rdV d.toNat 1 l))) s

/-- Integer arithmetic: D := op(A, B) modulo 2^w (R139). -/
def vint (i : Instr) (bu : Bool) (d a b : BitVec 8) (e : EPay) (op : Nat → Nat → Nat → Nat) (s : State) :
    Host.Outcome State Fault Refusal :=
  let f := form i
  let n := eRegs e
  issue f noCheck (vecExec f e fun t l =>
    vecRes .V0 d.toNat n l (op (32 * n) (t.rdV a.toNat n l) (rdB t bu b.toNat n l) % 2 ^ (32 * n))) s

/-- A binary VIALU operation of the width, the first and second operands and the old D (R74, R140). -/
def vialu (i : Instr) (d a : BitVec 8) (u : BitVec 1) (e : EPay) (op : Nat → Nat → Nat → Nat → Nat) (s : State) :
    Host.Outcome State Fault Refusal :=
  let f := form i
  let n := eRegs e
  issue f noCheck (vecExec f e fun t l =>
    let old := t.rdV d.toNat n l
    let (x, y) := if e.isNone then (old, rdB t (u == 1) a.toNat n l)
      else (t.rdV a.toNat n l, rdB t (u == 1) (eXop e) n l)
    vecRes .V0 d.toNat n l (op (32 * n) x y old % 2 ^ (32 * n))) s

/-- A VIUN operation of the width and its operand (R143). -/
def viun (i : Instr) (d a : BitVec 8) (u : BitVec 1) (e : EPay) (op : Nat → Nat → Nat) (s : State) :
    Host.Outcome State Fault Refusal :=
  let f := form i
  let n := eRegs e
  issue f noCheck (vecExec f e fun t l =>
    vecRes .V0 d.toNat n l (op (32 * n) (rdB t (u == 1) a.toNat n l) % 2 ^ (32 * n))) s

/-- A VFUN operation in the type of F[7:6] (R144). -/
def vfun (i : Instr) (d a : BitVec 8) (ty : BitVec 2) (e : EPay) (op : Fmt → Env → Nat → FR) (s : State) :
    Host.Outcome State Fault Refusal :=
  let f := form i
  let n := if ty = 3 then 2 else 1
  let v := s.ct.env
  issue f noCheck (vecExec f e fun t l => vecResF (latchOf f s) d.toNat n l
    (typed ty.toNat (fun g x _ _ => op g v x) (t.rdV a.toNat n l) 0 0)) s

/-- VSHUF: every position of the furrow holds a value, masked or not (R146). The registers of the positions chosen are
checked as the pass reads them. -/
def vshuffle (i : Instr) (bu : Bool) (d a b : BitVec 8) (e : EPay) (s : State) : Host.Outcome State Fault Refusal :=
  let f := form i
  let n := eRegs e
  let from_ (t : Team) (l : Nat) := 64 * (l / 64) + rdB t bu b.toNat 1 l % 64
  let chk (s : State) := selectedVerdict s ((f.passes s.ct).zipIdx.map fun (k, i) =>
    let c := s.cur.cyc + max f.cpp s.cur.cpp * i
    let tv := s.ct.view c
    (c, ((passLanes s.ct.mask k).filter (tv.guardP e)).flatMap fun l =>
      (src .vsrc a.toNat 1 n).slots (from_ tv l)))
  issue f chk (vecExec f e fun t l => vecRes .V1 d.toNat n l (t.rdV a.toNat n (from_ t l))) s

/-! ## Team reduction (R147) -/

/-- comb on values that may be absent, with flags gathered. -/
def combO (op : Nat → Nat → FR) (x y : Option Nat) : Option Nat × Nat :=
  match x, y with
  | none, y => (y, 0)
  | x, none => (x, 0)
  | some x, some y => let r := op x y; (some r.1, r.2)

/-- One level of the tree: neighbours combined. -/
def treeLevel (op : Nat → Nat → FR) : List (Option Nat) → List (Option Nat) × Nat
  | x :: y :: r =>
    let (z, f) := combO op x y
    let (zs, g) := treeLevel op r
    (z :: zs, f ||| g)
  | l => (l, 0)

/-- Five levels over the 32 lanes of a pass. -/
def treeFold (op : Nat → Nat → FR) : Nat → List (Option Nat) → List (Option Nat) × Nat
  | 0, l => (l, 0)
  | n + 1, l =>
    let (l, f) := treeLevel op l
    let (l, g) := treeFold op n l
    (l, f ||| g)

/-- The reduction: the tree of each pass, then the parts in order, from the identity if there is none. -/
def reduceParts (op : Nat → Nat → FR) (ident : Nat) (ps : List (List (Option Nat))) : FR :=
  let trees := ps.map fun l => treeFold op 5 l
  let parts := trees.filterMap fun r => r.1.head?.join
  let fl := trees.foldl (fun a r => a ||| r.2) 0
  match parts with
  | [] => (ident, fl)
  | p :: r => r.foldl (fun a x => let y := op a.1 x; (y.1, a.2 ||| y.2)) (p, fl)

/-- How a reduction reads a source and delivers what it has reduced: an integer as it stands; a floating-point one with DAZ, and with
a canonical NaN and its flags, and a sum with FTZ, which R98 and R99 ask of a result that no comb has made too (log entry 25). -/
structure RedForm where
  src : Env → Nat → Nat := fun _ x => x
  fin : Env → Nat → FR := fun _ x => (x, 0)

def redSum : RedForm := ⟨fun v x => dazBits .f32 v.daz x, fun v x => packR .f32 v (unpack .f32 false x)⟩
def redMinMax : RedForm := ⟨fun v x => dazBits .f32 v.daz x, fun _ x => packR .f32 {} (unpack .f32 false x)⟩

/-- VRED: an interlocked uniform result; no latch is written (R147). -/
def vreduce (i : Instr) (d a : BitVec 8) (e : EPay) (op : Env → Nat → Nat → Nat → FR) (ident : Nat → Nat) (rf : RedForm) (s : State) :
    Host.Outcome State Fault Refusal :=
  let f := form i
  let n := eRegs e
  issue f noCheck (fun s =>
    let t := s.ct
    let v := t.env
    let ps := (f.passes t).zipIdx.map fun (k, j) =>
      let tv := t.view (s.cur.cyc + max f.cpp s.cur.cpp * j)
      (List.range 32).map fun x =>
        let l := 32 * k + x
        if bitOf t.mask l && tv.guardP e l then some (rf.src v (tv.rdV a.toNat n l)) else none
    let r := reduceParts (op v (32 * n)) (ident (32 * n)) ps
    let r := ((rf.fin v r.1).1, r.2 ||| (rf.fin v r.1).2)
    let s := pmcAdd s t.core 0x01 ps.length
    result s none 0 (wrU d.toNat n r.1 ++ (if r.2 = 0 then [] else [(.flags, r.2)]))) s

/-! ## Register indirection (R90, R148, R149) -/

/-- One pass of VRDI or VWRI: its cycle, the team as it reads it, and the register each guarded-in lane selects. -/
structure IndPass where
  cyc : Nat
  view : Team
  sel : List (Nat × Nat)

/-- The banks that a pass touches, at least one cycle (R90). -/
def indCost (n : Nat) (sel : List (Nat × Nat)) : Nat :=
  max 1 (sel.flatMap fun x => (List.range n).map fun j => (x.2 + j) % 8).eraseDups.length

/-- The passes from a list of lane words on, each as many cycles long as its banks. -/
def indPasses (t : Team) (e : EPay) (a n : Nat) : List Nat → Nat → List IndPass
  | [], _ => []
  | k :: ks, c =>
    let tv := t.view c
    let sel := ((passLanes t.mask k).filter (tv.guardP e)).map fun l => (l, tv.rdV a 1 l)
    ⟨c, tv, sel⟩ :: indPasses t e a n ks (c + indCost n sel)

def indOf (f : Form) (a : BitVec 8) (n : Nat) (e : EPay) (s : State) : List IndPass :=
  indPasses s.ct e a.toNat n (f.passes s.ct) s.cur.cyc

/-- The checks of the selected numbers; and the interlock and the scoreboard pass by pass at R90's cost, for a
VRDI on the registers selected too. -/
def indCheck (f : Form) (a : BitVec 8) (n : Nat) (rd : Bool) (e : EPay) (s : State) : Verdict :=
  let ps := indOf f a n e s
  if ps.any fun p => p.sel.any fun x => !inCount x.2 n n s.ct.regs then .trap 0x06 (wordVal s 1)
  else selectedVerdict s ((ps.zip (f.passes s.ct)).map fun (p, k) =>
    (p.cyc, (f.lanes s.ct k).flatMap f.reads ++ (if rd then p.sel.flatMap fun x => slotsFrom (.v x.1) x.2 n else [])))

/-- VRDI: each lane reads the register whose number it gives. All its passes land as one interlocked result, so that no read of lat.a sees a
part of them: the spec fixes no pass at which each lands (log entry 25). -/
def vrdi (i : Instr) (d a : BitVec 8) (n : Nat) (e : EPay) (s : State) : Host.Outcome State Fault Refusal :=
  let f := form i
  issue f (indCheck f a n true e) (fun s =>
    let ws := (indOf f a n e s).flatMap fun p => p.sel.flatMap fun x =>
      vecRes .V0 d.toNat n x.1 (p.view.regs32 (.v x.1) x.2 n)
    (pmcAdd s s.ct.core 0x01 (f.passes s.ct).length).modCt fun t =>
      { t with pend := t.pend ++ passResults t [{ grp := t.grp, due := none, ws := ws }] }) s

/-- VWRI: each lane writes the register whose number it gives; its writes land last of its group's (R149). -/
def vwri (i : Instr) (d a : BitVec 8) (n : Nat) (e : EPay) (s : State) : Host.Outcome State Fault Refusal :=
  let f := form i
  issue f (indCheck f a n false e) (fun s =>
    let ws := (indOf f a n e s).flatMap fun p => p.sel.flatMap fun x =>
      let v := p.view.rdV d.toNat n x.1
      wrRegs (.v x.1) x.2 v n ++ [(.lat .V0 x.1, v)]
    (pmcAdd s s.ct.core 0x01 (f.passes s.ct).length).modCt fun t =>
      { t with pend := t.pend ++ passResults t [{ grp := t.grp, due := none, ws := ws, vwri := true }] }) s

/-! ## The instructions -/

/-- R136: Adds per lane with one rounding under FMT. -/
def execVadd (d : BitVec 8) (a : BitVec 8) (b : BitVec 8) (e : EPay) (s : State) : Host.Outcome State Fault Refusal :=
  vfp (.vadd d a b e) false d a b e (fun g v x y _ => fAdd g v x y) s

/-- R136: VADD with B taken from a uniform register. -/
def execVaddBu (d : BitVec 8) (a : BitVec 8) (b : BitVec 8) (e : EPay) (s : State) : Host.Outcome State Fault Refusal :=
  vfp (.vaddBu d a b e) true d a b e (fun g v x y _ => fAdd g v x y) s

/-- R136: Subtracts per lane with one rounding. -/
def execVsub (d : BitVec 8) (a : BitVec 8) (b : BitVec 8) (e : EPay) (s : State) : Host.Outcome State Fault Refusal :=
  vfp (.vsub d a b e) false d a b e (fun g v x y _ => fSub g v x y) s

/-- R136: VSUB with a uniform B. -/
def execVsubBu (d : BitVec 8) (a : BitVec 8) (b : BitVec 8) (e : EPay) (s : State) : Host.Outcome State Fault Refusal :=
  vfp (.vsubBu d a b e) true d a b e (fun g v x y _ => fSub g v x y) s

/-- R136: Multiplies per lane with one rounding. -/
def execVmul (d : BitVec 8) (a : BitVec 8) (b : BitVec 8) (e : EPay) (s : State) : Host.Outcome State Fault Refusal :=
  vfp (.vmul d a b e) false d a b e (fun g v x y _ => fMul g v x y) s

/-- R136: VMUL with a uniform B. -/
def execVmulBu (d : BitVec 8) (a : BitVec 8) (b : BitVec 8) (e : EPay) (s : State) : Host.Outcome State Fault Refusal :=
  vfp (.vmulBu d a b e) true d a b e (fun g v x y _ => fMul g v x y) s

/-- R136: Takes minimumNumber per lane. -/
def execVmin (d : BitVec 8) (a : BitVec 8) (b : BitVec 8) (e : EPay) (s : State) : Host.Outcome State Fault Refusal :=
  vfp (.vmin d a b e) false d a b e (fun g v x y _ => fMinMax false g v x y) s

/-- R136: VMIN with a uniform B. -/
def execVminBu (d : BitVec 8) (a : BitVec 8) (b : BitVec 8) (e : EPay) (s : State) : Host.Outcome State Fault Refusal :=
  vfp (.vminBu d a b e) true d a b e (fun g v x y _ => fMinMax false g v x y) s

/-- R136: Takes maximumNumber per lane. -/
def execVmax (d : BitVec 8) (a : BitVec 8) (b : BitVec 8) (e : EPay) (s : State) : Host.Outcome State Fault Refusal :=
  vfp (.vmax d a b e) false d a b e (fun g v x y _ => fMinMax true g v x y) s

/-- R136: VMAX with a uniform B. -/
def execVmaxBu (d : BitVec 8) (a : BitVec 8) (b : BitVec 8) (e : EPay) (s : State) : Host.Outcome State Fault Refusal :=
  vfp (.vmaxBu d a b e) true d a b e (fun g v x y _ => fMinMax true g v x y) s

/-- R136: Computes the fused multiply-add A × B + D per lane. -/
def execVfma (d : BitVec 8) (a : BitVec 8) (b : BitVec 8) (e : EPay) (s : State) : Host.Outcome State Fault Refusal :=
  vfp (.vfma d a b e) false d a b e (fun g v x y z => fFma g v x y z) s

/-- R136: VFMA with a uniform B. -/
def execVfmaBu (d : BitVec 8) (a : BitVec 8) (b : BitVec 8) (e : EPay) (s : State) : Host.Outcome State Fault Refusal :=
  vfp (.vfmaBu d a b e) true d a b e (fun g v x y z => fFma g v x y z) s

/-- R137: A floating-point compare that writes a predicate per lane. -/
def execVfcmp (k : BitVec 5) (p : BitVec 3) (a : BitVec 8) (b : BitVec 8) (e : EPay) (s : State) : Host.Outcome State Fault Refusal :=
  vfcompare (.vfcmp k p a b e) false k p a b e s

/-- R138: A packed two-element dot product accumulated into f32 with one rounding. -/
def execVdot2 (d : BitVec 8) (a : BitVec 8) (b : BitVec 8) (e : EPay) (s : State) : Host.Outcome State Fault Refusal :=
  vdot (.vdot2 d a b e) false d a b e s

/-- R139: Integer add modulo 2^w. -/
def execViadd (d : BitVec 8) (a : BitVec 8) (b : BitVec 8) (e : EPay) (s : State) : Host.Outcome State Fault Refusal :=
  vint (.viadd d a b e) false d a b e (fun _ x y => x + y) s

/-- R139: Integer subtract modulo 2^w. -/
def execVisub (d : BitVec 8) (a : BitVec 8) (b : BitVec 8) (e : EPay) (s : State) : Host.Outcome State Fault Refusal :=
  vint (.visub d a b e) false d a b e (fun w x y => x + (2 ^ w - y)) s

/-- R139: Low w bits of the integer product. -/
def execVimul (d : BitVec 8) (a : BitVec 8) (b : BitVec 8) (e : EPay) (s : State) : Host.Outcome State Fault Refusal :=
  vint (.vimul d a b e) false d a b e (fun _ x y => x * y) s

/-- R146: Moves values among the lane positions of a furrow. -/
def execVshuf (d : BitVec 8) (a : BitVec 8) (b : BitVec 8) (e : EPay) (s : State) : Host.Outcome State Fault Refusal :=
  vshuffle (.vshuf d a b e) false d a b e s

/-- R137: VFCMP with a uniform B. -/
def execVfcmpBu (k : BitVec 5) (p : BitVec 3) (a : BitVec 8) (b : BitVec 8) (e : EPay) (s : State) : Host.Outcome State Fault Refusal :=
  vfcompare (.vfcmpBu k p a b e) true k p a b e s

/-- R138: VDOT2 with a uniform B. -/
def execVdot2Bu (d : BitVec 8) (a : BitVec 8) (b : BitVec 8) (e : EPay) (s : State) : Host.Outcome State Fault Refusal :=
  vdot (.vdot2Bu d a b e) true d a b e s

/-- R139: VIADD with a uniform B. -/
def execViaddBu (d : BitVec 8) (a : BitVec 8) (b : BitVec 8) (e : EPay) (s : State) : Host.Outcome State Fault Refusal :=
  vint (.viaddBu d a b e) true d a b e (fun _ x y => x + y) s

/-- R139: VISUB with a uniform B. -/
def execVisubBu (d : BitVec 8) (a : BitVec 8) (b : BitVec 8) (e : EPay) (s : State) : Host.Outcome State Fault Refusal :=
  vint (.visubBu d a b e) true d a b e (fun w x y => x + (2 ^ w - y)) s

/-- R139: VIMUL with a uniform B. -/
def execVimulBu (d : BitVec 8) (a : BitVec 8) (b : BitVec 8) (e : EPay) (s : State) : Host.Outcome State Fault Refusal :=
  vint (.vimulBu d a b e) true d a b e (fun _ x y => x * y) s

/-- R146: VSHUF with a uniform index. -/
def execVshufBu (d : BitVec 8) (a : BitVec 8) (b : BitVec 8) (e : EPay) (s : State) : Host.Outcome State Fault Refusal :=
  vshuffle (.vshufBu d a b e) true d a b e s

/-- R140: Bitwise AND. -/
def execVialuAnd (d : BitVec 8) (a : BitVec 8) (u : BitVec 1) (e : EPay) (s : State) : Host.Outcome State Fault Refusal :=
  vialu (.vialuAnd d a u e) d a u e (fun _ x y _ => x &&& y) s

/-- R140: Bitwise OR. -/
def execVialuOr (d : BitVec 8) (a : BitVec 8) (u : BitVec 1) (e : EPay) (s : State) : Host.Outcome State Fault Refusal :=
  vialu (.vialuOr d a u e) d a u e (fun _ x y _ => x ||| y) s

/-- R140: Bitwise XOR. -/
def execVialuXor (d : BitVec 8) (a : BitVec 8) (u : BitVec 1) (e : EPay) (s : State) : Host.Outcome State Fault Refusal :=
  vialu (.vialuXor d a u e) d a u e (fun _ x y _ => x ^^^ y) s

/-- R140: first AND NOT second. -/
def execVialuAndn (d : BitVec 8) (a : BitVec 8) (u : BitVec 1) (e : EPay) (s : State) : Host.Outcome State Fault Refusal :=
  vialu (.vialuAndn d a u e) d a u e (fun w x y _ => x &&& (2 ^ w - 1 - y)) s

/-- R140: Shift left. -/
def execVialuShl (d : BitVec 8) (a : BitVec 8) (u : BitVec 1) (e : EPay) (s : State) : Host.Outcome State Fault Refusal :=
  vialu (.vialuShl d a u e) d a u e (fun w x y _ => x * 2 ^ (y % w)) s

/-- R140: Logical shift right. -/
def execVialuShr (d : BitVec 8) (a : BitVec 8) (u : BitVec 1) (e : EPay) (s : State) : Host.Outcome State Fault Refusal :=
  vialu (.vialuShr d a u e) d a u e (fun w x y _ => x / 2 ^ (y % w)) s

/-- R140: Arithmetic shift right. -/
def execVialuSar (d : BitVec 8) (a : BitVec 8) (u : BitVec 1) (e : EPay) (s : State) : Host.Outcome State Fault Refusal :=
  vialu (.vialuSar d a u e) d a u e (fun w x y _ => sarU w x (y % w)) s

/-- R140: Signed minimum. -/
def execVialuMins (d : BitVec 8) (a : BitVec 8) (u : BitVec 1) (e : EPay) (s : State) : Host.Outcome State Fault Refusal :=
  vialu (.vialuMins d a u e) d a u e (fun w x y _ => minS w x y) s

/-- R140: Signed maximum. -/
def execVialuMaxs (d : BitVec 8) (a : BitVec 8) (u : BitVec 1) (e : EPay) (s : State) : Host.Outcome State Fault Refusal :=
  vialu (.vialuMaxs d a u e) d a u e (fun w x y _ => maxS w x y) s

/-- R140: Unsigned minimum. -/
def execVialuMinu (d : BitVec 8) (a : BitVec 8) (u : BitVec 1) (e : EPay) (s : State) : Host.Outcome State Fault Refusal :=
  vialu (.vialuMinu d a u e) d a u e (fun _ x y _ => min x y) s

/-- R140: Unsigned maximum. -/
def execVialuMaxu (d : BitVec 8) (a : BitVec 8) (u : BitVec 1) (e : EPay) (s : State) : Host.Outcome State Fault Refusal :=
  vialu (.vialuMaxu d a u e) d a u e (fun _ x y _ => max x y) s

/-- R140: High half of the signed product. -/
def execVialuMulhs (d : BitVec 8) (a : BitVec 8) (u : BitVec 1) (e : EPay) (s : State) : Host.Outcome State Fault Refusal :=
  vialu (.vialuMulhs d a u e) d a u e (fun w x y _ => mulhS w x y) s

/-- R140: High half of the unsigned product. -/
def execVialuMulhu (d : BitVec 8) (a : BitVec 8) (u : BitVec 1) (e : EPay) (s : State) : Host.Outcome State Fault Refusal :=
  vialu (.vialuMulhu d a u e) d a u e (fun w x y _ => mulhU w x y) s

/-- R140: Signed truncating division; interlocked. -/
def execVialuDivs (d : BitVec 8) (a : BitVec 8) (u : BitVec 1) (e : EPay) (s : State) : Host.Outcome State Fault Refusal :=
  vialu (.vialuDivs d a u e) d a u e (fun w x y _ => divS w x y) s

/-- R140: Unsigned division; interlocked. -/
def execVialuDivu (d : BitVec 8) (a : BitVec 8) (u : BitVec 1) (e : EPay) (s : State) : Host.Outcome State Fault Refusal :=
  vialu (.vialuDivu d a u e) d a u e (fun w x y _ => divU w x y) s

/-- R140: Signed remainder; interlocked. -/
def execVialuRems (d : BitVec 8) (a : BitVec 8) (u : BitVec 1) (e : EPay) (s : State) : Host.Outcome State Fault Refusal :=
  vialu (.vialuRems d a u e) d a u e (fun w x y _ => remS w x y) s

/-- R140: Unsigned remainder; interlocked. -/
def execVialuRemu (d : BitVec 8) (a : BitVec 8) (u : BitVec 1) (e : EPay) (s : State) : Host.Outcome State Fault Refusal :=
  vialu (.vialuRemu d a u e) d a u e (fun w x y _ => remU w x y) s

/-- R142: Extracts a bit field. -/
def execVialuBfe (d : BitVec 8) (a : BitVec 8) (u : BitVec 1) (e : EPay) (s : State) : Host.Outcome State Fault Refusal :=
  vialu (.vialuBfe d a u e) d a u e (fun w x y _ => bfe w x y) s

/-- R142: Inserts a bit field into D. -/
def execVialuBfi (d : BitVec 8) (a : BitVec 8) (u : BitVec 1) (e : EPay) (s : State) : Host.Outcome State Fault Refusal :=
  vialu (.vialuBfi d a u e) d a u e (fun w x y old => bfi w x y old) s

/-- R141: An integer compare into a predicate; it requires an E word. -/
def execVialuCmp (p : BitVec 3) (a : BitVec 8) (u : BitVec 1) (k : BitVec 4) (e : EPay) (s : State) : Host.Outcome State Fault Refusal :=
  let f := form (.vialuCmp p a u k e)
  let n := eRegs e
  issue f noCheck (vecExec f e fun t l =>
    [(.p l p.toNat, if icond (32 * n) k.toNat (t.rdV a.toNat n l) (rdB t (u == 1) (eXop e) n l) then 1 else 0)]) s

/-- R143: Moves, or broadcasts a uniform. -/
def execViunMov (d : BitVec 8) (a : BitVec 8) (u : BitVec 1) (e : EPay) (s : State) : Host.Outcome State Fault Refusal :=
  viun (.viunMov d a u e) d a u e (fun _ x => x) s

/-- R143: Bitwise NOT. -/
def execViunNot (d : BitVec 8) (a : BitVec 8) (u : BitVec 1) (e : EPay) (s : State) : Host.Outcome State Fault Refusal :=
  viun (.viunNot d a u e) d a u e (fun w x => 2 ^ w - 1 - x) s

/-- R143: Integer negate. -/
def execViunNeg (d : BitVec 8) (a : BitVec 8) (u : BitVec 1) (e : EPay) (s : State) : Host.Outcome State Fault Refusal :=
  viun (.viunNeg d a u e) d a u e (fun w x => 2 ^ w - x) s

/-- R143: Integer absolute value. -/
def execViunAbs (d : BitVec 8) (a : BitVec 8) (u : BitVec 1) (e : EPay) (s : State) : Host.Outcome State Fault Refusal :=
  viun (.viunAbs d a u e) d a u e (fun w x => absU w x) s

/-- R143: Population count. -/
def execViunPopc (d : BitVec 8) (a : BitVec 8) (u : BitVec 1) (e : EPay) (s : State) : Host.Outcome State Fault Refusal :=
  viun (.viunPopc d a u e) d a u e (fun w x => popc x w) s

/-- R143: Count of leading zeros. -/
def execViunClz (d : BitVec 8) (a : BitVec 8) (u : BitVec 1) (e : EPay) (s : State) : Host.Outcome State Fault Refusal :=
  viun (.viunClz d a u e) d a u e (fun w x => clz x w) s

/-- R143: Bit reverse. -/
def execViunBrev (d : BitVec 8) (a : BitVec 8) (u : BitVec 1) (e : EPay) (s : State) : Host.Outcome State Fault Refusal :=
  viun (.viunBrev d a u e) d a u e (fun w x => brev x w) s

/-- R144: Correctly rounded reciprocal. -/
def execVfunRcp (d : BitVec 8) (a : BitVec 8) (t : BitVec 2) (e : EPay) (s : State) : Host.Outcome State Fault Refusal :=
  vfun (.vfunRcp d a t e) d a t e (fun g v x => fFun 0 g v x) s

/-- R144: Correctly rounded reciprocal square root. -/
def execVfunRsqrt (d : BitVec 8) (a : BitVec 8) (t : BitVec 2) (e : EPay) (s : State) : Host.Outcome State Fault Refusal :=
  vfun (.vfunRsqrt d a t e) d a t e (fun g v x => fFun 1 g v x) s

/-- R144: Correctly rounded square root. -/
def execVfunSqrt (d : BitVec 8) (a : BitVec 8) (t : BitVec 2) (e : EPay) (s : State) : Host.Outcome State Fault Refusal :=
  vfun (.vfunSqrt d a t e) d a t e (fun g v x => fFun 2 g v x) s

/-- R144: Correctly rounded 2^x. -/
def execVfunExp2 (d : BitVec 8) (a : BitVec 8) (t : BitVec 2) (e : EPay) (s : State) : Host.Outcome State Fault Refusal :=
  vfun (.vfunExp2 d a t e) d a t e (fun g v x => fFun 3 g v x) s

/-- R144: Correctly rounded log2. -/
def execVfunLog2 (d : BitVec 8) (a : BitVec 8) (t : BitVec 2) (e : EPay) (s : State) : Host.Outcome State Fault Refusal :=
  vfun (.vfunLog2 d a t e) d a t e (fun g v x => fFun 4 g v x) s

/-- R144: Clears the sign bit. -/
def execVfunAbs (d : BitVec 8) (a : BitVec 8) (t : BitVec 2) (e : EPay) (s : State) : Host.Outcome State Fault Refusal :=
  vfun (.vfunAbs d a t e) d a t e (fun g _ x => fBit 5 g x) s

/-- R144: Flips the sign bit. -/
def execVfunNeg (d : BitVec 8) (a : BitVec 8) (t : BitVec 2) (e : EPay) (s : State) : Host.Outcome State Fault Refusal :=
  vfun (.vfunNeg d a t e) d a t e (fun g _ x => fBit 6 g x) s

/-- R144: Copies the bit pattern. -/
def execVfunMov (d : BitVec 8) (a : BitVec 8) (t : BitVec 2) (e : EPay) (s : State) : Host.Outcome State Fault Refusal :=
  vfun (.vfunMov d a t e) d a t e (fun g _ x => fBit 7 g x) s

/-- R145: Converts between the number format codes. -/
def execVcvt (d : BitVec 8) (a : BitVec 8) (y : BitVec 4) (x : BitVec 4) (e : EPay) (s : State) : Host.Outcome State Fault Refusal :=
  let f := form (.vcvt d a y x e)
  let v := s.ct.env
  issue f noCheck (vecExec f e fun t l =>
    vecResF .V1 d.toNat (cvtRegs y.toNat) l (cvt v y.toNat x.toNat (t.rdV a.toNat (cvtRegs x.toNat) l))) s

/-- R147: Fixed-tree integer sum into a uniform register. -/
def execVredAdd (d : BitVec 8) (a : BitVec 8) (e : EPay) (s : State) : Host.Outcome State Fault Refusal :=
  vreduce (.vredAdd d a e) d a e (fun _ w x y => ((x + y) % 2 ^ w, 0)) (fun _ => 0) {} s

/-- R147: Signed minimum reduction. -/
def execVredMins (d : BitVec 8) (a : BitVec 8) (e : EPay) (s : State) : Host.Outcome State Fault Refusal :=
  vreduce (.vredMins d a e) d a e (fun _ w x y => (minS w x y, 0)) (fun w => 2 ^ (w - 1) - 1) {} s

/-- R147: Signed maximum reduction. -/
def execVredMaxs (d : BitVec 8) (a : BitVec 8) (e : EPay) (s : State) : Host.Outcome State Fault Refusal :=
  vreduce (.vredMaxs d a e) d a e (fun _ w x y => (maxS w x y, 0)) (fun w => 2 ^ (w - 1)) {} s

/-- R147: Unsigned minimum reduction. -/
def execVredMinu (d : BitVec 8) (a : BitVec 8) (e : EPay) (s : State) : Host.Outcome State Fault Refusal :=
  vreduce (.vredMinu d a e) d a e (fun _ _ x y => (min x y, 0)) (fun w => 2 ^ w - 1) {} s

/-- R147: Unsigned maximum reduction. -/
def execVredMaxu (d : BitVec 8) (a : BitVec 8) (e : EPay) (s : State) : Host.Outcome State Fault Refusal :=
  vreduce (.vredMaxu d a e) d a e (fun _ _ x y => (max x y, 0)) (fun _ => 0) {} s

/-- R147: AND reduction. -/
def execVredAnd (d : BitVec 8) (a : BitVec 8) (e : EPay) (s : State) : Host.Outcome State Fault Refusal :=
  vreduce (.vredAnd d a e) d a e (fun _ _ x y => (x &&& y, 0)) (fun w => 2 ^ w - 1) {} s

/-- R147: OR reduction. -/
def execVredOr (d : BitVec 8) (a : BitVec 8) (e : EPay) (s : State) : Host.Outcome State Fault Refusal :=
  vreduce (.vredOr d a e) d a e (fun _ _ x y => (x ||| y, 0)) (fun _ => 0) {} s

/-- R147: XOR reduction. -/
def execVredXor (d : BitVec 8) (a : BitVec 8) (e : EPay) (s : State) : Host.Outcome State Fault Refusal :=
  vreduce (.vredXor d a e) d a e (fun _ _ x y => (x ^^^ y, 0)) (fun _ => 0) {} s

/-- R147: Fixed-tree f32 sum. -/
def execVredFaddF32 (d : BitVec 8) (a : BitVec 8) (e : EPay) (s : State) : Host.Outcome State Fault Refusal :=
  vreduce (.vredFaddF32 d a e) d a e (fun v _ x y => fAdd .f32 v x y) (fun _ => 0) redSum s

/-- R147: f32 minimum reduction. -/
def execVredFminF32 (d : BitVec 8) (a : BitVec 8) (e : EPay) (s : State) : Host.Outcome State Fault Refusal :=
  vreduce (.vredFminF32 d a e) d a e (fun v _ x y => fMinMax false .f32 v x y) (fun _ => 0x7F800000) redMinMax s

/-- R147: f32 maximum reduction. -/
def execVredFmaxF32 (d : BitVec 8) (a : BitVec 8) (e : EPay) (s : State) : Host.Outcome State Fault Refusal :=
  vreduce (.vredFmaxF32 d a e) d a e (fun v _ x y => fMinMax true .f32 v x y) (fun _ => 0xFF800000) redMinMax s

/-- R148: Reads the 32-bit register that each lane indexes. -/
def execVrdiB32 (d : BitVec 8) (a : BitVec 8) (e : EPay) (s : State) : Host.Outcome State Fault Refusal :=
  vrdi (.vrdiB32 d a e) d a 1 e s

/-- R148: Writes the 32-bit register that each lane indexes. -/
def execVwriB32 (d : BitVec 8) (a : BitVec 8) (e : EPay) (s : State) : Host.Outcome State Fault Refusal :=
  vwri (.vwriB32 d a e) d a 1 e s

/-- R148: Reads the 64-bit pair that each lane indexes. -/
def execVrdiB64 (d : BitVec 8) (a : BitVec 8) (e : EPay) (s : State) : Host.Outcome State Fault Refusal :=
  vrdi (.vrdiB64 d a e) d a 2 e s

/-- R148: Writes the 64-bit pair that each lane indexes. -/
def execVwriB64 (d : BitVec 8) (a : BitVec 8) (e : EPay) (s : State) : Host.Outcome State Fault Refusal :=
  vwri (.vwriB64 d a e) d a 2 e s

end Sys2Proof.Machine
end

