-- ==== Sys2Proof/Machine/Loam.lean ====
section
/-! DEFINITION. The loam level (R287 to R311): loam plots, their accesses, stops, pre-emption, and its instruction set. -/
namespace Sys2Proof.Machine

/-! ## Loam plots (R291, R292) -/

def State.loam (s : State) (lk : Nat) : Loam := Tbl.getD s.loams lk {}
def State.modLoam (s : State) (lk : Nat) (f : Loam → Loam) : State := { s with loams := Tbl.set s.loams lk (f (s.loam lk)) }
def State.lplot (s : State) (pid : Nat) : LPlot := Tbl.getD s.lplots pid { sow := 0, lk := 0, cls := 0, lanes := 1, lmem := 0 }
def State.modLPlot (s : State) (pid : Nat) (f : LPlot → LPlot) : State := { s with lplots := Tbl.set s.lplots pid (f (s.lplot pid)) }

def LPlot.rdW (p : LPlot) (n j : Nat) : Nat := (Tbl.getD p.w (32 * n + j) 0).toNat
def LPlot.rdX (p : LPlot) (n : Nat) : Nat := if n = 0 then 0 else (Tbl.getD p.x n 0).toNat
def LPlot.rdK (p : LPlot) (n : Nat) : Nat := (Tbl.getD p.k n 0).toNat
def LPlot.putW (p : LPlot) (n j v : Nat) : LPlot := { p with w := Tbl.put p.w (32 * n + j) (BitVec.ofNat 32 v) 0 }
def LPlot.putX (p : LPlot) (n v : Nat) : LPlot := if n = 0 then p else { p with x := Tbl.put p.x n (BitVec.ofNat 64 v) 0 }
def LPlot.putK (p : LPlot) (n v : Nat) : LPlot := { p with k := Tbl.put p.k n (BitVec.ofNat 32 v) 0 }

/-- LSTAT from its fields (R292). -/
def lstatOf (st kind cause core : Nat) : Word := BitVec.ofNat 32 (st * 2 ^ 30 + kind * 2 ^ 16 + cause * 2 ^ 8 + core)
def LPlot.setStat (p : LPlot) (st kind cause : Nat) : LPlot := { p with lstat := lstatOf st kind cause (p.lk % 12) }

/-! ## The save area (R296, R297) -/

/-- The context record of a plot, in words of 8 bytes (R297). -/
def LPlot.record (p : LPlot) (pid : Nat) : List Nat :=
  let w (i : Nat) := (Tbl.getD p.w i 0).toNat
  (List.range 512).map (fun i => w (2 * i) + 2 ^ 32 * w (2 * i + 1)) ++ (List.range 16).map p.rdX
    ++ [p.rdK 0 + 2 ^ 32 * p.rdK 1, p.rdK 2 + 2 ^ 32 * p.rdK 3, p.pc % 2 ^ 16, p.lstat.toNat + 2 ^ 32 * p.sow,
      pid % 2 ^ 32 + 2 ^ 32 * (p.cls * 2 ^ 12 + p.lmem / 256)] ++ List.replicate 11 0

def saveContext (s : State) (pid : Nat) : State :=
  let p := s.lplot pid
  ctlWrites s ((s.dom (p.lk / 12)).lctx.toNat + 4352 * (p.lk % 12)) (p.record pid)

/-- Buffer bytes 0 to n - 1 written to the core's buffer save area. -/
def spillBuffer (s : State) (pid n : Nat) : State :=
  let p := s.lplot pid
  ctlWrites s ((s.dom (p.lk / 12)).lctx.toNat + 52224 + 262144 * (p.lk % 12)) ((List.range (n / 8)).map fun i => Mem.read p.buf (8 * i) 8)

/-! ## Stops and retirement (R295, R298) -/

/-- A loam plot leaves its queue and its core; it stays while a store of it is on its way. -/
def loamLeave (s : State) (pid : Nat) : State :=
  let p := s.lplot pid
  let s := s.modLoam p.lk fun l => { l with queue := l.queue.filter (· != pid), run := if l.run = some pid then none else l.run }
  if p.out.isEmpty then { s with lplots := Tbl.erase s.lplots pid } else s.modLPlot pid fun p => { p with bound := false }

/-- Accesses of a loam plot that wait on a moving page are dropped, with their merges. -/
def loamDrop (s : State) (pid : Nat) : State :=
  let held := (s.lplot pid).out.filter (·.tok != 0)
  let s := s.modLPlot pid fun p => { p with out := p.out.filter fun a => a.tok == 0 && !a.held && (a.kind == 1 || a.kind == 3) }
  held.foldl (fun s a => withdraw s (a.tok / 2 ^ 32) (a.tok % 2 ^ 32) 0) s

/-- One plot stops with a cause: LSTAT, its context record, and its queue entry. -/
def loamStopOne (s : State) (pid cause kind : Nat) : State :=
  let s := s.modLPlot pid fun p => p.setStat 2 kind cause
  let s := if (s.lplot pid).bound then saveContext s pid else s
  loamLeave (loamDrop s pid) pid

/-- A loam sowing stops because of one of its plots (R295). A restartable one that containment stops has its plots bound
again, unless the plot found its core fenced when it was to be bound. `site` is the domain and number of the fenced resource, where they are
not the loam core's (R363). -/
def loamStop (s : State) (pid cause kind page : Nat) (again : Bool) (site : Option (Nat × Nat) := none) : State :=
  let p := s.lplot pid
  let sid := p.sow
  let s := loamStopOne s pid cause kind
  let others := (s.lplots.filter fun q => q.2.sow == sid && q.1 != pid).map (·.1)
  let others := others.filter fun o => (s.loam (s.lplot o).lk).queue.contains o
  let s := others.foldl (fun s o => loamStopOne s o 0 0) s
  if again && nb ((s.sow sid).words.getD 4 0).toNat 0 1 == 1 then
    let s := s.modSow sid fun w => { w with started := false, headAt := none, redo := w.redo ++ sortBy (fun a b => decide (a ≤ b)) ((pid :: others).map (· % 2 ^ 32)) }
    requeue s sid (s.sow sid).cls
  else
    let at_ := site.getD (p.lk / 12, p.lk % 12)
    endSow s sid page at_.1 at_.2

/-- The plot that is run on a loam core retires (R298). -/
def loamRetire (s : State) (pid : Nat) : State :=
  let sid := (s.lplot pid).sow
  let s := s.modLPlot pid fun p => p.setStat 3 0 0
  (loamLeave s pid).modSow sid fun w => { w with retired := w.retired + 1 }

/-! ## Issue (R298, R301) -/

/-- A register of a loam plot. -/
inductive LReg where
  | w (n : Nat)
  | x (n : Nat)
deriving DecidableEq, Repr

/-- Whether an access on its way is to write a register. -/
def LAcc.owes (a : LAcc) (r : LReg) : Bool :=
  match r with
  | .w n => a.kind == 0 && a.reg == n
  | .x n => a.kind == 2 && a.reg == n && n != 0

/-- The plot that runs on the loam core of the issue. -/
def State.lrun (s : State) : Nat := (s.loam s.cur.lk).run.getD 0

/-- Past one instruction. -/
def LPlot.next (p : LPlot) : LPlot := { p with pc := (p.pc + 4) % 2 ^ 16 }

/-- Whether a plot that runs issues nothing: an access of it waits on a moving page (R295), or it is to give way to a class-0 plot that is queued
on its core (R296). -/
def loamHolds (s : State) (pid : Nat) : Bool :=
  let p := s.lplot pid
  (p.out.any fun a => a.tok != 0) || (p.cls != 0 && (s.loam p.lk).queue.any fun o => (s.lplot o).cls == 0)

/-- One loam instruction: a plot that issues nothing is held; an illegal field stops it; a register still to be written holds it; then its
effect. -/
def linst (ill : Bool) (rs : List LReg) (f : State → Nat → LPlot → State) (s : State) : Host.Outcome State Fault Refusal :=
  let pid := s.lrun
  let p := s.lplot pid
  .next (if loamHolds s pid then s
    else if ill then loamStop s pid 1 0 0 false
    else if p.out.any fun a => rs.any a.owes then s
    else f s pid p)

/-- An instruction that changes only its plot. -/
def lreg (ill : Bool) (rs : List LReg) (f : LPlot → LPlot) (s : State) : Host.Outcome State Fault Refusal :=
  linst ill rs (fun s pid p => s.modLPlot pid fun _ => (f p).next) s

/-- Whether a field that names an x register, or a k register, is illegal (R299). -/
def xBad (n : BitVec 5) : Bool := decide (16 ≤ n.toNat)
def kBad (n : BitVec 5) : Bool := decide (4 ≤ n.toNat)

/-! ## Vector (R302 to R306) -/

/-- An operation of type T on one lane. -/
def loamLane (op : Nat) (t a b d : Nat) : Nat :=
  let fl (f : Fmt) (x y z : Nat) : FR := match op with
    | 0 => fAdd f .plain x y
    | 1 => fSub f .plain x y
    | 2 => fMul f .plain x y
    | 3 => fFma f .plain x y z
    | 4 => fMinMax false f .plain x y
    | _ => fMinMax true f .plain x y
  match t with
  | 0 => (fl .f32 a b d).1
  | 1 => (packed2 (fl .bf16) a b d).1
  | _ => match op with
    | 0 => (a + b) % 2 ^ 32
    | 1 => (a + (2 ^ 32 - b)) % 2 ^ 32
    | 2 => a * b % 2 ^ 32
    | 3 => (a * b + d) % 2 ^ 32
    | 4 => minS 32 a b
    | _ => maxS 32 a b

/-- The second operand in a lane: a w register, or the low half of an x register for every lane. -/
def LPlot.second (p : LPlot) (b : BitVec 5) (x : BitVec 1) (j : Nat) : Nat := if x = 1 then p.rdX b.toNat % 2 ^ 32 else p.rdW b.toNat j
def secondReg (b : BitVec 5) (x : BitVec 1) : LReg := if x = 1 then .x b.toNat else .w b.toNat

/-- Values written to the masked lanes of a w register. -/
def LPlot.lanesW (p : LPlot) (d k : Nat) (f : Nat → Nat) : LPlot :=
  (List.range 32).foldl (fun q j => if (p.rdK k).testBit j then q.putW d j (f j) else q) p

def loamVec (op : Nat) (d a b : BitVec 5) (k : BitVec 2) (t : BitVec 3) (x : BitVec 1) (s : State) : Host.Outcome State Fault Refusal :=
  lreg (decide (3 ≤ t.toNat) || (x == 1 && xBad b)) [.w a.toNat, secondReg b x, .w d.toNat]
    (fun p => p.lanesW d.toNat k.toNat fun j => loamLane op t.toNat (p.rdW a.toNat j) (p.second b x j) (p.rdW d.toNat j)) s

/-- VCVT (R303): codes 0 f32, 1 bf16, 2 i32. -/
def loamCvt (t c v : Nat) : Nat :=
  let f (c : Nat) := if c = 1 then 3 else 0
  if c = 2 then (cvtIF .plain (f t) 6 v).1
  else
    let x := if c = 1 then v % 2 ^ 16 else v
    if t = 2 then (cvtFI { Env.plain with sat := true } 6 (f c) x).1 else (cvtFF .plain (f t) (f c) x).1

/-- VRED (R304): one pass of the tree of R147 over the masked lanes; the identity for none. -/
def loamRed (op ident32 identF : Nat) (d a : BitVec 5) (k : BitVec 2) (t : BitVec 3) (s : State) : Host.Outcome State Fault Refusal :=
  lreg ((t != 0 && t != 2) || xBad d) [.w a.toNat, .x d.toNat] (fun p =>
    let xs := (List.range 32).map fun j => if (p.rdK k.toNat).testBit j then some (p.rdW a.toNat j) else none
    let r := (reduceParts (fun x y => (loamLane op t.toNat x y 0, 0)) (if t = 2 then ident32 else identF) [xs]).1
    p.putX d.toNat (if t = 2 then ux 64 (sx 32 r) else r)) s

/-- The conditions of VCMP (R305). -/
def loamCond (t c a b : Nat) : Bool :=
  match t with
  | 0 => (fCmp .f32 .plain c a b).1
  | 1 => (fCmp .bf16 .plain c (a % 2 ^ 16) (b % 2 ^ 16)).1
  | _ =>
    let x := sx 32 a
    let y := sx 32 b
    match c with
    | 0 => x == y
    | 1 => x != y
    | 2 => decide (x < y)
    | 3 => decide (x ≤ y)
    | 4 => decide (y < x)
    | _ => decide (y ≤ x)

def loamK3 (f : Nat → Nat → Nat) (d a b : BitVec 5) (s : State) : Host.Outcome State Fault Refusal :=
  lreg (kBad d || kBad a || kBad b) [] (fun p => p.putK d.toNat (f (p.rdK a.toNat) (p.rdK b.toNat))) s

/-! ## Scalar (R307) -/

def loamSalu (f : Nat → Nat → Nat) (d a b : BitVec 5) (s : State) : Host.Outcome State Fault Refusal :=
  lreg (xBad d || xBad a || xBad b) [.x a.toNat, .x b.toNat, .x d.toNat]
    (fun p => p.putX d.toNat (f (p.rdX a.toNat) (p.rdX b.toNat) % 2 ^ 64)) s

/-! ## Memory and buffer (R293, R294, R308, R309) -/

/-- The stop that the checks of one address make before any lane performs: its cause, 0 if none (R293, R295). -/
def loamCheck (s : State) (lk sid z va : Nat) : List Nat × Nat :=
  let dom := lk / 12
  let misalign := if va % z != 0 then [3] else []
  if 2 ^ 57 ≤ va then (misalign ++ [4], 0)
  else match (firstRange (s.sow sid).rangeList va).bind (·.ia va) with
    | none => (misalign ++ [4], 0)
    | some ia =>
      let ia := guestIa s dom ia
      let home := iaHome ia
      (misalign
        ++ (if !nodeIn s dom (iaNode ia) || (iaNode ia == 0 && (decide (72 ≤ home) || decide (reservedBase ≤ iaOff ia))) then [4] else [])
        ++ (if iaNode ia != 0 || home != dom then [5] else [])
        ++ (if inFleet s ia then [8] else []), ia)

/-- A memory instruction over addresses of lanes: the checks of every lane, lowest cause first, and then the access. -/
def loamMem (kind reg z : Nat) (ls : List (Nat × Nat × Nat)) (s : State) (pid : Nat) (p : LPlot) : State :=
  let cs := ls.map fun l => (l, loamCheck s p.lk p.sow z l.2.1)
  match (sortBy (fun a b => decide (a ≤ b)) (cs.flatMap (·.2.1))).head? with
  | some c => loamStop s pid c 0 0 false
  | none =>
    let a : LAcc := { kind := kind, reg := reg, n := z, lanes := cs.map fun c => (c.1.1, c.1.2.1, c.2.2, c.1.2.2) }
    s.modLPlot pid fun q => { q.next with out := if ls.isEmpty then q.out else q.out ++ [a] }

/-- A signed offset. -/
def sofs (w x scale : Nat) : Nat := ux 64 (sx w x * scale)

/-- The masked lanes with their addresses. -/
def LPlot.lanesAt (p : LPlot) (k : Nat) (addr data : Nat → Nat) : List (Nat × Nat × Nat) :=
  ((List.range 32).filter fun j => (p.rdK k).testBit j).map fun j => (j, addr j % 2 ^ 64, data j)

/-- BLD and BST: the buffer, in program order. -/
def loamBuf (st : Bool) (d a : BitVec 5) (k : BitVec 2) (i : BitVec 9) (s : State) : Host.Outcome State Fault Refusal :=
  linst (xBad a) [.x a.toNat, .w d.toNat] (fun s pid p =>
    let ls := p.lanesAt k.toNat (fun j => p.rdX a.toNat + sofs 9 i.toNat 128 + 4 * j) fun j => p.rdW d.toNat j
    if ls.any fun l => l.2.1 % 4 != 0 then loamStop s pid 3 0 0 false
    else if ls.any fun l => p.lmem ≤ l.2.1 then loamStop s pid 9 0 0 false
    else s.modLPlot pid fun q => (ls.foldl (fun q l =>
      if st then { q with buf := Mem.write q.buf l.2.1 l.2.2 4 } else q.putW d.toNat l.1 (Mem.read p.buf l.2.1 4)) q).next) s

/-- Whether every earlier access of the plot to bytes of a lane has performed (R298). -/
def loamOrder (earlier : List LAcc) (ia n : Nat) : Bool :=
  earlier.all fun b => b.lanes.all fun l => !(decide (l.2.2.1 < ia + n) && decide (ia < l.2.2.1 + b.n))

/-- The registers that a load's lanes have brought. -/
def LAcc.write (a : LAcc) (q : LPlot) : LPlot :=
  match a.kind with
  | 0 => a.got.foldl (fun (q : LPlot) (g : Nat × Nat) => q.putW a.reg g.1 g.2) q
  | 2 => a.got.foldl (fun (q : LPlot) (g : Nat × Nat) => q.putX a.reg g.2) q
  | _ => q

/-- A load's registers are written and it leaves; a store leaves (R298, R301). -/
def loamFinish (s : State) (pid b : Nat) : State :=
  let p := s.lplot pid
  match p.out[b]? with
  | none => s
  | some a =>
    if !a.lanes.isEmpty then s
    else
      let s := s.modLPlot pid fun q => { a.write q with out := q.out.eraseIdx b }
      -- a plot that has stopped or retired leaves with its last store
      if (s.loam p.lk).queue.contains pid || !(s.lplot pid).out.isEmpty then s else { s with lplots := Tbl.erase s.lplots pid }

/-- A lane of a loam access meets the walker and performs in its layer (R293, R295). A fault stops the plot once the loads before the access
have written their registers; the lanes already performed stay so, and those of a load are written. -/
def loamAccess (x : Input) (s : State) : State :=
  let pid := x.a
  match Tbl.find? s.lplots pid with
  | none => s
  | some p => match p.out[x.b]? with
    | none => s
    | some a => match a.lanes.find? fun l => l.1 == x.c with
      | none => s
      | some l =>
        let dom := p.lk / 12
        let ia := l.2.2.1
        let st := a.kind == 1 || a.kind == 3
        let setA (s : State) (a : LAcc) : State := s.modLPlot pid fun q => { q with out := q.out.set x.b a }
        let fail (s0 : State) (cause kind : Nat) : State :=
          if (p.out.take x.b).any fun b => b.kind == 0 || b.kind == 2 then s
          else loamStop (s0.modLPlot pid fun q => { a.write q with out := q.out.take x.b }) pid cause kind (ia / 2 ^ 16) false
        -- of two lanes of one store to one word the higher is written
        let shadowed := st && a.lanes.any fun m => decide (l.1 < m.1) && m.2.2.1 == ia
        if a.tok != 0 || a.held || !loamOrder (p.out.take x.b) ia a.n then s
        else match pageOf s dom ia x.flag with
          | (s, .fault 0) => match waitMerge s dom ia 0 (if st then tyWrite else tyRead) dom true [p.sow, 0, dom, p.lk % 12, 0, 0, if st then 1 else 0] with
            | (s, some tok) => setA s { a with tok := tok + 2 ^ 32 * dom }
            | (s, none) => s
          | (s, .fault k) => fail s 6 k
          | (s, .far _) => fail s 5 0
          | (s, .local_ _ key perm) =>
            if !(if st then permWrite perm else permRead perm) then fail s 7 5
            else
              let s := touchLayer s key
              let v := Mem.read s.dram key a.n
              let s := if st && !shadowed then { s with dram := Mem.write s.dram key l.2.2.2 a.n } else s
              loamFinish (setA s { a with lanes := a.lanes.filter fun m => m.1 != l.1, got := a.got ++ [(l.1, v)] }) pid x.b

/-! ## Control (R310, R311) -/

/-- A taken branch by a number of words; one that leaves the image stops the plot. -/
def loamJump (s : State) (pid : Nat) (p : LPlot) (words : Int) : State :=
  let t := (p.pc : Int) + 4 * words
  if t < 0 || (p.len : Int) ≤ t then loamStop s pid 2 0 0 false
  else s.modLPlot pid fun q => { q with pc := t.toNat }

/-- The conditions of BCC. -/
def bccCond (c x : Nat) : Bool :=
  let z := sx 64 x
  match c with
  | 0 => z == 0
  | 1 => z != 0
  | 2 => decide (z < 0)
  | 3 => decide (0 ≤ z)
  | 4 => decide (0 < z)
  | _ => decide (z ≤ 0)

/-! ## Binding, pre-emption, resume (R289, R290, R296) -/

/-- The entry of a queue that is to run: the lowest class, and of those the oldest. -/
def loamHead (s : State) (lk : Nat) : Option Nat :=
  let q := (s.loam lk).queue
  q.foldl (fun r pid => match r with
    | none => some pid
    | some m => if (s.lplot pid).cls < (s.lplot m).cls then some pid else r) none

/-- Whether every load of a plot has written its register, but for one that waits on a moving page (R296). -/
def LPlot.settled (p : LPlot) : Bool := p.out.all fun a => a.tok != 0 || a.kind == 1 || a.kind == 3

/-- A running plot is saved (R296): `spill` bytes of its buffer go to the save area, and an access that waits on a moving page is held. -/
def loamSave (s : State) (lk spill : Nat) : State :=
  match (s.loam lk).run with
  | none => s
  | some pid =>
    let s := s.modLPlot pid fun p => { p.setStat 1 0 0 with spill := spill, out := p.out.map fun a => if a.tok != 0 then { a with held := true } else a }
    let s := spillBuffer (saveContext s pid) pid spill
    s.modLoam lk fun l => { l with run := none }

/-- n bytes at an IA as a domain controller reads them; none where the page has no local frame. -/
def ctlRead (s : State) (ia n : Nat) : Option Nat := (keyOf s ia).map fun key => homePeek s (iaHome ia) key n

/-- A plot as its core's context record and buffer save area hold it. A record that is by now another plot's, or cannot be reached,
restores nothing: the plot is as it was saved (log entry 17). -/
def loamRestore (s : State) (pid : Nat) : State :=
  let p := s.lplot pid
  let base := (s.dom (p.lk / 12)).lctx.toNat + 4352 * (p.lk % 12)
  let area := (s.dom (p.lk / 12)).lctx.toNat + 52224 + 262144 * (p.lk % 12)
  let words := (List.range 544).map fun i => ctlRead s (base + 8 * i) 8
  let w (i : Nat) : Nat := (words.getD i none).getD 0
  if words.any (·.isNone) || w 531 / 2 ^ 32 != p.sow || w 532 % 2 ^ 32 != pid % 2 ^ 32 then s
  else
    let t32 (n : Nat) (f : Nat → Nat) : Tbl Word := (List.range n).filterMap fun i => if f i = 0 then none else some (i, BitVec.ofNat 32 (f i))
    let half (b i : Nat) : Nat := nb (w (b + i / 2)) (32 * (i % 2)) 32
    let s := readTouch s (p.lk / 12) true ((List.range 544).map (fun i => base + 8 * i) ++ (List.range (p.spill / 8)).map fun i => area + 8 * i)
    let buf := (List.range (p.spill / 8)).foldl (fun m i => match ctlRead s (area + 8 * i) 8 with
      | some v => Mem.write m (8 * i) v 8
      | none => m) p.buf
    s.modLPlot pid fun p => { p with
      w := t32 1024 (half 0), k := t32 4 (half 528), pc := nb (w 530) 0 16, buf := buf
      x := (List.range 16).filterMap fun i => if i = 0 || w (512 + i) = 0 then none else some (i, BitVec.ofNat 64 (w (512 + i))) }

/-- YIELD (R311): the plot becomes the youngest entry of its class. -/
def loamYield (s : State) (pid : Nat) (p : LPlot) : State :=
  let s := s.modLPlot pid fun q => q.next
  if (s.loam p.lk).queue.any fun o => o != pid && decide ((s.lplot o).cls ≤ p.cls) then
    (loamSave s p.lk 0).modLoam p.lk fun l => { l with queue := l.queue.filter (· != pid) ++ [pid] }
  else s

/-- The word that another node or a far frame gives at a VA (log entry 15), and a byte of it. -/
def outsideWord (s : State) (va : Nat) : Nat := Tbl.getD s.cur.arg.code (va / 4 * 4) 0
def outsideByte (s : State) (va : Nat) : Byte := BitVec.ofNat 8 (outsideWord s va / 2 ^ (8 * (va % 4)))

/-- The word at an aligned VA whose IA is given, as a controller reads it at its home, on another node or in a far frame; none where it
cannot be read. -/
def readWord (s : State) (va ia : Nat) : Option Nat :=
  if iaNode ia != 0 then some (outsideWord s va % 2 ^ 32)
  else if 72 ≤ iaHome ia || fleetBase ≤ iaOff ia then none
  else match (pageOf s (iaHome ia) ia true).2 with
    | .local_ _ key p => if permRead p then some (homePeek s (iaHome ia) key 4) else none
    | .far p => if permRead p then some (outsideWord s va % 2 ^ 32) else none
    | .fault _ => none

/-- The IA of a VA in a sowing's ranges, as a domain names homes. -/
def rangeIa (s : State) (rs : List Range) (dom va : Nat) : Option Nat :=
  if 2 ^ 57 ≤ va then none else ((firstRange rs va).bind (·.ia va)).map (guestIa s dom)

/-- n bytes of memory at a VA of a sowing as the controller reads them; none where they cannot be read. -/
def sowRead (s : State) (rs : List Range) (dom va : Nat) : Nat → Option (List Byte)
  | 0 => some []
  | n + 1 => match sowRead s rs dom va n with
    | none => none
    | some bs =>
      let a := va + n
      match (rangeIa s rs dom (a / 4 * 4)).bind (readWord s (a / 4 * 4)) with
      | some w => some (bs ++ [BitVec.ofNat 8 (w / 2 ^ (8 * (a % 4)))])
      | none => none

/-- The IAs of the words that hold n bytes of a sowing's memory. -/
def sowWords (s : State) (rs : List Range) (dom va n : Nat) : List Nat :=
  (List.range ((va % 4 + n + 3) / 4)).filterMap fun i => rangeIa s rs dom (va / 4 * 4 + 4 * i)

/-- The length word and the code image of a loam kernel; none where they cannot be read or break their limits (R290). -/
def loamImage (s : State) (rs : List Range) (dom entry : Nat) : Option (List Byte) :=
  match sowRead s rs dom (entry - 4) 4 with
  | none => none
  | some b =>
    let n := ofBytes b
    if n % 4 != 0 || n < 4 || 32768 < n then none else sowRead s rs dom entry n

/-- Whether n bytes of memory at a VA of a sowing can be read; a page is readable whole. -/
def sowReadable (s : State) (rs : List Range) (dom va n : Nat) : Bool :=
  n = 0 || (List.range ((va % 65536 + n + 65535) / 65536)).all fun i =>
    let a := if i = 0 then va else va / 65536 * 65536 + 65536 * i
    ((rangeIa s rs dom (a / 4 * 4)).bind (readWord s (a / 4 * 4))).isSome

/-- The VA and the length of the constant block that a loam core takes: at most 32,768 bytes (R290). -/
def constAt (hdr : List Word) : Nat := (hdr.getD 8 0).toNat + 2 ^ 32 * (hdr.getD 9 0).toNat
def loamConstLen (clen : Nat) : Nat := min clen 32768

/-- The plot at the head of a loam core's queue is bound, and a lower class running is pre-empted for class 0. -/
def loamBind (s : State) (lk : Nat) : State :=
  match loamHead s lk with
  | none => s
  | some pid =>
    let p := s.lplot pid
    let dom := lk / 12
    let go := match (s.loam lk).run with | none => true | some r => p.cls == 0 && (s.lplot r).cls != 0 && (s.lplot r).settled
    if p.bound || !go then s
    else if (s.dom dom).chF.getLsbD (lk % 12) then loamStop s pid 10 0 0 false
    else if (s.dom dom).lineMemF then loamStop s pid 10 0 0 false (some (dom, 0))
    else
      let s := match (s.loam lk).run with
        | some r => loamSave s lk (min (s.lplot r).lmem p.lmem)
        | none => s
      let w := s.sow p.sow
      let word (i : Nat) := (w.words.getD i 0).toNat
      match loamImage s w.rangeList dom (word 0 + 2 ^ 32 * word 1) with
      | none => loamStop s pid 6 1 0 false
      | some img =>
        let cs := (sowRead s w.rangeList dom (constAt w.hdr) (loamConstLen w.clen)).getD []
        let entry := word 0 + 2 ^ 32 * word 1
        let s := readTouch s dom false (sowWords s w.rangeList dom (entry - 4) (img.length + 4) ++ sowWords s w.rangeList dom (constAt w.hdr) cs.length)
        let s := s.modLPlot pid fun p => { p with
          len := img.length, code := Mem.write (Mem.write [] 0 (ofBytes img) img.length) 0x8000 (ofBytes cs) cs.length
          buf := [], w := [], x := [], k := (List.range 4).foldl (fun k n => Tbl.put k n (BitVec.ofNat 32 (2 ^ p.lanes - 1)) 0) []
          pc := 0, lstat := lstatOf 0 0 0 (lk % 12), bound := true }
        s.modLoam lk fun l => { l with run := some pid }

/-- A saved plot runs again on its core: it is restored, and repeats an access that waited (R296). -/
def loamResume (s : State) (lk : Nat) : State :=
  match (s.loam lk).run, loamHead s lk with
  | none, some pid =>
    if (s.lplot pid).bound then
      let s := loamRestore s pid
      (s.modLPlot pid fun p => { p.setStat 0 0 0 with
        spill := 0, out := p.out.map fun a => if a.held then { a with held := false, tok := 0 } else a }).modLoam lk fun l => { l with run := some pid }
    else s
  | _, _ => s


/-- R302: Loam masked vector add. -/
def execLoamVadd (d : BitVec 5) (a : BitVec 5) (b : BitVec 5) (k : BitVec 2) (t : BitVec 3) (x : BitVec 1) (s : State) : Host.Outcome State Fault Refusal :=
  loamVec 0 d a b k t x s

/-- R302: Loam masked vector subtract. -/
def execLoamVsub (d : BitVec 5) (a : BitVec 5) (b : BitVec 5) (k : BitVec 2) (t : BitVec 3) (x : BitVec 1) (s : State) : Host.Outcome State Fault Refusal :=
  loamVec 1 d a b k t x s

/-- R302: Loam masked vector multiply. -/
def execLoamVmul (d : BitVec 5) (a : BitVec 5) (b : BitVec 5) (k : BitVec 2) (t : BitVec 3) (x : BitVec 1) (s : State) : Host.Outcome State Fault Refusal :=
  loamVec 2 d a b k t x s

/-- R302: Loam fused multiply-add. -/
def execLoamVfma (d : BitVec 5) (a : BitVec 5) (b : BitVec 5) (k : BitVec 2) (t : BitVec 3) (x : BitVec 1) (s : State) : Host.Outcome State Fault Refusal :=
  loamVec 3 d a b k t x s

/-- R302: Loam vector minimum. -/
def execLoamVmin (d : BitVec 5) (a : BitVec 5) (b : BitVec 5) (k : BitVec 2) (t : BitVec 3) (x : BitVec 1) (s : State) : Host.Outcome State Fault Refusal :=
  loamVec 4 d a b k t x s

/-- R302: Loam vector maximum. -/
def execLoamVmax (d : BitVec 5) (a : BitVec 5) (b : BitVec 5) (k : BitVec 2) (t : BitVec 3) (x : BitVec 1) (s : State) : Host.Outcome State Fault Refusal :=
  loamVec 5 d a b k t x s

/-- R303: Loam conversion among f32, bf16 and i32. -/
def execLoamVcvt (d : BitVec 5) (a : BitVec 5) (k : BitVec 2) (t : BitVec 3) (c : BitVec 3) (s : State) : Host.Outcome State Fault Refusal :=
  lreg (decide (3 ≤ t.toNat) || decide (3 ≤ c.toNat) || t == c) [.w a.toNat, .w d.toNat]
    (fun p => p.lanesW d.toNat k.toNat fun j => loamCvt t.toNat c.toNat (p.rdW a.toNat j)) s

/-- R304: Loam tree sum into an x register. -/
def execLoamVredAdd (d : BitVec 5) (a : BitVec 5) (k : BitVec 2) (t : BitVec 3) (s : State) : Host.Outcome State Fault Refusal :=
  loamRed 0 0 0 d a k t s

/-- R304: Loam minimum reduction. -/
def execLoamVredMin (d : BitVec 5) (a : BitVec 5) (k : BitVec 2) (t : BitVec 3) (s : State) : Host.Outcome State Fault Refusal :=
  loamRed 4 0x7FFFFFFF 0x7F800000 d a k t s

/-- R304: Loam maximum reduction. -/
def execLoamVredMax (d : BitVec 5) (a : BitVec 5) (k : BitVec 2) (t : BitVec 3) (s : State) : Host.Outcome State Fault Refusal :=
  loamRed 5 0x80000000 0xFF800000 d a k t s

/-- R305: Loam compare into a k mask. -/
def execLoamVcmp (d : BitVec 5) (a : BitVec 5) (b : BitVec 5) (k : BitVec 2) (t : BitVec 3) (c : BitVec 3) (x : BitVec 1) (s : State) : Host.Outcome State Fault Refusal :=
  lreg (decide (3 ≤ t.toNat) || decide (6 ≤ c.toNat) || kBad d || (x == 1 && xBad b)) [.w a.toNat, secondReg b x] (fun p =>
    p.putK d.toNat ((List.range 32).foldl (fun m j =>
      if (p.rdK k.toNat).testBit j && loamCond t.toNat c.toNat (p.rdW a.toNat j) (p.second b x j) then m + 2 ^ j else m) 0)) s

/-- R305: Loam select by mask. -/
def execLoamVsel (d : BitVec 5) (a : BitVec 5) (b : BitVec 5) (k : BitVec 2) (x : BitVec 1) (s : State) : Host.Outcome State Fault Refusal :=
  lreg (x == 1 && xBad b) [.w a.toNat, secondReg b x, .w d.toNat] (fun p =>
    (List.range 32).foldl (fun q j =>
      q.putW d.toNat j (if (p.rdK k.toNat).testBit j then p.rdW a.toNat j else p.second b x j)) p) s

/-- R306: Broadcasts an x register into the masked lanes. -/
def execLoamVmovx (d : BitVec 5) (a : BitVec 5) (k : BitVec 2) (s : State) : Host.Outcome State Fault Refusal :=
  lreg (xBad a) [.x a.toNat, .w d.toNat] (fun p => p.lanesW d.toNat k.toNat fun _ => p.rdX a.toNat % 2 ^ 32) s

/-- R306: Writes the lane number into the masked lanes. -/
def execLoamVlane (d : BitVec 5) (k : BitVec 2) (s : State) : Host.Outcome State Fault Refusal :=
  lreg false [.w d.toNat] (fun p => p.lanesW d.toNat k.toNat fun j => j) s

/-- R306: Mask AND. -/
def execLoamKand (d : BitVec 5) (a : BitVec 5) (b : BitVec 5) (s : State) : Host.Outcome State Fault Refusal :=
  loamK3 (fun x y => x &&& y) d a b s

/-- R306: Mask OR. -/
def execLoamKor (d : BitVec 5) (a : BitVec 5) (b : BitVec 5) (s : State) : Host.Outcome State Fault Refusal :=
  loamK3 (fun x y => x ||| y) d a b s

/-- R306: Mask XOR. -/
def execLoamKxor (d : BitVec 5) (a : BitVec 5) (b : BitVec 5) (s : State) : Host.Outcome State Fault Refusal :=
  loamK3 (fun x y => x ^^^ y) d a b s

/-- R306: Mask AND NOT. -/
def execLoamKandn (d : BitVec 5) (a : BitVec 5) (b : BitVec 5) (s : State) : Host.Outcome State Fault Refusal :=
  loamK3 (fun x y => x - (x &&& y)) d a b s

/-- R306: Mask NOT. -/
def execLoamKnot (d : BitVec 5) (a : BitVec 5) (s : State) : Host.Outcome State Fault Refusal :=
  lreg (kBad d || kBad a) [] (fun p => p.putK d.toNat (2 ^ 32 - 1 - p.rdK a.toNat)) s

/-- R306: Mask from an x register. -/
def execLoamKfromx (d : BitVec 5) (a : BitVec 5) (s : State) : Host.Outcome State Fault Refusal :=
  lreg (kBad d || xBad a) [.x a.toNat] (fun p => p.putK d.toNat (p.rdX a.toNat % 2 ^ 32)) s

/-- R306: Mask to an x register. -/
def execLoamKtox (d : BitVec 5) (a : BitVec 5) (s : State) : Host.Outcome State Fault Refusal :=
  lreg (xBad d || kBad a) [.x d.toNat] (fun p => p.putX d.toNat (p.rdK a.toNat)) s

/-- R307: 64-bit add. -/
def execLoamSaluAdd (d : BitVec 5) (a : BitVec 5) (b : BitVec 5) (s : State) : Host.Outcome State Fault Refusal :=
  loamSalu (fun x y => x + y) d a b s

/-- R307: 64-bit subtract. -/
def execLoamSaluSub (d : BitVec 5) (a : BitVec 5) (b : BitVec 5) (s : State) : Host.Outcome State Fault Refusal :=
  loamSalu (fun x y => x + (2 ^ 64 - y)) d a b s

/-- R307: 64-bit multiply, low half. -/
def execLoamSaluMul (d : BitVec 5) (a : BitVec 5) (b : BitVec 5) (s : State) : Host.Outcome State Fault Refusal :=
  loamSalu (fun x y => x * y) d a b s

/-- R307: 64-bit AND. -/
def execLoamSaluAnd (d : BitVec 5) (a : BitVec 5) (b : BitVec 5) (s : State) : Host.Outcome State Fault Refusal :=
  loamSalu (fun x y => x &&& y) d a b s

/-- R307: 64-bit OR. -/
def execLoamSaluOr (d : BitVec 5) (a : BitVec 5) (b : BitVec 5) (s : State) : Host.Outcome State Fault Refusal :=
  loamSalu (fun x y => x ||| y) d a b s

/-- R307: 64-bit XOR. -/
def execLoamSaluXor (d : BitVec 5) (a : BitVec 5) (b : BitVec 5) (s : State) : Host.Outcome State Fault Refusal :=
  loamSalu (fun x y => x ^^^ y) d a b s

/-- R307: 64-bit shift left. -/
def execLoamSaluShl (d : BitVec 5) (a : BitVec 5) (b : BitVec 5) (s : State) : Host.Outcome State Fault Refusal :=
  loamSalu (fun x y => x * 2 ^ (y % 64)) d a b s

/-- R307: 64-bit logical shift right. -/
def execLoamSaluShr (d : BitVec 5) (a : BitVec 5) (b : BitVec 5) (s : State) : Host.Outcome State Fault Refusal :=
  loamSalu (fun x y => x / 2 ^ (y % 64)) d a b s

/-- R307: 64-bit arithmetic shift right. -/
def execLoamSaluSar (d : BitVec 5) (a : BitVec 5) (b : BitVec 5) (s : State) : Host.Outcome State Fault Refusal :=
  loamSalu (fun x y => sarU 64 x (y % 64)) d a b s

/-- R307: 64-bit signed minimum. -/
def execLoamSaluMin (d : BitVec 5) (a : BitVec 5) (b : BitVec 5) (s : State) : Host.Outcome State Fault Refusal :=
  loamSalu (fun x y => minS 64 x y) d a b s

/-- R307: 64-bit signed maximum. -/
def execLoamSaluMax (d : BitVec 5) (a : BitVec 5) (b : BitVec 5) (s : State) : Host.Outcome State Fault Refusal :=
  loamSalu (fun x y => maxS 64 x y) d a b s

/-- R307: Signed set-if-less-than. -/
def execLoamSaluSlt (d : BitVec 5) (a : BitVec 5) (b : BitVec 5) (s : State) : Host.Outcome State Fault Refusal :=
  loamSalu (fun x y => if sx 64 x < sx 64 y then 1 else 0) d a b s

/-- R307: Adds a sign-extended imm16. -/
def execLoamSaddi (d : BitVec 5) (a : BitVec 5) (i : BitVec 16) (s : State) : Host.Outcome State Fault Refusal :=
  lreg (xBad d || xBad a) [.x a.toNat, .x d.toNat] (fun p => p.putX d.toNat (p.rdX a.toNat + sofs 16 i.toNat 1)) s

/-- R307: Loads a sign-extended imm21. -/
def execLoamMovi (d : BitVec 5) (i : BitVec 21) (s : State) : Host.Outcome State Fault Refusal :=
  lreg (xBad d) [.x d.toNat] (fun p => p.putX d.toNat (sofs 21 i.toNat 1)) s

/-- R307: Loads 8 constant bytes from instruction memory. -/
def execLoamLdk (d : BitVec 5) (i : BitVec 16) (s : State) : Host.Outcome State Fault Refusal :=
  lreg (xBad d || i.toNat % 8 != 0 || decide (32768 ≤ i.toNat)) [.x d.toNat]
    (fun p => p.putX d.toNat (Mem.read p.code (0x8000 + i.toNat) 8)) s

/-- R308: Loam vector load from DRAM. -/
def execLoamVld (d : BitVec 5) (a : BitVec 5) (k : BitVec 2) (i : BitVec 9) (s : State) : Host.Outcome State Fault Refusal :=
  linst (xBad a) [.x a.toNat, .w d.toNat] (fun s pid p => loamMem 0 d.toNat 4
    (p.lanesAt k.toNat (fun j => p.rdX a.toNat + sofs 9 i.toNat 128 + 4 * j) fun _ => 0) s pid p) s

/-- R308: Loam vector store to DRAM. -/
def execLoamVst (d : BitVec 5) (a : BitVec 5) (k : BitVec 2) (i : BitVec 9) (s : State) : Host.Outcome State Fault Refusal :=
  linst (xBad a) [.x a.toNat, .w d.toNat] (fun s pid p => loamMem 1 d.toNat 4
    (p.lanesAt k.toNat (fun j => p.rdX a.toNat + sofs 9 i.toNat 128 + 4 * j) fun j => p.rdW d.toNat j) s pid p) s

/-- R308: Loam indexed gather from DRAM. -/
def execLoamVgather (d : BitVec 5) (a : BitVec 5) (b : BitVec 5) (k : BitVec 2) (c : BitVec 2) (s : State) : Host.Outcome State Fault Refusal :=
  linst (xBad a) [.x a.toNat, .w b.toNat, .w d.toNat] (fun s pid p => loamMem 0 d.toNat 4
    (p.lanesAt k.toNat (fun j => p.rdX a.toNat + p.rdW b.toNat j * 2 ^ c.toNat) fun _ => 0) s pid p) s

/-- R308: Loads from the loam buffer. -/
def execLoamBld (d : BitVec 5) (a : BitVec 5) (k : BitVec 2) (i : BitVec 9) (s : State) : Host.Outcome State Fault Refusal :=
  loamBuf false d a k i s

/-- R308: Stores to the loam buffer. -/
def execLoamBst (d : BitVec 5) (a : BitVec 5) (k : BitVec 2) (i : BitVec 9) (s : State) : Host.Outcome State Fault Refusal :=
  loamBuf true d a k i s

/-- R309: Scalar 64-bit load. -/
def execLoamSld (d : BitVec 5) (a : BitVec 5) (i : BitVec 16) (s : State) : Host.Outcome State Fault Refusal :=
  linst (xBad d || xBad a) [.x a.toNat, .x d.toNat] (fun s pid p => loamMem 2 d.toNat 8
    [(0, (p.rdX a.toNat + sofs 16 i.toNat 1) % 2 ^ 64, 0)] s pid p) s

/-- R309: Scalar 64-bit store. -/
def execLoamSst (d : BitVec 5) (a : BitVec 5) (i : BitVec 16) (s : State) : Host.Outcome State Fault Refusal :=
  linst (xBad d || xBad a) [.x a.toNat, .x d.toNat] (fun s pid p => loamMem 3 d.toNat 8
    [(0, (p.rdX a.toNat + sofs 16 i.toNat 1) % 2 ^ 64, p.rdX d.toNat)] s pid p) s

/-- R310: Unconditional relative branch. -/
def execLoamBr (i : BitVec 21) (s : State) : Host.Outcome State Fault Refusal :=
  linst false [] (fun s pid p => loamJump s pid p (sx 21 i.toNat)) s

/-- R310: Conditional branch on a signed x register. -/
def execLoamBcc (c : BitVec 5) (a : BitVec 5) (i : BitVec 16) (s : State) : Host.Outcome State Fault Refusal :=
  linst (xBad a || decide (6 ≤ c.toNat)) [.x a.toNat] (fun s pid p =>
    if bccCond c.toNat (p.rdX a.toNat) then loamJump s pid p (sx 16 i.toNat) else s.modLPlot pid LPlot.next) s

/-- R310: Decrements and branches while nonzero. -/
def execLoamLoop (a : BitVec 5) (i : BitVec 16) (s : State) : Host.Outcome State Fault Refusal :=
  linst (xBad a || a == 0) [.x a.toNat] (fun s pid p =>
    let v := (p.rdX a.toNat + (2 ^ 64 - 1)) % 2 ^ 64
    let t := (p.pc : Int) + 4 * sx 16 i.toNat
    -- a stop comes before the counter changes
    if v = 0 then s.modLPlot pid fun q => (q.putX a.toNat v).next
    else if t < 0 || (p.len : Int) ≤ t then loamStop s pid 2 0 0 false
    else loamJump (s.modLPlot pid fun q => q.putX a.toNat v) pid p (sx 16 i.toNat)) s

/-- R298: Holds later accesses until earlier loads are written and earlier stores are in their layers. -/
def execLoamSync (s : State) : Host.Outcome State Fault Refusal :=
  linst false [] (fun s pid p => if p.out.isEmpty then s.modLPlot pid LPlot.next else s) s

/-- R311: Yields the loam core to another queued plot of no higher class number. -/
def execLoamYield (s : State) : Host.Outcome State Fault Refusal :=
  linst false [] (fun s pid p => if p.settled then loamYield s pid p else s) s

/-- R311: Syncs and retires the loam plot. -/
def execLoamDone (s : State) : Host.Outcome State Fault Refusal :=
  linst false [] (fun s pid p => if p.out.isEmpty then loamRetire s pid else s) s

/-- R300: A loam core fetches a word with an unlisted opcode, T value or F value, and the plot stops with cause 1. -/
def execLoamUnassignedOpcode (_ : Word) (s : State) : Host.Outcome State Fault Refusal :=
  linst true [] (fun s _ _ => s) s

/-- R298: A loam load returns through the crossbar and writes its register, or a loam store is written into its layer, which releases interlocks, SYNC and DONE. Reads a, the plot; b, the place of the access among those on their way; c, the lane; flag. -/
def execLoamAccessComplete (s : State) : Host.Outcome State Fault Refusal :=
  ev loamAccess s

/-- R290: The controller loads the code, constants, ranges and a zeroed buffer into a loam core and starts the plot. Reads a, the loam core. -/
def execLoamBind (s : State) : Host.Outcome State Fault Refusal :=
  ev (fun x s => loamBind s x.a) s

/-- R296: A pre-empted loam plot resumes on its core once no class-0 entry is queued there. Reads a, the loam core. -/
def execLoamResume (s : State) : Host.Outcome State Fault Refusal :=
  ev (fun x s => loamResume s x.a) s

end Sys2Proof.Machine
end

