-- ==== Sys2Proof/Machine/Containment.lean ====
section
/-! DEFINITION. Containment (R189, R251, R254, R259, R332 to R334): fencing a column, a channel or a domain's memory, what is
lost with it, and which sowings stop. -/
namespace Sys2Proof.Machine

/-! ## Losses (R259, R334) -/

/-- The DRAM byte of the leaf entry that a walk of an offset reads, if it reaches one: nothing is read of a memory or a layer that is fenced. -/
def leafKey (s : State) (d off : Nat) : Option Nat :=
  if (s.dom d).lineMemF then none
  else match readTables s d off with
    | (keys, .leaf _ _) => keys.getLast?
    | _ => none

/-- LOST set in the entry of a page, and the walker's copy of it dropped (R189, R247, R259). -/
def markLost (s : State) (d off : Nat) : State :=
  let s := match leafKey s d off with
    | none => s
    | some k =>
      let b := homeByte s d (k + 5) ||| 0x80#8
      let s := { s with dram := Mem.set s.dram (k + 5) b }
      let f (l : Line) : Line :=
        if !l.remote && decide (l.pa ≤ k + 5) && decide (k + 5 < l.pa + l.size) then { l with data := insBytes l.data (k + 5 - l.pa) 1 b.toNat } else l
      s.modDom d fun m => { m with lines := m.lines.map f }
  s.modDom d fun m => { m with tcache := m.tcache.filter fun c => c.1 != (if c.2.1 then off / 2 ^ 21 else off / 2 ^ 16) }

/-- A record of a loss in the domain's own queue, and a report to its controller (R334). -/
def lossRecord (s : State) (d page src : Nat) : State :=
  tellController (reportOnce s d d page 4 0 [0, 0, d, 0, 0, 0, src]) d [1, page, src]

/-- An error that fences a resource pulls the trip line (R284). -/
def errorTrip (s : State) : State := { s with trip := s.trip ++ [⟨3, 0, s.tick⟩] }

/-! ## A column (R8, R189, R332) -/

/-- Whether a record's geometry, or its pending one, has a bank in a column that is not fenced yet. -/
def VcRec.inColumn (r : VcRec) (c : Nat) : Bool :=
  r.st != 0 && (List.range 12).any fun i => r.banks.getLsbD (12 * c + i) || (r.st == 2 && r.pbanks.getLsbD (12 * c + i))

/-- The VC mask of a sowing's kernel header (R234). -/
def Sowing.vcmask (w : Sowing) : Nat := (w.hdr.getD 6 0).toNat + 2 ^ 32 * (w.hdr.getD 7 0).toNat

/-- What goes with a column's cores: engines, queues, and the accesses and commands that need them (R333). What a saved plot is to post
again stays. -/
def wipeQuad (s : State) (q : Nat) : State :=
  let mine (core : Nat) := core / 4 == q
  let away (tk : Nat) := !(s.plot (pidOf tk)).resident
  let awayC (i : Nat) := (Tbl.find? s.cmds i).any fun m => away m.tk
  let awayI (i : Nat) := (Tbl.vals s.cmds).any fun m => m.inst == i && away m.tk
  let teams := (s.teams.filter fun t => mine t.2.core && (s.plot (pidOf t.1)).st == .stopping).map (·.1)
  let s := { s with
    cmds := s.cmds.filter fun c => !mine c.2.core || away c.2.tk, credits := s.credits.filter fun c => !mine (c.at_ / 2 ^ 19)
    cores := s.cores.map fun (k, c) => (k, if mine k then { c with
      fifo := [], copyQ := [], iredQ := [], stallM := c.stallM.filter fun e => away e.tk, stallC := c.stallC.filter awayC, stallI := c.stallI.filter awayI } else c) }
  teams.foldl (fun s tk => dropLanes (s.modTeam tk fun t => { t with infl := [] }) tk fun _ l => match l.loc with
    | .lm _ => l.st.waiting
    | .ia ia => l.st.waiting && inFleet s ia) s

/-- The atomics that are pending at a column's units are lost, and reported as failed stores (R189, R334); whether one has come to its unit is
free (log entry 19). -/
def loseAtomics (s : State) (d c : Nat) : State :=
  let there (a : Acc) (l : Lane) : Bool := l.st == .pending && (match a.kind with | .atom _ => true | .fatom _ => true | _ => false)
    && (match l.loc with | .ia ia => iaNode ia == 0 && iaHome ia == d && blockBank (s.dom d) (ia / 256) / 12 == c | .lm _ => false) && mayPerform s a l
  let ls := (Tbl.vals s.accs).flatMap fun a => (a.lanes.filter (there a)).map fun l => (a.id, l.lane)
  ls.foldl (fun s p =>
    let gone := Config.atUnit s.freeN
    let s := { s with freeN := s.freeN + 1 }
    match (if gone then laneOf s p.1 p.2 else none) with
    | some (a, l) =>
      let page := match l.loc with | .ia ia => ia / 2 ^ 16 | .lm _ => 0
      finishAcc (failStore (lossRecord (setLaneSt s p.1 p.2 .refusedAt) d page 1) a.tk a.grp) p.1
    | none => s) s

/-- A column is fenced for good (R332). -/
def fenceColumn (s : State) (d c : Nat) : State :=
  if (s.dom d).colF.getLsbD c then s
  else
    let dm := s.dom d
    let here (b : Nat) := b / 12 == c
    let victims := (s.sows.filter fun w =>
      (plotsOf s w.1).any (fun p => p.2.dom == d && p.2.quad == c && (p.2.st == .bound || p.2.st == .preempting))
        || (List.range 64).any fun v => w.2.vcmask.testBit v && (Tbl.getD dm.vcs v {}).inColumn c).map (·.1)
    let lost := ((dm.lines.filter fun l => !l.remote && l.dirty && here l.bank).map (·.base / 2 ^ 16)).eraseDups
    let s := loseAtomics s d c
    -- the directory entries of the column go as if each had overflowed
    let s := (dm.dir.filter fun e => here (blockBank dm e.block)).foldl (fun s e =>
      dirErase (sendInvs s d e.block 0 0 true (e.sharers ++ e.keep).eraseDups) d e.block) s
    let s := s.modDom d fun m => { m with
      colF := m.colF ||| BitVec.twoPow 12 c
      lines := m.lines.filter fun l => !here l.bank
      owner := m.owner.filter fun o => !here (o.1 / 8) }
    let s := lost.foldl (fun s p => lossRecord (markLost s d (iaOff (p * 2 ^ 16))) d p 1) s
    -- every waiter of the table wakes, and none of these wakes is counted (R251, R278)
    let ws := (s.dom d).watch.flatMap (·.waiters)
    let s := ws.foldl wakeWaiter (s.modDom d fun m => { m with watch := [] })
    let s := victims.foldl (fun s sid => match List.find? (fun (p : Nat × LPlot) => p.2.sow == sid) s.lplots with
      | some p => loamStop s p.1 10 0 0 true (some (d, c))
      | none => stopSow s sid d c) s
    errorTrip (wipeQuad s (12 * d + c))

/-! ## A channel and a domain's memory (R9, R189, R332) -/

/-- The loam sowings with a plot queued on or running on a loam core stop. -/
def stopLoamCore (s : State) (lk : Nat) (site : Nat × Nat) : State :=
  (s.loam lk).queue.foldl (fun s pid =>
    if (Tbl.find? s.lplots pid).isSome && (s.loam lk).queue.contains pid then loamStop s pid 10 0 0 true (some site) else s) s

/-- A DRAM channel is fenced, with its loam core; every map that names it loses its frames. -/
def fenceChannel (s : State) (d ch : Nat) : State :=
  if (s.dom d).chF.getLsbD ch then s
  else
    let dm := s.dom d
    let maps := (List.range 4).filter fun m =>
      let w0 := mapWord dm m 0
      (List.range (nb w0 60 4)).any fun i => nb w0 (4 * i) 4 == ch
    let s := s.modDom d fun m => { m with chF := m.chF ||| BitVec.twoPow 12 ch }
    let s := maps.foldl (fun s _ => lossRecord s d 0 5) s
    errorTrip (stopLoamCore s (12 * d + ch) (d, ch))

/-- The upper bus has failed: all DRAM data of the domain is lost, and its loam level is fenced. -/
def fenceMemory (s : State) (d : Nat) : State :=
  if (s.dom d).lineMemF then s
  else
    let s := s.modDom d fun m => { m with lineMemF := true }
    let s := lossRecord s d 0 5
    errorTrip <| (List.range 12).foldl (fun s k => stopLoamCore s (12 * d + k) (d, 0)) s


/-- R332: A failure in a column fences the whole column, updates the topology table and stops the affected sowings. Reads a, the domain, and b, the column. -/
def execColumnFence (s : State) : Host.Outcome State Fault Refusal :=
  ev (fun x s => if x.a < 72 && x.b < 12 then fenceColumn s x.a x.b else s) s

/-- R332: A failure of a DRAM layer or its channel functions fences the channel together with its loam core and reduce unit. Reads a, the domain, and b, the channel. -/
def execChannelFence (s : State) : Host.Outcome State Fault Refusal :=
  ev (fun x s => if x.a < 72 && x.b < 12 then fenceChannel s x.a x.b else s) s

/-- R189: An upper-bus failure beyond the spares fences the domain's memory, and its DRAM data is reported lost. Reads a, the domain. -/
def execMemoryFence (s : State) : Host.Outcome State Fault Refusal :=
  ev (fun x s => if x.a < 72 then fenceMemory s x.a else s) s

end Sys2Proof.Machine
end

