-- ==== Sys2Proof/Machine/Tile.lean ====
section
/-! DEFINITION. Tiles and the matrix engine (R150 to R167): shapes, tile transfers and fetches, and the posts to the matrix FIFO. -/
namespace Sys2Proof.Machine

/-! ## Shapes (R86, R153) -/

/-- A tile's shape, from its control register. -/
structure Shape where
  bits : Nat                    -- bits of an element
  rows : Nat
  cols : Nat
  sfmt : Nat
  soff : Nat
deriving DecidableEq, Repr

def shapeOf (tc : Nat) : Shape :=
  { bits := match nb tc 29 3 with | 0 => 8 | 1 => 2 | 2 => 16 | _ => 32
    rows := nb tc 21 8 + 1, cols := nb tc 13 8 + 1, sfmt := nb tc 11 2, soff := 64 * nb tc 0 11 }
def Shape.rowBytes (h : Shape) : Nat := (h.cols * h.bits + 7) / 8
def Shape.data (h : Shape) : Nat := h.rows * h.rowBytes
def Shape.scales (h : Shape) : Nat := match h.sfmt with | 1 => h.rows | 2 => h.cols | _ => 0
def shapeBad (tc : Nat) : Bool := decide (4 ≤ nb tc 29 3) || nb tc 11 2 == 3 || decide (8192 < (shapeOf tc).data)

/-- Where a tile's data, its scales and an accumulator lie in the window (R79). -/
def Team.tileBase (t : Team) (n : Nat) : Nat := t.vwt + 8192 * n
def Team.scaleBase (t : Team) (h : Shape) : Nat := t.vwt + h.soff
def Team.accBase (t : Team) (n : Nat) : Nat := t.vwa + 8192 * n
/-- Whether n bytes at an offset lie outside the window (R80). -/
def Team.outside (t : Team) (off n : Nat) : Bool := n != 0 && decide (t.wsize < off + n)
def Team.tileOut (t : Team) (n : Nat) (h : Shape) : Bool := t.outside (t.tileBase n) h.data || t.outside (t.scaleBase h) h.scales

/-! ## Footprints (R153, R157, R159) -/

/-- A run of bytes of memory and where it lands, or comes from, in the tile; the last byte is masked. -/
structure Frag where
  va  : Nat
  n   : Nat
  off : Nat
  m   : Nat := 255
deriving DecidableEq, Repr

/-- A run cut at the 32-byte sectors. -/
def cut (f : Frag) : List Frag :=
  if f.n = 0 then []
  else
    let a := f.va / 32 * 32
    let k := (f.va % 32 + f.n + 31) / 32
    (List.range k).map fun i =>
      let lo := max f.va (a + 32 * i)
      let hi := min (f.va + f.n) (a + 32 * (i + 1))
      { va := lo, n := hi - lo, off := f.off + (lo - f.va), m := if i + 1 = k then f.m else 255 }

/-- Runs that lie in one sector, together. -/
def bySector (fs : List Frag) : List (List Frag) :=
  fs.foldr (fun f acc => match acc with
    | (g :: r) :: rest => if g.va / 32 = f.va / 32 then (f :: g :: r) :: rest else [f] :: (g :: r) :: rest
    | _ => [f] :: acc) []

/-- The block layout (R153): rows of data and then the scales, in ascending address order. -/
def blockFrags (base stride rows rowBytes scales dataOff scaleOff : Nat) : List Frag :=
  (List.range rows).map (fun i => { va := base + i * stride, n := rowBytes, off := dataOff + i * rowBytes })
    ++ (if scales = 0 then [] else [{ va := base + rows * stride, n := scales, off := scaleOff }])

/-- The in-range part of a fetch (R159): in-range rows up to the last in-range column, and in-range scales. The bits of a row's last byte
that hold no element come from memory, unless a column of the tile is out of range. -/
def fetchFrags (h : Shape) (base stride rows cols dataOff scaleOff : Nat) : List Frag :=
  if rows = 0 || cols = 0 then []
  else
    let c := min cols h.cols
    let bits := c * h.bits
    let n := (bits + 7) / 8
    let m := if h.cols ≤ cols || bits % 8 = 0 then 255 else 2 ^ (bits % 8) - 1
    let k := match h.sfmt with | 1 => min rows h.rows | 2 => c | _ => 0
    (List.range (min rows h.rows)).map (fun i => { va := base + i * stride, n := n, off := dataOff + i * h.rowBytes, m := m })
      ++ (if k = 0 then [] else [{ va := base + h.rows * stride, n := k, off := scaleOff }])

/-- The bytes of a fetch that lie outside the tensor, which are written zero. -/
def zeroRuns (h : Shape) (rows cols dataOff scaleOff : Nat) : List (Nat × Nat) :=
  let (r, c) := if rows = 0 || cols = 0 then (0, 0) else (min rows h.rows, min cols h.cols)
  let n := (c * h.bits + 7) / 8
  let k := match h.sfmt with | 1 => r | 2 => c | _ => 0
  ((List.range h.rows).map (fun i => if i < r then (dataOff + i * h.rowBytes + n, h.rowBytes - n) else (dataOff + i * h.rowBytes, h.rowBytes))
    ++ [(scaleOff + k, h.scales - k)]).filter fun p => p.2 != 0

/-- The work of reading sectors and placing their bytes: each sector whole, with the bytes between its runs discarded. -/
def readWork (src dst : Nat → Place) (fs : List Frag) : List Work :=
  (bySector (fs.flatMap cut)).flatMap fun g =>
    match g with
    | [] => []
    | f :: _ =>
      let l := g.getLast?.getD f
      .rd (src f.va) (l.va + l.n - f.va) ::
        (g.foldl (fun (p : Nat × List Work) x =>
          (x.va + x.n, p.2 ++ (if x.va = p.1 then [] else [.drop (x.va - p.1)]) ++ [.wr (dst x.off) x.n x.m])) (f.va, [])).2

/-- The work of writing sectors: the runs of one sector adjoin. -/
def writeWork (src dst : Nat → Place) (fs : List Frag) : List Work :=
  (bySector (fs.flatMap cut)).flatMap fun g =>
    match g with
    | [] => []
    | f :: _ =>
      let n := g.foldl (fun a x => a + x.n) 0
      [.rd (src f.off) n, .wr (dst f.va) n 255]

def zeroWork (dst : Nat → Place) (rs : List (Nat × Nat)) : List Work :=
  rs.flatMap fun r => [.zero r.2, .wr (dst r.1) r.2 255]

/-! ## The checks of a footprint (R167) -/

/-- The first byte of a run that lies outside the plot's allocation; local addresses end at a bound, for an offset that names no core 2^19. -/
def firstOut (t : Team) (bound : Nat) (f : Frag) : Option Nat :=
  if f.n = 0 || (lmOk t f.va f.n && decide (f.va + f.n ≤ bound)) then none
  else if bound ≤ f.va || t.lmem ≤ f.va % 2 ^ 19 then some f.va
  else if t.lmem = 2 ^ 19 then some bound
  else some (f.va + (t.lmem - f.va % 2 ^ 19))

/-- MISALIGN, LOCAL_BOUND, RANGE_MISS and FLEET_ACCESS in their order, with the values they name: misaligned values, local
runs and virtual runs, with the check of a VA. Where several values are misaligned the spec does not say which of them TVAL names, nor
which address where both the block and the barrier lie outside: it is the first of base, stride and barrier, and the block's (log
entry 25). -/
def footVerdict (s : State) (mis : List Nat) (lms vas : List Frag) (check : Nat → Nat × Nat) (bound : Nat := 2 ^ 21) : Verdict :=
  match mis with
  | a :: _ => .trap 0x07 a
  | [] => match lms.findSome? (firstOut s.ct bound) with
    | some a => .trap 0x10 a
    | none =>
      let as := (vas.flatMap cut).map (·.va)
      match as.find? fun a => (check a).1 == 0x11 with
      | some a => .trap 0x11 a
      | none => match as.find? fun a => (check a).1 == 0x13 with
        | some a => .trap 0x13 a
        | none => .go

/-- A completion word's misaligned address and its barrier as a local run (R151). -/
def cwMis (cw : Nat) : List Nat := if cwBar cw && cwTarget cw % 16 != 0 then [cwTarget cw] else []
def cwRun (cw : Nat) : List Frag := if cwBar cw then [{ va := cwTarget cw, n := 16, off := 0 }] else []

/-- Base and stride under R153. -/
def strideMis (base stride rowBytes : Nat) : List Nat :=
  (if base % 16 != 0 then [base] else []) ++ (if stride % 16 != 0 || stride < rowBytes then [stride] else [])

/-- TVAL of TILE_SHAPE (R167). -/
def shapeVal (s : State) (reason : Nat) : Nat := s.cur.word % 2 ^ 32 + 2 ^ 32 * reason

/-- A counter that would pass 63 holds the group (R152). -/
def countHold (s : State) (p : Nat) : Verdict := if 63 ≤ s.ct.count p then .hold else .go

/-- The first of two verdicts that is not `go`. -/
def Verdict.andThen (v : Verdict) (w : Verdict) : Verdict := match v with | .go => w | v => v

def State.now (s : State) : Team := s.ct.view s.cur.cyc
def tcOf (t : Team) (n : Nat) : Nat := (Tbl.getD t.tcr n 0).toNat

/-- Places of a footprint of the current team. -/
def memPlace (s : State) (fl : Bool) (va : Nat) : Place := .mem (vaCheck s s.cur.tk fl va).2
def lmPlace (s : State) (la : Nat) : Place := .lm (lmKey s s.ct la)

/-! ## Tile transfers (R156, R157) -/

/-- TLD and TST: the group at A holds base, stride and completion word. -/
def transferInstr (i : Instr) (st : Bool) (d a q : BitVec 8) (s : State) : Host.Outcome State Fault Refusal :=
  let lm := qMode q.toNat == 3
  let reg (s : State) (k : Nat) := s.now.rdU (a.toNat + k) 1
  let base (s : State) := if lm then reg s 0 else s.now.rdU a.toNat 2
  let cw (s : State) := reg s 3
  let h (s : State) : Shape := if st then ⟨32, 32, 64, 0, 0⟩ else shapeOf (tcOf s.now d.toNat)
  let doff (s : State) := if st then s.ct.accBase d.toNat else s.ct.tileBase d.toNat
  let frags (s : State) := blockFrags (base s) (reg s 2) (h s).rows (h s).rowBytes (h s).scales (doff s) (s.ct.scaleBase (h s))
  let path := if lm then 2 else if st then 1 else 0
  let rel := st && qOrd q.toNat == 3
  issue (form i)
    (fun s =>
      if cwBad (cw s) then .trap 0x06 (wordVal s 1)
      else if (if st then s.ct.outside (doff s) 8192 else s.ct.tileOut d.toNat (h s)) then .trap 0x1C (shapeVal s 3)
      else
        (footVerdict s (strideMis (base s) (reg s 2) (h s).rowBytes ++ cwMis (cw s))
          ((if lm then frags s else []) ++ cwRun (cw s)) (if lm then [] else frags s) (vaCheck s s.cur.tk false)).andThen
        (((if rel then releaseVerdict s else .go).andThen
          (if st && !lm && s.ct.gleaning then .park .releasePark else .go)).andThen (countHold s path)))
    (fun s0 =>
      let s := inflInc (closeFences s0) s0.cur.tk path
      let (id, s) := s.newId
      let out := if lm then lmPlace s else memPlace s false
      let win (o : Nat) : Place := .win s.cur.tk o
      let fs := frags s
      setCmd s {
        id := id, inst := id, tk := s.cur.tk, core := s.ct.core, grp := s.ct.grp, kind := if st then .tst else .tld
        cw := BitVec.ofNat 32 (cw s), bytes := (h s).data + (h s).scales, path := path
        acq := !st && qOrd q.toNat == 2, rel := rel, scope := qScope q.toNat, strong := qOrd q.toNat != 0
        was := s.ct.accepted
        work := if st then writeWork win out fs else readWork out win fs }) s

/-! ## Tile handles (R158, R159) -/

/-- The handle at a group of uniform registers: base, stride, rows and columns in range. -/
def hBase (t : Team) (a : Nat) : Nat := t.rdU a 2
def hStride (t : Team) (a : Nat) : Nat := nb (t.rdU (a + 2) 1) 0 24
def hRows (t : Team) (a : Nat) : Nat := nb (t.rdU (a + 3) 1) 0 16
def hCols (t : Team) (a : Nat) : Nat := nb (t.rdU (a + 3) 1) 16 16
/-- Whether a handle's reserved bits make the instruction illegal. -/
def handleBad (t : Team) (a : Nat) : Bool := decide (a + 4 ≤ 160) && nb (t.rdU (a + 2) 1) 24 8 != 0

def handleFrags (t : Team) (h : Shape) (a dataOff scaleOff : Nat) : List Frag :=
  fetchFrags h (hBase t a) (hStride t a) (hRows t a) (hCols t a) dataOff scaleOff
def handleZeros (t : Team) (h : Shape) (a dataOff scaleOff : Nat) : List (Nat × Nat) :=
  zeroRuns h (hRows t a) (hCols t a) dataOff scaleOff

/-- The shape of a weight tile: 256 rows of 64 trits with 64 scales (R162). -/
def weightShape : Shape := ⟨2, 256, 64, 2, 0⟩

/-! ## The matrix FIFO (R155, R160 to R162) -/

/-- The completion word's register of TMMA and TMMAF. -/
def mmaCw (t : Team) (e : EPay) : Nat := t.rdU (eXop e) 1

/-- The checks that TMMA and TMMAF share after the operands: shapes, then the window (R161). -/
def mmaShape (s : State) (d a : Nat) (b : Option Nat) : Verdict :=
  let t := s.now
  let ta := tcOf t a
  let bad (tc e r c f : Nat) := nb tc 29 3 != e || nb tc 21 8 != r || nb tc 13 8 != c || nb tc 11 2 != f
  if bad ta 0 31 255 1 || (match b with | some b => bad (tcOf t b) 1 255 63 2 | none => false) then .trap 0x1C (shapeVal s 2)
  else if s.ct.tileOut a (shapeOf ta) || s.ct.outside (s.ct.accBase d) 8192
      || (match b with | some b => s.ct.tileOut b (shapeOf (tcOf t b)) | none => false) then .trap 0x1C (shapeVal s 3)
  else .go

/-- R154: Writes a tile control register. -/
def execTshape (d : BitVec 8) (a : BitVec 8) (s : State) : Host.Outcome State Fault Refusal :=
  let v (s : State) := s.now.rdU a.toNat 1
  issue (form (.tshape d a)) (fun s => if shapeBad (v s) then .trap 0x1C (shapeVal s 1) else .go)
    (fun s => result s (some 2) s.cur.cyc [(.tc d.toNat, v s)]) s

/-- R155: Posts a matrix FIFO entry that zeroes a tile or accumulator. -/
def execTzero (d : BitVec 8) (a : BitVec 8) (s : State) : Host.Outcome State Fault Refusal :=
  let cw (s : State) := s.now.rdU a.toNat 1
  let tile := decide (d.toNat < 0x80)
  let h (s : State) := shapeOf (tcOf s.now d.toNat)
  issue (form (.tzero d a))
    (fun s =>
      if cwBad (cw s) then .trap 0x06 (wordVal s 1)
      else if (if tile then s.ct.outside (s.ct.tileBase d.toNat) (h s).data else s.ct.outside (s.ct.accBase (d.toNat - 0x80)) 8192)
        then .trap 0x1C (shapeVal s 3)
      else (footVerdict s (cwMis (cw s)) (cwRun (cw s)) [] (vaCheck s s.cur.tk false)).andThen (countHold s 4))
    (fun s0 =>
      let (id, s) := (closeFences s0).newId
      postMatrix s s.ct.core {
        id := id, tk := s.cur.tk, grp := s.ct.grp, kind := 2, d := d.toNat, a := 0, b := 0, tca := BitVec.ofNat 32 (tcOf s.now d.toNat)
        cw := BitVec.ofNat 32 (cw s), bytes := if tile then (h s).data else 8192, was := s.ct.accepted }) s

/-- R156: Loads a tile asynchronously from memory or scratchpad. -/
def execTld (d : BitVec 8) (a : BitVec 8) (q : BitVec 8) (s : State) : Host.Outcome State Fault Refusal :=
  transferInstr (.tld d a q) false d a q s

/-- R156: Stores an accumulator asynchronously in the block layout. -/
def execTst (d : BitVec 8) (a : BitVec 8) (q : BitVec 8) (s : State) : Host.Outcome State Fault Refusal :=
  transferInstr (.tst d a q) true d a q s

/-- R158: Fetches a tile through the copy engine using a tile handle. -/
def execTfetch (d : BitVec 8) (a : BitVec 8) (r : BitVec 1) (sc : BitVec 3) (l : BitVec 1) (s : State) : Host.Outcome State Fault Refusal :=
  let f := form (.tfetch d a r sc l)
  let fl := l == 1
  let cw (s : State) := s.now.rdU (a.toNat + 4) 1
  let h (s : State) := shapeOf (tcOf s.now d.toNat)
  let doff (s : State) := s.ct.tileBase d.toNat
  let frags (s : State) := handleFrags s.now (h s) a.toNat (doff s) (s.ct.scaleBase (h s))
  issue f
    (fun s' =>
      if handleBad s'.now a.toNat then .trap 0x01 (wordVal s' 0)
      else if cwBad (cw s') then .trap 0x06 (wordVal s' 1)
      else if s'.ct.tileOut d.toNat (h s') then .trap 0x1C (shapeVal s' 3)
      else (footVerdict s' (strideMis (hBase s'.now a.toNat) (hStride s'.now a.toNat) (h s').rowBytes ++ cwMis (cw s'))
        (cwRun (cw s')) (frags s') (vaCheck s' s'.cur.tk fl)).andThen (countHold s' 4))
    (fun s0 =>
      let (id, s) := (closeFences s0).newId
      let win (o : Nat) : Place := .win s.cur.tk o
      postCopy s {
        id := id, inst := id, tk := s.cur.tk, core := s.ct.core, grp := s.ct.grp, kind := .tfetch, was := s.ct.accepted
        cw := BitVec.ofNat 32 (cw s), bytes := (h s).data + (h s).scales, path := 4, acq := r == 1
        scope := sc.toNat
        work := readWork (memPlace s fl) win (frags s) ++ zeroWork win (handleZeros s.now (h s) a.toNat (doff s) (s.ct.scaleBase (h s))) }) s

/-- R161: Posts a ternary matrix block product; it requires an E word. -/
def execTmma (d : BitVec 8) (a : BitVec 8) (b : BitVec 8) (e : EPay) (s : State) : Host.Outcome State Fault Refusal :=
  let cw (s : State) := mmaCw s.now e
  issue (form (.tmma d a b e))
    (fun s =>
      if cwBad (cw s) then .trap 0x06 (wordVal s 3)
      else ((mmaShape s d.toNat a.toNat (some b.toNat)).andThen
        (footVerdict s (cwMis (cw s)) (cwRun (cw s)) [] (vaCheck s s.cur.tk false))).andThen (countHold s 4))
    (fun s0 =>
      let (id, s) := (closeFences s0).newId
      postMatrix s s.ct.core {
        id := id, tk := s.cur.tk, grp := s.ct.grp, kind := 0, d := d.toNat, a := a.toNat, b := b.toNat
        tca := BitVec.ofNat 32 (tcOf s.now a.toNat), tcb := BitVec.ofNat 32 (tcOf s.now b.toNat), cw := BitVec.ofNat 32 (cw s), was := s.ct.accepted }) s

/-- R162: TMMA with weights fetched from memory by handle; it requires an E word. -/
def execTmmaf (d : BitVec 8) (a : BitVec 8) (b : BitVec 8) (e : EPay) (s : State) : Host.Outcome State Fault Refusal :=
  let f := form (.tmmaf d a b e)
  let cw (s : State) := mmaCw s.now e
  let frags (s : State) := handleFrags s.now weightShape b.toNat 0 4096
  issue f
    (fun s =>
      if handleBad s.now b.toNat then .trap 0x01 (wordVal s 0)
      else if cwBad (cw s) then .trap 0x06 (wordVal s 3)
      else ((mmaShape s d.toNat a.toNat none).andThen
        (footVerdict s (strideMis (hBase s.now b.toNat) (hStride s.now b.toNat) 16 ++ cwMis (cw s)) (cwRun (cw s)) (frags s) (vaCheck s s.cur.tk false))).andThen
        (countHold s 4))
    (fun s0 =>
      let (id, s) := (closeFences s0).newId
      postMatrix s s.ct.core {
        id := id, tk := s.cur.tk, grp := s.ct.grp, kind := 1, d := d.toNat, a := a.toNat, b := b.toNat
        tca := BitVec.ofNat 32 (tcOf s.now a.toNat), cw := BitVec.ofNat 32 (cw s), was := s.ct.accepted
        spec := readWork (memPlace s false) .buf (frags s) }) s

end Sys2Proof.Machine
end

