-- ==== Sys2Proof/Machine/Engines.lean ====
section
/-! DEFINITION. The commands of the copy engine and of indexed reduction, launches, cache maintenance and the table instructions:
their checks at issue and what they post (R205, R206, R222 to R235, R260 to R266). -/
namespace Sys2Proof.Machine

/-! ## Copy descriptors (R223 to R229) -/

/-- A descriptor as the engine copies it at issue. -/
structure CopyD where
  src : Nat
  dst : Nat
  rbytes : Nat
  vbytes : Nat
  rows : Nat
  vrows : Nat
  ss : Nat
  ds : Nat
  sel : List Nat                -- the rows copied, in ascending order
  bad : Bool                    -- OPERAND with field code 1

/-- Which copy: COPY, COPYG, COPYB. -/
inductive CopyK where
  | plain | gather | bcast
deriving DecidableEq, Repr

/-- The descriptor at a group of registers. -/
def copyD (t : Team) (k : CopyK) (a : Nat) (slm dlm : Bool) : CopyD :=
  let w (j : Nat) := t.rdU (a + j) 1
  let rb := nb (w 4) 0 16
  let vb := min (nb (w 4) 16 16) rb
  let rows := nb (w 5) 0 16
  let mask := t.rdU (a + 8) 4
  { src := if slm then w 0 else t.rdU a 2
    dst := if dlm then w 2 else t.rdU (a + 2) 2
    rbytes := rb, vbytes := vb, rows := rows, vrows := min (nb (w 5) 16 16) rows, ss := w 6, ds := w 7
    sel := (List.range rows).filter fun r => k != .gather || nb mask r 1 == 1
    bad := rb = 0 || decide (65532 < rb) || rb % 4 != 0 || rows = 0 || (k == .gather && decide (128 < rows)) || vb % 4 != 0
      || (slm && w 1 != 0) || (dlm && w 3 != 0) || (k == .bcast && nb (w 2) 19 2 != 0) }

/-- The bytes a copy reads of its source; row k of the destination. -/
def CopyD.srcFrag (c : CopyD) (r : Nat) : Frag := { va := (c.src + r * c.ss) % 2 ^ 64, n := if r < c.vrows then c.vbytes else 0, off := 0 }
def CopyD.dstFrag (c : CopyD) (k : Nat) : Frag := { va := (c.dst + k * c.ds) % 2 ^ 64, n := c.rbytes, off := 0 }

/-- A VA of a side that may lie in the fleeting window of the issuing domain when FLEET is set (R225). -/
def sideCheck (s : State) (fleet : Bool) (va : Nat) : Nat × Nat :=
  match vaCheck s s.cur.tk false va with
  | (0x13, ia) => if fleet then vaCheck s s.cur.tk true va else (0x13, ia)
  | r => r

/-- The fleeting tiles of which the destination rows cover every byte (R225). -/
def wholeTiles (s : State) (fs : List Frag) : List Nat :=
  let ws := (fs.flatMap cut).flatMap fun f =>
    let ia := (sideCheck s true f.va).2
    if inFleet s ia then (List.range (f.n / 4)).map fun j => (tileOf ia, (iaOff ia % 4096) / 4 + j) else []
  let ws := ws.eraseDups
  ((ws.map (·.1)).eraseDups).filter fun t => (ws.filter (·.1 == t)).length == 1024

/-- The work of one row: every source byte read, and then the destination's sectors written (R225). -/
def rowWork (src dst : Nat → Place) (cores : List Nat) (sf df : Frag) (rbytes : Nat) : List Work :=
  (cut sf).map (fun f => .rd (src f.va) f.n) ++ (if sf.n < rbytes then [.zero (rbytes - sf.n)] else [])
    ++ (cut df).flatMap fun f =>
      match cores with
      | [] => [.wr (dst f.va) f.n 255]
      | cs => cs.map (fun j => .put (dst (f.va + 2 ^ 19 * j)) f.n) ++ [.drop f.n]

/-- COPY, COPYG and COPYB. `cores` are the relative names a broadcast delivers to. -/
def copyInstr (i : Instr) (k : CopyK) (d a : BitVec 8) (acq rel slm dlm fleet : Bool) (scope : Nat) (cores : List Nat) (s : State) :
    Host.Outcome State Fault Refusal :=
  let cw (s : State) := s.now.rdU d.toNat 1
  let c (s : State) := copyD s.now k a.toNat slm dlm
  let dsts (s : State) := (c s).sel.zipIdx.map fun p => (c s).dstFrag p.2
  let srcs (s : State) := (c s).sel.map (c s).srcFrag
  issue (form i)
    (fun s =>
      if cwBad (cw s) || (k != .plain && !cwBar (cw s)) || (k == .bcast && nb (cw s) 19 2 != 0) then .trap 0x06 (wordVal s 0)
      else if (c s).bad then .trap 0x06 (wordVal s 1)
      else
        let mis := ([(c s).src, (c s).dst, (c s).ss, (c s).ds].filter fun x => x % 4 != 0) ++ cwMis (cw s)
        (footVerdict s mis ((if slm then srcs s else []) ++ (if dlm then dsts s else []) ++ cwRun (cw s))
          ((if slm then [] else srcs s) ++ (if dlm then [] else dsts s)) (sideCheck s fleet) (if k == .bcast then 2 ^ 19 else 2 ^ 21)).andThen
        ((if rel then releaseVerdict s else .go).andThen (countHold s 4)))
    (fun s0 =>
      let (id, s) := (closeFences s0).newId
      let place (lm : Bool) (x : Nat) : Place := if lm then lmPlace s x else .mem (sideCheck s fleet x).2
      postCopy s {
        id := id, inst := id, tk := s.cur.tk, core := s.ct.core, grp := s.ct.grp
        kind := match k with | .plain => .copy | .gather => .copyg | .bcast => .copyb
        cw := BitVec.ofNat 32 (cw s), bytes := (c s).rows * (c s).rbytes, path := 4, acq := acq, rel := rel, scope := scope
        mask := cores.foldl (fun m j => m + 2 ^ j) 0
        packed := if k == .gather then some (c s).sel.length else none
        births := if fleet && !dlm then wholeTiles s (dsts s) else []
        work := (c s).sel.zipIdx.flatMap fun p =>
          rowWork (place slm) (place dlm) cores ((c s).srcFrag p.1) ((c s).dstFrag p.2) (c s).rbytes }) s

/-! ## Indexed reduction (R230 to R232) -/

/-- The lanes of the mask whose index names a row, with the row's address. -/
def iredRows (s : State) (d a : Nat) : List (Nat × Nat) :=
  let t := s.now
  (maskLanes t.mask).filterMap fun l =>
    let i := t.rdV a 1 l
    if i = 0xFFFFFFFF then none else some (l, (t.rdU d 2 + i * t.rdU (d + 2) 1) % 2 ^ 64)

def iredInstr (i : Instr) (m : Bool) (d a : BitVec 8) (s : State) : Host.Outcome State Fault Refusal :=
  let w (s : State) (k : Nat) := s.now.rdU (d.toNat + k) 1
  let rb (s : State) := nb (w s 3) 0 11
  let acq (s : State) := nb (w s 3) 23 1 == 1
  let rel (s : State) := nb (w s 3) 22 1 == 1
  let scope (s : State) := nb (w s 3) 19 3
  let groups (s : State) := ((maskLanes s.ct.mask).map (· / 16)).eraseDups
  let bad (s : State) := decide (3 ≤ nb (w s 3) 28 4) || decide (3 ≤ nb (w s 3) 24 4) || nb (w s 3) 11 8 != 0
    || rb s = 0 || decide (1024 < rb s) || rb s % 4 != 0 || scopeIll (acq s || rel s) (scope s) || cwBad (w s 5)
  issue (form i)
    (fun s =>
      if bad s then .trap 0x06 (wordVal s 0)
      else
        let rows := (iredRows s d.toNat a.toNat).map (·.2)
        (footVerdict s ((rows.filter fun x => x % 4 != 0 || x / 1024 != (x + rb s - 1) / 1024) ++ cwMis (w s 5))
          ((groups s).map (fun g => { va := w s 4 + g * rb s, n := rb s, off := 0 }) ++ cwRun (w s 5))
          (rows.map fun x => { va := x, n := rb s, off := 0 }) (vaCheck s s.cur.tk false)).andThen
        ((if rel s then releaseVerdict s else .go).andThen (countHold s 4)))
    (fun s0 =>
      if (groups s0).isEmpty then s0 else
      let (inst, s) := (closeFences s0).newId
      let rows := iredRows s d.toNat a.toNat
      let cmd (g id : Nat) : Cmd := {
        id := id, inst := inst, tk := s.cur.tk, core := s.ct.core, grp := s.ct.grp, kind := .ired m, cw := BitVec.ofNat 32 (w s 5)
        bytes := rb s, path := 4, acq := acq s, rel := rel s, scope := scope s, typ := nb (w s 3) 28 4, op := nb (w s 3) 24 4
        dst := lmKey s s.ct (w s 4 + g * rb s)
        work := (rows.filter (·.1 / 16 == g)).flatMap fun r =>
          ((List.range (rb s / 4)).map fun j =>
            let ia := (vaCheck s s.cur.tk false (r.2 + 4 * j)).2
            if m then .raw ia 4 else .rd (.mem ia) 4) ++ [.comb] }
      let (s', ms) := (groups s).foldl (fun (p : State × List Cmd) g =>
        let (id, s) := p.1.newId
        (s, p.2 ++ [cmd g id])) (s, [])
      postIred s' s'.ct.core inst s'.cur.tk ms) s

/-! ## Requests to tables and caches (R205, R206, R235, R260) -/

/-- A request of the current team: it counts on `en`. -/
def request (s : State) (dom dreg : Nat) (k : RKind) : State :=
  let s := closeFences s
  let (id, s) := s.newId
  let s := inflInc s s.cur.tk 4
  { s with reqs := Tbl.set s.reqs id { id := id, tk := s.cur.tk, dom := dom, grp := s.ct.grp, dreg := dreg, kind := k } }

/-- An interval of VAs cut at the 64 KiB pages. -/
def pageRuns (va n : Nat) : List (Nat × Nat) :=
  if n = 0 then []
  else
    let a := va / 65536 * 65536
    (List.range ((va % 65536 + n + 65535) / 65536)).map fun i =>
      let lo := max va (a + 65536 * i)
      (lo, min (va + n) (a + 65536 * (i + 1)) - lo)

/-- VCLEAN, VINVAL and VCFLUSH (R205). -/
def vcmInstr (i : Instr) (op : Nat) (d a : BitVec 8) (s : State) : Host.Outcome State Fault Refusal :=
  let va (s : State) := s.now.rdU a.toNat 2
  let runs (s : State) := pageRuns (va s) (s.now.rdU d.toNat 1)
  issue (form i)
    (fun s => if (runs s).any fun r => (vaCheck s s.cur.tk false r.1).1 == 0x11 then .trap 0x11 (va s) else countHold s 4)
    (fun s => request s (domOf s.ct.core) 248
      (.vcm op ((runs s).map fun r => ((vaCheck s s.cur.tk false r.1).2, r.2)))) s

/-- The image VA of a table instruction (R260): the traps, and the IA. -/
def imageVerdict (s : State) (va size : Nat) : Verdict :=
  if va % size != 0 then .trap 0x07 va
  else match vaCheck s s.cur.tk false va with
    | (0, _) => countHold s 4
    | (c, _) => .trap c va

/-- A table instruction that reads an image. -/
def imageInstr (i : Instr) (d a : BitVec 8) (size : Nat) (k : State → Nat → RKind) (s : State) : Host.Outcome State Fault Refusal :=
  let va (s : State) := s.now.rdU a.toNat 2
  issue (form i) (fun s => imageVerdict s (va s) size)
    (fun s => request s (domOf s.ct.core) d.toNat (k s (vaCheck s s.cur.tk false (va s)).2)) s

/-- Whether a page IA and a count break R265. -/
def pageIaBad (ia n : Nat) : Bool :=
  decide (2 ^ 52 ≤ ia) || decide (72 ≤ iaHome ia) || ia % 65536 != 0 || decide (fleetBase < iaOff ia + 65536 * n)

/-- R227: Queues a strided copy-engine command. -/
def execCopy (d : BitVec 8) (a : BitVec 8) (r : BitVec 1) (e : BitVec 1) (sc : BitVec 3) (m : BitVec 1) (n : BitVec 1) (f : BitVec 1) (s : State) : Host.Outcome State Fault Refusal :=
  copyInstr (.copy d a r e sc m n f) .plain d a (r == 1) (e == 1) (m == 1) (n == 1) (f == 1) sc.toNat [] s

/-- R228: Queues a masked row-gather copy that packs the selected rows. -/
def execCopyg (d : BitVec 8) (a : BitVec 8) (r : BitVec 1) (e : BitVec 1) (sc : BitVec 3) (m : BitVec 1) (n : BitVec 1) (f : BitVec 1) (s : State) : Host.Outcome State Fault Refusal :=
  copyInstr (.copyg d a r e sc m n f) .gather d a (r == 1) (e == 1) (m == 1) (n == 1) (f == 1) sc.toNat [] s

/-- R229: Queues a broadcast fetch to the cores of the quad that the mask names. -/
def execCopyb (d : BitVec 8) (a : BitVec 8) (r : BitVec 1) (sc : BitVec 3) (m : BitVec 4) (s : State) : Host.Outcome State Fault Refusal :=
  copyInstr (.copyb d a r sc m) .bcast d a (r == 1) false false true false sc.toNat ((List.range 4).filter m.getLsbD) s

/-- R231: Indexed reduction read through the memory-side reduce units. -/
def execIredM (d : BitVec 8) (a : BitVec 8) (s : State) : Host.Outcome State Fault Refusal :=
  iredInstr (.iredM d a) true d a s

/-- R232: Coherent indexed reduction at the home's atomic units. -/
def execIredC (d : BitVec 8) (a : BitVec 8) (s : State) : Host.Outcome State Fault Refusal :=
  iredInstr (.iredC d a) false d a s

/-- R235: Launches a sowing from eight launch words and returns a status and identifier. -/
def execSow (d : BitVec 8) (a : BitVec 8) (r : BitVec 1) (sc : BitVec 3) (s : State) : Host.Outcome State Fault Refusal :=
  issue (form (.sow d a r sc)) (fun s => (if r == 1 then releaseVerdict s else .go).andThen (countHold s 4))
    (fun s =>
      let ws := (List.range 8).map fun k => BitVec.ofNat 32 (s.now.rdU (a.toNat + k) 1)
      let ws := ws ++ [if s.ct.priv then 1 else 0]   -- a ninth word: whether the team is privileged
      let s := request s (domOf s.ct.core) d.toNat (.sow ws (if r == 1 then some sc.toNat else none))
      -- SOW with REL acts as FENCE.REL directly followed by the launch
      if r == 1 then s.modCt fun t => { t with fences := t.fences ++ [⟨true, sc.toNat, t.grp⟩] } else s) s

/-- R205: Writes back the dirty virtual-cache lines of an interval. -/
def execVclean (d : BitVec 8) (a : BitVec 8) (s : State) : Host.Outcome State Fault Refusal :=
  vcmInstr (.vclean d a) 0 d a s

/-- R205: Drops every cached line of an interval without write-back. -/
def execVinval (d : BitVec 8) (a : BitVec 8) (s : State) : Host.Outcome State Fault Refusal :=
  vcmInstr (.vinval d a) 1 d a s

/-- R205: Writes back, then drops, every cached line of an interval. -/
def execVcflush (d : BitVec 8) (a : BitVec 8) (s : State) : Host.Outcome State Fault Refusal :=
  vcmInstr (.vcflush d a) 2 d a s

/-- R206: Reports how a page is cached. -/
def execVcquery (d : BitVec 8) (a : BitVec 8) (s : State) : Host.Outcome State Fault Refusal :=
  let va (s : State) := s.now.rdU a.toNat 2
  issue (form (.vcquery d a))
    (fun s => match vaCheck s s.cur.tk false (va s) with
      | (0, _) => countHold s 4
      | (c, _) => .trap c (va s))
    (fun s => request s (domOf s.ct.core) d.toNat (.vcquery (vaCheck s s.cur.tk false (va s)).2)) s

/-- R262: Defines or retires a virtual cache from a 64-byte image. -/
def execVcdef (d : BitVec 8) (a : BitVec 8) (s : State) : Host.Outcome State Fault Refusal :=
  imageInstr (.vcdef d a) d a 64 (fun _ ia => .vcdef ia) s

/-- R263: Starts a live migration of a virtual cache to a new geometry. -/
def execVcresize (d : BitVec 8) (a : BitVec 8) (s : State) : Host.Outcome State Fault Refusal :=
  imageInstr (.vcresize d a) d a 64 (fun _ ia => .vcresize ia) s

/-- R264: Writes one range-set entry of a sowing. -/
def execRgset (d : BitVec 8) (a : BitVec 8) (s : State) : Host.Outcome State Fault Refusal :=
  imageInstr (.rgset d a) d a 32 (fun s ia => .rgset ia (BitVec.ofNat 32 (s.now.rdU d.toNat 1)) (BitVec.ofNat 32 (s.now.rdU (d.toNat + 1) 1))) s

/-- R265: Drops cached translations and hints of pages and replays moving-page waits. -/
def execPtinv (d : BitVec 8) (a : BitVec 8) (s : State) : Host.Outcome State Fault Refusal :=
  let ia (s : State) := s.now.rdU a.toNat 2
  let n (s : State) := s.now.rdU d.toNat 1
  issue (form (.ptinv d a)) (fun s => if pageIaBad (ia s) (n s) then .trap 0x06 (wordVal s 1) else countHold s 4)
    (fun s => request s (domOf s.ct.core) 248 (.ptinv (ia s) (n s))) s

/-- R266: Replays a wait entry by token or page, readying its glean entries and waking its parked loads. -/
def execReplay (d : BitVec 8) (a : BitVec 8) (s : State) : Host.Outcome State Fault Refusal :=
  let lo (s : State) := s.now.rdU a.toNat 1
  let hi (s : State) := s.now.rdU (a.toNat + 1) 1
  issue (form (.replay d a))
    (fun s => if hi s < 2 ^ 31 && pageIaBad (lo s + 2 ^ 32 * hi s) 1 then .trap 0x06 (wordVal s 1) else countHold s 4)
    (fun s => request s (domOf s.ct.core) d.toNat (.replay (BitVec.ofNat 32 (lo s)) (BitVec.ofNat 32 (hi s)))) s

end Sys2Proof.Machine
end

