-- ==== Sys2Proof/Machine/Matrix.lean ====
section
/-! DEFINITION. The engines at work (R160 to R166, R222, R226, R230, R272): matrix entries, operand fetches and self-tests, and the
starts and credits of engine commands. -/
namespace Sys2Proof.Machine

/-! ## One block of a matrix product (R79, R106, R161, R162) -/

/-- What an entry that has run will write, laid over the window that a later entry reads (R164). -/
def MEnt.layOver (e : MEnt) (t : Team) : Team :=
  if e.kind = 2 then
    let base := if e.d < 0x80 then t.tileBase e.d else t.accBase (e.d - 0x80)
    (List.range e.bytes).foldl (fun t j => t.putByte (base + j) 0) t
  else e.res.foldl (fun t w => { t with win := Tbl.put t.win w.1 w.2 0 }) t

/-- The codes of one row of weights: 64 columns, four trits a byte. -/
def tritRow (bs : List Byte) : List Nat := bs.flatMap fun b => (List.range 4).map fun i => b.toNat / 4 ^ i % 4

/-- The product of R106: what the entry's operands, read now, give. -/
def MEnt.run (e : MEnt) (t : Team) : MEnt :=
  let sa := shapeOf e.tca.toNat
  let sb := shapeOf e.tcb.toNat
  let acts (i : Nat) : List Int := (t.winBytes (t.tileBase e.a + 256 * i) 256).map fun b => b.toInt
  let wbytes := match e.weights with | some w => w.take 4096 | none => t.winBytes (t.tileBase e.b) 4096
  let scales := match e.weights with | some w => w.drop 4096 | none => t.winBytes (t.scaleBase sb) 64
  let codes := (List.range 256).map fun k => tritRow ((wbytes.drop (16 * k)).take 16)
  let base := t.accBase e.d / 4
  let row (i : Nat) : List (Nat × FR) :=
    let xs := acts i
    let ea := (t.winByte (t.scaleBase sa + i)).toNat
    let ps := (xs.zip codes).foldl (fun (ps : List Int) (p : Int × List Nat) =>
      if p.1 = 0 then ps else (ps.zip p.2).map fun q => q.1 + p.1 * tval q.2) (List.replicate 64 0)
    (ps.zip scales).zipIdx.map fun (p, j) =>
      (base + 64 * i + j, matElem p.1 ea p.2.toNat (Tbl.getD t.win (base + 64 * i + j) 0).toNat)
  let rs := (List.range 32).flatMap row
  { e with
    res := rs.map fun r => (r.1, BitVec.ofNat 32 r.2.1)
    flags := rs.foldl (fun a r => a ||| r.2.2) 0
    tfmt := codes.any fun l => l.contains 2 }

/-! ## The matrix FIFO (R160 to R165) -/

def MSt.waits (m : MSt) : Bool := match m with | .started _ => false | _ => true
def setEntry (s : State) (core : Nat) (e : MEnt) : State :=
  s.modCore core fun c => { c with fifo := c.fifo.map fun x => if x.id == e.id then e else x }

/-- A quad's reservations without those that a test names (R342). -/
def dropResv (s : State) (quad : Nat) (f : Requester → Bool) : State :=
  s.modQuad quad fun q => { q with resv := q.resv.filter fun r => !f r.who }

/-- A granted reservation comes into use: it is free again from a cycle of its core's clock on (R342). -/
def useResv (s : State) (quad : Nat) (w : Requester) (till : Nat) : State :=
  s.modQuad quad fun q => { q with resv := q.resv.map fun r => if r.who == w && r.granted && r.till.isNone then { r with till := some till } else r }

/-- Whether a reservation holds its units: from its grant, which starts a matrix entry's run, to the end of its use, and for a copy command for its
chunk. -/
def Resv.holds (s : State) (r : Resv) : Bool :=
  r.granted && (match r.till with | some t => decide ((s.core r.core).cyc < t) | none => true)
    && (match r.who with | .copy _ id => (Tbl.find? s.cmds id).any (·.left != 0) | _ => true)

/-- Whether a reservation not yet in use still has its requester. -/
def Resv.wanted (s : State) (r : Resv) : Bool :=
  match r.who with
  | .matrix core id => (s.core core).fifo.any (·.id == id)
  | .copy _ id => (Tbl.find? s.cmds id).isSome
  | .vector tk => (s.team tk).st == .ready && (s.plot (pidOf tk)).st == .bound

/-- The reservations that are over are forgotten. -/
def pruneResv (s : State) (quad : Nat) : State := s.modQuad quad fun q => { q with
  resv := q.resv.filter fun r => (!r.granted || r.holds s) && (r.till.isSome || r.wanted s) }

/-- Whether an entry needs reservation units for its run: a product (R342); one whose weights did not come does not run (R162). -/
def MEnt.draws (e : MEnt) : Bool := e.kind == 0 || (e.kind == 1 && e.code == 0)

/-- The oldest entry of a core's FIFO that has not started, if only its reservation could keep it from starting, and the entries before it that
are in the engine: at most one earlier product is still being checked. An entry whose credit is on its way has left the engine. -/
def matReady (s : State) (core : Nat) : Option (MEnt × List MEnt) :=
  let c := s.core core
  let before := c.fifo.takeWhile fun e => !e.st.waits
  match c.fifo.drop before.length with
  | [] => none
  | e :: _ =>
    let before := before.filter fun b => !s.credits.any (·.inst == b.id)
    if (e.kind == 1 && e.weights.isNone && e.code == 0) || 2 < before.length || 1 < (before.filter (·.kind != 2)).length then none
    else some (e, before)

/-- That entry starts, once its reservation is granted. -/
def matStart (s : State) (core : Nat) : State :=
  match matReady s core with
  | none => s
  | some (e, before) =>
    if e.draws && !e.granted then s
    else
      let subs := 4 - (s.core core).subF.length
      let (s, e') := if e.st == .redo || e.kind = 2 || e.code != 0 then (s, e)
        else
          let p := readWin s e.tk e.grp e.was true
          (p.1, e.run ((before.filter (·.tk == e.tk)).foldl (fun t b => b.layOver t) p.2))
      let s := setEntry s core { e' with st := .started subs }
      let busy := if e.kind = 2 then 4 else if e.code != 0 then 0 else if subs = 4 then 32 else 43
      let from_ := (s.core core).cyc - (s.core core).cbase
      useResv (s.modQuad (quadOf core) fun q => if busy = 0 then q else { q with mruns := q.mruns ++ [(from_, from_ + busy)] })
        (quadOf core) (.matrix core e.id) ((s.core core).cyc + busy)

/-- The operand fetch of a TMMAF among the first two entries is raised, if the copy engine's queue has room (R162). -/
def matFetch (s : State) (core : Nat) : State :=
  let c := s.core core
  match (c.fifo.take 2).find? fun e => e.kind == 1 && e.fetch.isNone && e.code == 0 with
  | none => s
  | some e =>
    if 32 ≤ c.copyQ.length then s
    else
      let (id, s) := s.newId
      let s := setCmd s {
        id := id, inst := e.id, tk := e.tk, core := core, grp := 0, kind := .wfetch, cw := 0, bytes := 4160, path := 4
        work := e.spec, acc := some (List.replicate 4160 0) }
      (setEntry s core { e with fetch := some id }).modCore core fun c => { c with copyQ := c.copyQ ++ [id] }

/-- The completion of the entry at the head: its target is credited, with the flags of its product (R161); its place is free once the credit
lands (R160). -/
def matCredit (s : State) (core : Nat) (e : MEnt) : State :=
  let s := pmcAdd s core 0x0A 1
  let cw := e.cw.toNat
  creditTo s e.tk cw e.bytes e.code none 4 e.id 0 (some core) [cwKey s e.tk cw] (e.flags + if e.tfmt then 2 ^ 5 else 0)

/-- The self-test of the oldest entry ends (R165); `bad` names the sub-arrays that failed. -/
def matCheck (s : State) (core : Nat) (bad : List Nat) : State :=
  let c := s.core core
  match c.fifo with
  | [] => s
  | e :: _ =>
    if e.st.waits || e.kind = 2 || s.credits.any (·.inst == e.id) then s
    else if e.code != 0 then matCredit s core e
    else
      let bad := (bad.filter fun b => decide (b < 4) && !c.subF.contains b).eraseDups
      match bad with
      | [] =>
        let base := (s.team e.tk).accBase e.d
        matCredit (engineWrite s e.tk e.cw.toNat e.id 4 e.grp true e.was base (e.res.flatMap fun r => toBytes r.2.toNat 4)) core e
      | [b] =>
        if !c.subF.isEmpty then fenceColumn s (domOf core) (core % 48 / 4)
        else errorTrip <| (tellController s (domOf core) [0, core, b]).modCore core fun c => { c with
          subF := [b]
          fifo := c.fifo.map fun x =>
            if x.id == e.id then { x with st := .redo, granted := false }
            else if x.st.waits then x else { x with st := .queued, granted := false, res := [] } }
      | _ => fenceColumn s (domOf core) (core % 48 / 4)

/-- A TZERO at the head that has run writes its zeros and is credited (R155). -/
def tzeroDone (s : State) (core : Nat) : State :=
  match (s.core core).fifo with
  | [] => s
  | e :: _ =>
    if e.st.waits || e.kind != 2 || s.credits.any (·.inst == e.id) then s
    else
      let t := s.team e.tk
      let base := if e.d < 0x80 then t.tileBase e.d else t.accBase (e.d - 0x80)
      matCredit (engineWrite s e.tk e.cw.toNat e.id 4 e.grp (decide (0x80 ≤ e.d)) e.was base (List.replicate e.bytes 0)) core e

/-! ## The copy engine (R222, R226) -/

def queueCmds (s : State) (ids : List Nat) : List Cmd := ids.filterMap fun i => Tbl.find? s.cmds i

/-- The oldest command of the queue that has not started starts, while fewer than four are in flight. -/
def copyStart (s : State) (core : Nat) : State :=
  let q := queueCmds s (s.core core).copyQ
  if 4 ≤ (q.filter (·.started)).length then s
  else match q.find? fun m => !m.started with
    | none => s
    | some m =>
      let s := setCmd s { m with started := true }
      if m.acq && decide (3 ≤ m.scope) then emptyInvq s (domOf core) else s

/-- Whether a command's work is done, and its release, if it makes one, has performed. -/
def cmdDone (s : State) (m : Cmd) : Bool :=
  m.work.isEmpty && m.tok == 0 && (m.started || (match m.kind with | .ired _ => true | _ => false))
    && (!(m.rel || m.kind == .tst) || decide (m.scope < 3) || invsDone s m.tk m.grp)

def endCmd (s : State) (m : Cmd) : State := { s with cmds := Tbl.erase s.cmds m.id }

/-- A command of the copy engine is credited; COPYG writes its packed count unless it stopped: codes 0x06 and 0x07 stop nothing
(R225, R228). One that a fault stopped leaves the packed count as it was, which R226 and R228 do not say (log entry 25). -/
def copyDone (s : State) (core id : Nat) : State :=
  match Tbl.find? s.cmds id with
  | none => s
  | some m =>
    if m.core != core || !m.chunked || !cmdDone s m then s
    else
      let s := endCmd s m
      let s := s.modCore core fun c => { c with
        l1 := c.l1.filter fun l => !m.l1inv.contains (l.base / 128), copyQ := c.copyQ.filter (· != id) }
      let s := dropResv s (quadOf core) fun w => w == .copy core id
      let s := if m.rel then releaseBy s m.tk core m.scope m.grp 0 else s
      let s := match m.kind with
        | .wfetch => match (s.core core).fifo.find? (·.id == m.inst) with
          | some e => setEntry s core { e with weights := m.acc, code := m.code }
          | none => s
        | k =>
          let cw := m.cw.toNat
          let keys := if k == .copyb then ((List.range 4).filter m.mask.testBit).map fun j => cwKey s m.tk (cw + 2 ^ 19 * j)
            else [cwKey s m.tk cw]
          creditTo (pmcAdd s core 0x09 (m.bytes * keys.length)) m.tk cw m.bytes m.code
            (if m.code = 0 || 6 ≤ m.code then m.packed else none) 4 m.inst (if m.rel then m.scope else 0) none keys
      pumpCopy s core (s.core core).stallC.length

/-- A tile transfer is credited (R157). -/
def transferDone (s : State) (id : Nat) : State :=
  match Tbl.find? s.cmds id with
  | none => s
  | some m =>
    if !(m.kind == .tld || m.kind == .tst) || !cmdDone s m then s
    else creditTo (endCmd s m) m.tk m.cw.toNat m.bytes m.code none m.path m.inst 0 none [cwKey s m.tk m.cw.toNat]

/-- One command of an indexed reduction writes its row and is credited (R230). -/
def iredDone (s : State) (core id : Nat) : State :=
  match Tbl.find? s.cmds id with
  | none => s
  | some m => match m.kind with
    | .ired _ =>
      if m.core != core || !cmdDone s m || !(s.core core).iredQ.contains m.inst then s
      else
        let n := if m.typ = 1 then m.bytes / 2 else m.bytes / 4
        let sum := match m.acc with
          | some bs => (List.range n).map fun j => ofBytes ((bs.drop (4 * j)).take 4)
          | none => List.replicate n (combIdent m.typ m.op)
        let s := endCmd s m
        let s := if m.code = 0 then spmWrite s m.dst (ofBytes (narrowRow m.typ sum)) m.bytes else s
        let s := if m.rel then releaseBy s m.tk core m.scope m.grp 0 else s
        let s := if (Tbl.vals s.cmds).any (·.inst == m.inst) then s
          else s.modCore core fun c => { c with iredQ := c.iredQ.filter (· != m.inst) }
        let s := creditTo s m.tk m.cw.toNat m.bytes m.code none 4 m.inst (if m.rel then m.scope else 0) none [cwKey s m.tk m.cw.toNat]
        pumpIred s core (s.core core).stallI.length
    | _ => s

/-- A credit on its way reaches its barrier; those of one matrix engine keep their order (R160, R272). -/
def barrierCredit (s : State) (i : Nat) : State :=
  match s.credits[i]? with
  | none => s
  | some c => if c.mx.isSome && (s.credits.take i).any fun b => b.mx == c.mx then s else creditLands s c

/-- R160: The head matrix FIFO entry starts once the engine is free, its reservation is granted and, for TMMAF, its weights have landed. Reads a, the core. -/
def execMatrixEntryStart (s : State) : Host.Outcome State Fault Refusal :=
  ev (fun x s => matStart s x.a) s

/-- R162: A TMMAF entry that becomes one of the first two in the FIFO raises a 4,160-byte weight fetch on the copy-engine queue. Reads a, the core. -/
def execTmmafOperandFetch (s : State) : Host.Outcome State Fault Refusal :=
  ev (fun x s => matFetch s x.a) s

/-- R165: The post-operation self-test finishes, and the accumulator is written and credited, or the failure path runs. Reads a, the core, and us, the sub-arrays that failed. -/
def execMatrixCheck (s : State) : Host.Outcome State Fault Refusal :=
  ev (fun x s => matCheck s x.a x.us) s

/-- R155: A TZERO entry finishes its 4 engine cycles, writes zero and credits its completion target. Reads a, the core. -/
def execTzeroCredit (s : State) : Host.Outcome State Fault Refusal :=
  ev (fun x s => tzeroDone s x.a) s

/-- R222: The copy engine starts the next queued command, keeping up to four in flight. Reads a, the core. -/
def execCopyCommandStart (s : State) : Host.Outcome State Fault Refusal :=
  ev (fun x s => copyStart s x.a) s

/-- R226: A copy-engine command finishes or stops at a fault and credits its full count to its completion target. Reads a, the core, and b, the command. -/
def execCopyCommandCredit (s : State) : Host.Outcome State Fault Refusal :=
  ev (fun x s => copyDone s x.a x.b) s

/-- R157: A tile transfer has performed all its sectors, or stopped at a fault, and credits its completion target. Reads a, the transfer. -/
def execTileTransferCredit (s : State) : Host.Outcome State Fault Refusal :=
  ev (fun x s => transferDone s x.a) s

/-- R230: An indexed-reduce command writes its output row and credits RBYTES. Reads a, the core, and b, the command. -/
def execIredCommandCredit (s : State) : Host.Outcome State Fault Refusal :=
  ev (fun x s => iredDone s x.a x.b) s

/-- R272: A credit adds bytes to a byte barrier's ARRIVED at its bank, records any fault and tests for phase completion. Reads a, the place of the credit among those on their way. -/
def execBarrierCredit (s : State) : Host.Outcome State Fault Refusal :=
  ev (fun x s => barrierCredit s x.a) s

end Sys2Proof.Machine
end

