-- ==== Sys2Proof/Machine/Services.lean ====
section
/-! DEFINITION. The requests that caches, tables and the dispatcher serve: cache maintenance and queries (R205, R206), the table
instructions (R253 to R266, R362), sweeps (R257, R258), and launches (R233 to R235, R288, R290, R347). -/
namespace Sys2Proof.Machine

/-- A request is answered: its results are written, it leaves, and en falls. -/
def answer (s : State) (r : Req) (ws : List (Slot × Nat)) : State :=
  let s := commit s r.tk r.grp (ws.filter fun w => !r.dropped.any fun b => b.covers w.1)
  inflDec { s with reqs := Tbl.erase s.reqs r.id } r.tk 4

/-- Whether the stores that a team made before a request have performed, and those in the glean log that meet intervals of IAs (R205,
R210, R260). -/
def storesDone (s : State) (r : Req) (segs : List (Nat × Nat)) : Bool :=
  ((earlier s r.tk r.grp).all fun a => !a.kind.stores || a.performed)
    && (Tbl.vals s.cmds).all (fun c => !(c.tk == r.tk && decide (c.grp < r.grp) && c.kind == .tst))
    && (gleanOf s r.tk).all fun g => !(decide (g.grp < r.grp) && segs.any fun q => decide (g.block * 64 < q.1 + q.2) && decide (q.1 < g.block * 64 + 64))

/-! ## Cache maintenance (R205) -/

/-- One piece of an interval that lies in one page: the lines of the home, the directory's copies, the core's L1. -/
def vcmRun (s : State) (op core tk ia n : Nat) : State :=
  if iaNode ia != 0 || 72 ≤ iaHome ia || fleetBase ≤ iaOff ia then s
  else
    let d := iaHome ia
    match pageOf s d ia true with
    | (s, .local_ _ _ _) =>
      let hit (l : Line) : Bool := !l.remote && decide (l.base < ia + n) && decide (ia < l.base + l.size)
      let ls := (s.dom d).lines.filter hit
      let s := if op = 1 then s else ls.foldl writeBack s
      let s := s.modDom d fun m => { m with
        lines := if op = 0 then m.lines.map fun (l : Line) => if hit l then { l with dirty := false } else l else m.lines.filter fun l => !hit l }
      if op = 0 then s
      else
        let blocks := ((s.dom d).dir.filter fun e => decide (256 * e.block < ia + n) && decide (ia < 256 * e.block + 256)).map (·.block)
        let s := blocks.foldl (fun s b => dirWrite s d b tk 0 none) s
        s.modCore core fun c => { c with l1 := c.l1.filter fun l => !(decide (l.base < ia + n) && decide (ia < l.base + 128)) }
    | (s, _) => s

/-- The number under which a request's own invalidations are known. -/
def vcmBy (r : Req) : Nat := 2 ^ 64 + r.id

/-- VCQUERY's result (R206). -/
def vcQuery (s : State) (ia : Nat) : Nat :=
  if nodeIsHost s (iaNode ia) then 2 ^ 6 + 1 * 2 ^ 23 + 3 * 2 ^ 13
  else
    let d := iaHome ia
    let rec_ (e : Nat) : Nat :=
      let vc := nb e 52 6
      let r := Tbl.getD (s.dom d).vcs vc {}
      let isRec := vc != 63 && r.st != 0 && !r.remote
      vc + 2 ^ 6 + nb e 61 2 * 2 ^ 23 + d * 2 ^ 16 + (if isRec then
        2 ^ 7 + r.line * 2 ^ 8 + (popBits r.ways - 1) * 2 ^ 10 + r.policy * 2 ^ 13 + (if r.st = 2 then 2 ^ 15 else 0) else 3 * 2 ^ 13)
    match readLeaf s d (iaOff ia) with
    | .leaf e _ => if (s.dom d).lineMemF || nb e 63 1 = 0 then d * 2 ^ 16 else rec_ e
    | .fault _ => d * 2 ^ 16

/-- A request leaves for another node or a far frame. -/
def sendReq (s : State) (r : Req) (ia : Nat) : State := { s with reqs := Tbl.set s.reqs r.id { r with sent := some (sendOut s ia 0) } }
/-- Whether a VCQUERY has still to leave for the peer that answers it (R206): one that was lost is sent again once 100 µs have passed, since it
never faults (log entry 25). -/
def queryOut (s : State) (r : Req) (ia : Nat) : Bool :=
  iaNode ia != 0 && !nodeIsHost s (iaNode ia) && match r.sent with | none => true | some x => x.lost && expired s r.sent
/-- Whether it is lost, so that no answer comes. -/
def Req.lost (r : Req) : Bool := r.sent.any (·.lost)

/-- A VCLEAN, VINVAL or VCFLUSH acts, and then completes once its invalidations are acknowledged; a VCQUERY is answered. All the lines of the
intervals are acted on in one step, though the rule speaks of the moment at which the instruction reaches each (log entry 25). -/
def vcmAct (s : State) (id ext : Nat) : State :=
  match Tbl.find? s.reqs id with
  | none => s
  | some r => match r.kind with
    | .vcm op segs =>
      if r.acted then (if s.invs.any fun v => v.isOf (vcmBy r) fun _ => true then s else answer s r [])
      else if !storesDone s r segs then s
      else
        let s := segs.foldl (fun s q => vcmRun s op (s.team r.tk).core (vcmBy r) q.1 q.2) s
        { s with reqs := Tbl.set s.reqs id { r with acted := true } }
    | .vcquery ia =>
      if queryOut s r ia then sendReq s r ia else
      if r.lost then s else
      let v := if iaNode ia != 0 && !nodeIsHost s (iaNode ia) then ext % 2 ^ 25 else vcQuery s ia
      let walk (s : State) : State := if iaNode ia != 0 then s else (readTables s (iaHome ia) (iaOff ia)).1.foldl (fun s k => touchMiss s (iaHome ia) k) s
      answer (walk s) r (wrU r.dreg 1 v)
    | _ => s

/-! ## Images (R260) -/

/-- Whether a store of the request's core that has performed at .core still has some of n bytes to write, or a store of its team is logged (R209). -/
def coreAhead (s : State) (r : Req) (ia n : Nat) : Bool :=
  let core := (s.team r.tk).core
  queuedAhead s core (fun _ => true) (.ia ia) n || gleanAhead s core r.tk r.grp (fun _ => false) (.ia ia) n

/-- One word of a table image, read as ULD.B32.RLX.CORE would: from the core's L1, or beyond it, which fills L1 (R176, R281). -/
def imageLoad (s : State) (r : Req) (ia ext : Nat) : State × HOut :=
  let core := (s.team r.tk).core
  match (if iaNode ia = 0 then l1Read s core ia 4 else none) with
  | some (s, v) => (pmcAdd s core 0x02 1, .ok v)
  | none => match memLoad s r.dom false ia 4 true r.tk r.grp ext with
    | (s, .ok v) =>
      let s := pmcAdd s core 0x03 1
      (match (if iaNode ia = 0 then (pageOf s (iaHome ia) ia true).2 else .far 0) with
        | .local_ _ key _ => fillL1 s core (iaHome ia) ia key
        | _ => s, .ok v)
    | o => o

/-- A table image read in words of 32 bits: `none` where it must be tried again, since an earlier store of the team or the core, or the
directory, holds it. No word is read where its page faults or is moving; 2^32 stands for a word that may not be read. -/
def imageRead (s : State) (r : Req) (ia n ext : Nat) : Option (State × Option (List Nat)) :=
  if !storesDone s r [(ia, 4 * n)] || coreAhead s r ia (4 * n) then none
  else
    let step (p : Option (State × Option (List Nat))) (i : Nat) : Option (State × Option (List Nat)) := match p with
      | some (s, some ws) => match imageLoad s r (ia + 4 * i) (ext / 2 ^ (32 * i)) with
        | (s, .ok v) => some (s, some (ws ++ [v]))
        | (s, .fault _) => some (s, none)
        | (_, .wait) => none
        | _ => some (s, some (ws ++ [2 ^ 32]))
      | p => p
    (List.range n).foldl step (some (s, some []))

/-- A request whose image's page faults or is moving merges into the page's wait entry, once, and waits under its token (R249); while
the table is full it tries again. -/
def imageWait (s : State) (r : Req) (ia : Nat) : State :=
  -- that of a plot that is being stopped is dropped (R333)
  if (s.plot (pidOf r.tk)).st == .stopping then answer s r [] else
  match pageOf s (iaHome ia) ia true with
  | (s, .fault k) => match waitMerge s (iaHome ia) ia k tyRead r.dom true (teamFirst s r.tk 0) with
    | (s, some tok) => { s with reqs := Tbl.set s.reqs r.id { r with tok := tok + 2 ^ 32 * iaHome ia } }
    | (s, none) => s
  | (s, _) => s

/-- 64-bit word k of an image, and whether some word of it may not be read. -/
def imgWord (ws : List Nat) (k : Nat) : Nat := ws.getD (2 * k) 0 % 2 ^ 32 + 2 ^ 32 * (ws.getD (2 * k + 1) 0 % 2 ^ 32)
def imgUnread (ws : List Nat) : Bool := ws.contains (2 ^ 32)

/-! ## Cache definition records (R254 to R263, R362) -/

def domUp (d : Dom) : Bool := d.live && !d.lineMemF
/-- The target domain of an image. -/
def imgDom (r : Req) (ws : List Nat) : Nat := let t := nb (imgWord ws 0) 32 7; if t = 127 then r.dom else t
/-- Whether the target that an image names is unavailable; one whose word may not be read is not known to be (R362). -/
def imgDown (s : State) (r : Req) (ws : List Nat) : Bool :=
  ws.getD 1 0 != 2 ^ 32 && (decide (72 ≤ imgDom r ws) || !domUp (s.dom (imgDom r ws)))
def imgVc (ws : List Nat) : Nat := nb (imgWord ws 7) 32 6
def imgBanks (ws : List Nat) : BitVec 144 := BitVec.ofNat 144 (imgWord ws 1 + 2 ^ 64 * imgWord ws 2 + 2 ^ 128 * imgWord ws 3)
def imgGeo (ws : List Nat) : Geo := ⟨nb (imgWord ws 0) 59 2, BitVec.ofNat 8 (nb (imgWord ws 0) 49 8), imgBanks ws⟩

/-- The fields of an image that R262 requires zero. -/
def imgZero (ws : List Nat) : Bool :=
  nb (imgWord ws 0) 47 2 == 0 && nb (imgWord ws 0) 39 8 == 0 && nb (imgWord ws 0) 0 32 == 0
    && imgWord ws 4 == 0 && imgWord ws 5 == 0 && imgWord ws 6 == 0 && nb (imgWord ws 7) 0 32 == 0 && nb (imgWord ws 7) 38 26 == 0

/-- Whether an image's geometry and policy are invalid: a reserved code, an empty set, a fenced bank, remote with write-back. -/
def imgBadGeo (d : Dom) (ws : List Nat) : Bool :=
  let g := imgGeo ws
  let pol := nb (imgWord ws 0) 57 2
  g.line == 3 || pol == 3 || g.ways == 0 || g.banks == 0 || nb (imgWord ws 3) 16 48 != 0
    || (bankList g.banks).any (fun b => !bankLive d b) || (nb (imgWord ws 0) 61 1 == 1 && pol == 0)

/-- The strips of a geometry. -/
def Geo.strips (g : Geo) : List Nat :=
  (bankList g.banks).flatMap fun b => ((List.range 8).filter fun w => g.ways.getLsbD w).map fun w => 8 * b + w

def owned (d : Dom) (st : Nat) : Bool := (Tbl.getD d.owner st 0).getLsbD 7 || !bankLive d (st / 8)
def claim (d : Dom) (remote : Bool) (vc : Nat) (ss : List Nat) : Dom :=
  { d with owner := ss.foldl (fun o x => Tbl.put o x (BitVec.ofNat 8 (128 + (if remote then 64 else 0) + vc)) 0) d.owner }
def release (d : Dom) (ss : List Nat) : Dom := { d with owner := ss.foldl (fun o x => Tbl.put o x 0 0) d.owner }

/-- VCDEF (R262): the status and the state. -/
def vcDefine (s : State) (r : Req) (ws : List Nat) : State × Nat :=
  let t := imgDom r ws
  let d := s.dom t
  let vc := imgVc ws
  let op := nb (imgWord ws 0) 62 2
  let rec_ := Tbl.getD d.vcs vc {}
  let remote := nb (imgWord ws 0) 61 1 == 1
  if imgDown s r ws then (s, 7)
  else if imgUnread ws || 2 ≤ op || !imgZero ws || (op == 1 && imgBadGeo d ws) then (s, 4)
  else if (op == 1 && vc == 63) || (op == 0 && vc == 0) then (s, 5)
  else if op == 0 && rec_.st == 0 then (s, 6)
  else if rec_.st == 2 || rec_.st == 3 then (s, 3)
  else if op == 0 then (s.modDom t fun m => { m with vcs := Tbl.set m.vcs vc { rec_ with st := 3, sweep := 0 } }, 0)
  else if rec_.st == 1 then (s, 2)
  else
    let g := imgGeo ws
    if g.strips.any (owned d) then (s, 1)
    else (s.modDom t fun m => { claim m remote vc g.strips with
      vcs := Tbl.set m.vcs vc { st := 1, remote := remote, line := g.line, policy := nb (imgWord ws 0) 57 2, ways := g.ways, banks := g.banks } }, 0)

/-- VCRESIZE (R263). -/
def vcResize (s : State) (r : Req) (ws : List Nat) : State × Nat :=
  let t := imgDom r ws
  let d := s.dom t
  let vc := imgVc ws
  let rec_ := Tbl.getD d.vcs vc {}
  if imgDown s r ws then (s, 7)
  else if imgUnread ws || nb (imgWord ws 0) 62 2 != 1 || !imgZero ws || imgBadGeo d ws
      || (nb (imgWord ws 0) 61 1 == 1) != rec_.remote || nb (imgWord ws 0) 57 2 != rec_.policy then (s, 4)
  else if rec_.st == 0 then (s, 6)
  else if rec_.st != 1 then (s, 3)
  else
    let g := imgGeo ws
    let new := g.strips.filter fun x => !rec_.g.strips.contains x
    if new.any (owned d) then (s, 1)
    -- an image equal to G: its migration ends at once
    else if g.line == rec_.line && g.ways == rec_.ways && g.banks == rec_.banks then
      (s.modDom t fun m => { m with
        lines := m.lines.map fun l => if l.vc == vc && l.remote == rec_.remote && l.gen == rec_.gen then { l with gen := (rec_.gen + 1) % 2 ^ 32 } else l
        vcs := Tbl.set m.vcs vc { rec_ with gen := (rec_.gen + 1) % 2 ^ 32 } }, 0)
    else (s.modDom t fun m => { claim m rec_.remote vc new with
      vcs := Tbl.set m.vcs vc { rec_ with st := 2, pline := g.line, pways := g.ways, pbanks := g.banks, sweep := 0 } }, 0)

/-! ## RGSET, PTINV, REPLAY (R264 to R266) -/

def imgRange (ws : List Nat) : Range :=
  { w0 := BitVec.ofNat 64 (imgWord ws 0), w1 := BitVec.ofNat 64 (imgWord ws 1), w2 := BitVec.ofNat 64 (imgWord ws 2), w3 := BitVec.ofNat 64 (imgWord ws 3) }

/-- Whether a reserved bit of a range entry is set (R88, R253). -/
def Range.reserved (r : Range) : Bool :=
  nb r.w0.toNat 36 23 != 0 || nb r.w1.toNat 56 8 != 0 || nb r.w2.toNat 37 27 != 0 || nb r.w3.toNat 36 28 != 0
/-- Whether its IBASE names an assigned node, for a domain. -/
def Range.nodeOk (s : State) (dom : Nat) (r : Range) : Bool := nodeIn s dom (r.ibase / 2 ^ 31)

/-- An entry as the registers hold it: its reserved bits are zero (R88). -/
def Range.masked (r : Range) : Range :=
  let m (w : DWord) (lo n : Nat) : DWord := BitVec.ofNat 64 (w.toNat - nb w.toNat lo n * 2 ^ lo)
  ⟨m r.w0 36 23, m r.w1 56 8, m r.w2 37 27, m r.w3 36 28⟩

/-- RGSET: the status and the state. -/
def rgSet (s : State) (r : Req) (sid rn : Nat) (ws : List Nat) : State × Nat :=
  let sid := if sid = 0 then sidOf r.tk else sid
  let g := imgRange ws
  let homes := (List.range (nb g.w0.toNat 59 3 + 1)).map fun i => nb g.w1.toNat (7 * i) 7
  if (Tbl.find? s.sows sid).isNone then (s, 8)
  else if imgUnread ws || 16 ≤ rn || g.reserved || (g.v && (g.count = 0 || !g.nodeOk s r.dom || (g.w0.getLsbD 62 && homes.any fun h => 72 ≤ h))) then (s, 4)
  else (s.modSow sid fun w => { w with ranges := Tbl.set w.ranges rn g }, 0)

/-- PTINV (R265): translations and hints of the pages go, and waits on moving pages end. -/
def ptInv (s : State) (ia n : Nat) : State :=
  if n = 0 then s else
  let home := iaHome ia
  let p0 := iaOff ia / 2 ^ 16
  let q0 := ia / 2 ^ 16
  let s := s.modDom home fun m => { m with tcache := m.tcache.filter fun c =>
    if c.2.1 then !(decide (32 * c.1 < p0 + n) && decide (p0 < 32 * c.1 + 32)) else !(decide (p0 ≤ c.1) && decide (c.1 < p0 + n)) }
  let s := { s with doms := Tbl.mapV (fun m => { m with hints := m.hints.filter fun h => !(decide (q0 ≤ h.1) && decide (h.1 < q0 + n)) }) s.doms }
  ((s.dom home).wait.filter fun e => e.2.v && e.2.st == 2 && decide (q0 ≤ e.2.page) && decide (e.2.page < q0 + n)).foldl
    (fun s e => replayEntry s home e.1) s

/-- REPLAY (R266): the status and the state. -/
def replayAct (s : State) (lo hi : Nat) : State × Nat :=
  if 2 ^ 31 ≤ hi then
    let home := nb hi 16 7
    if 72 ≤ home || !domUp (s.dom home) then (s, 7)
    else if nb hi 0 16 != 0 || nb hi 23 8 != 0 then (s, 4)
    else match waitTok (s.dom home) lo with
      | some (i, _) => (replayEntry s home i, 0)
      | none => (s, 9)
  else
    let ia := lo + 2 ^ 32 * hi
    let home := iaHome ia
    if !domUp (s.dom home) then (s, 7)
    else
      let es := (s.dom home).wait.filter fun e => e.2.v && e.2.page == ia / 2 ^ 16
      if es.isEmpty then (s, 9) else (es.foldl (fun s e => replayEntry s home e.1) s, 0)

/-- The image that a table instruction reads: its IA, its words, and what the instruction does with them. -/
def imageOf (r : Req) : Option (Nat × Nat × (State → List Nat → State × Nat)) :=
  match r.kind with
  | .vcdef ia => some (ia, 16, fun s ws => vcDefine s r ws)
  | .vcresize ia => some (ia, 16, fun s ws => vcResize s r ws)
  | .rgset ia sid rn => some (ia, 8, fun s ws => rgSet s r sid.toNat rn.toNat ws)
  | _ => none

/-- A table instruction ends with its status. -/
def status (r : Req) (p : State × Nat) : State := answer p.1 r (wrU r.dreg 1 p.2)

/-- Whether the image of a table instruction lies on another node or in a far frame that may be read, and nothing holds the read. -/
def imageOut (s : State) (r : Req) (ia n : Nat) : Bool :=
  r.tok == 0 && (iaNode ia != 0 || (match (pageOf s (iaHome ia) ia true).2 with | .far p => permRead p | _ => false))
    && storesDone s r [(ia, 4 * n)] && !coreAhead s r ia (4 * n)

/-- A table instruction is served (R260). -/
def tableAct (s : State) (id ext : Nat) : State :=
  match Tbl.find? s.reqs id with
  | none => s
  | some r => match imageOf r, r.kind with
    | some (ia, n, f), _ =>
      if r.tok != 0 then s
      else if imageOut s r ia n && r.sent.isNone then sendReq s r ia
      else if imageOut s r ia n && r.lost then s
      else match imageRead s r ia n ext with
      | none => s
      | some (_, none) => imageWait s r ia
      | some (s, some ws) => status r (f s ws)
    | none, .ptinv ia n => answer (ptInv s ia n) r []
    | none, .replay lo hi => status r (replayAct s lo.toNat hi.toNat)
    | none, _ => s

/-- A peer or host refuses the image of a table instruction, or does not answer for 100 µs: no word of it may be read (R186, R261, R326). -/
def refuseImage (s : State) (id : Nat) : State :=
  match Tbl.find? s.reqs id with
  | none => s
  | some r => match imageOf r with
    | none => s
    | some (ia, n, f) =>
      if !imageOut s r ia n || r.sent.isNone || (r.lost && !expired s r.sent) then s
      else status r (f s (List.replicate n (2 ^ 32)))

/-- A replay message of a fabric node: its words are those of REPLAY; the status is its answer (R345). -/
def replayMsg (x : Input) (s : State) : State :=
  let lo := (x.words.getD 0 0).toNat
  let hi := (x.words.getD 1 0).toNat
  let (s, st) := if hi < 2 ^ 31 && (decide (2 ^ 52 ≤ lo + 2 ^ 32 * hi) || decide (72 ≤ iaHome (lo + 2 ^ 32 * hi)) || lo % 65536 != 0) then (s, 4) else replayAct s lo hi
  reply s x [st]

/-! ## Sweeps (R257 to R259) -/

/-- The lines of a record's current geometry. -/
def oldLines (d : Dom) (vc : Nat) (r : VcRec) : List Line := d.lines.filter fun l => l.vc == vc && l.remote == r.remote && l.gen == r.gen

/-- The bank and set that the sweeper visits next: bank by bank, sets ascending. -/
def sweepAt (r : VcRec) : Option (Nat × Nat) :=
  let sets := 65536 / r.g.size
  ((bankList r.banks)[r.sweep / sets]?).map fun b => (b, r.sweep % sets)

/-- One set swept: with equal line sizes a line moves into G' if its set has room there, as recently used as it was; otherwise it is written back if dirty,
and dropped. A retiring record's lines are written back and dropped. -/
def sweepLine (s : State) (d vc : Nat) (r : VcRec) (l : Line) : State :=
  let s0 := dropLine s d l
  let out (s : State) : State := writeBack s l
  if r.st = 2 && r.line == r.pline then
    match r.g'.place (s.dom d) l.base with
    | none => out s0
    | some (b, st) =>
      let gen := (r.gen + 1) % 2 ^ 32
      let set := (s.dom d).lines.filter fun x => x.remote == l.remote && x.vc == vc && x.gen == gen && x.bank == b && x.set == st
      if set.length < popBits r.pways then s.modDom d fun m => { m with lines := m.lines.map fun x => if x.same l then { l with gen := gen, bank := b, set := st } else x }
      else out s0
  else out s0

/-- A dirty line of a domain is written back at a moment of the part's own (R220), and kept clean. -/
def cleanLine (s : State) (d vc ia : Nat) : State :=
  match findLine (s.dom d) false vc (Tbl.getD (s.dom d).vcs vc {}).gen ia with
  | some l => (writeBack s l).modDom d fun m => { m with lines := m.lines.map fun x => if x.same l then { x with dirty := false } else x }
  | none => s

/-- The sweeper visits the next set of a record that migrates or retires. In one that is active it writes a dirty line back. -/
def sweepStep (s : State) (d vc ia : Nat) : State :=
  let r := Tbl.getD (s.dom d).vcs vc {}
  if r.st < 2 then cleanLine s d vc ia
  else match sweepAt r with
    | none => s
    | some (b, st) =>
      let ls := (oldLines (s.dom d) vc r).filter fun l => l.bank == b && l.set == st
      let s := ls.foldl (fun s l => sweepLine s d vc r l) s
      s.modDom d fun m => { m with vcs := Tbl.set m.vcs vc { r with sweep := r.sweep + 1 } }

/-- The sweep ends once G holds no line: the record takes its new geometry, or is free, and strips are released. -/
def sweepEnd (s : State) (d vc : Nat) : State :=
  let r := Tbl.getD (s.dom d).vcs vc {}
  if r.st < 2 || !(oldLines (s.dom d) vc r).isEmpty then s
  else if r.st = 2 then
    let gone := r.g.strips.filter fun x => !r.g'.strips.contains x
    s.modDom d fun m => { release m gone with vcs := Tbl.set m.vcs vc { r with
      st := 1, line := r.pline, ways := r.pways, banks := r.pbanks, pline := 0, pways := 0, pbanks := 0, sweep := 0, gen := (r.gen + 1) % 2 ^ 32 } }
  else s.modDom d fun m => { release m r.g.strips with vcs := Tbl.erase m.vcs vc }

/-! ## Launches (R233 to R235, R288, R347) -/

/-- The fields of the launch words. -/
structure Launch where
  entry : Nat
  teams : Nat
  lanes : Nat
  count : Nat
  hstep : Nat
  hint : Nat
  cls : Nat
  chk : Bool
  loam : Bool
  cores : Bool
  restart : Bool
  wcaddr : Nat
  wcthr : Nat

def launchOf (ws : List Word) : Launch :=
  let w (i : Nat) := (ws.getD i 0).toNat
  { entry := w 0 + 2 ^ 32 * w 1, teams := nb (w 2) 16 4 + 1, lanes := nb (w 2) 0 10 + 1, count := w 3, hstep := nb (w 4) 24 8
    hint := nb (w 4) 16 7, cls := nb (w 4) 12 2, chk := nb (w 4) 3 1 == 1, loam := nb (w 4) 2 1 == 1, cores := nb (w 4) 1 1 == 1
    restart := nb (w 4) 0 1 == 1, wcaddr := w 5 + 2 ^ 32 * w 6, wcthr := w 7 }

def launchReserved (ws : List Word) : Bool :=
  let w (i : Nat) := (ws.getD i 0).toNat
  nb (w 2) 20 12 != 0 || nb (w 2) 10 6 != 0 || nb (w 4) 23 1 != 0 || nb (w 4) 14 2 != 0 || nb (w 4) 4 8 != 0

/-- The fields of a kernel header (R234). -/
structure Header where
  regs : Nat
  unif : Nat
  teams : Nat
  furr : Nat
  tiles : Nat
  lmem : Nat                    -- bytes
  loam : Bool
  nacc : Nat
  vwv : Nat
  vwt : Nat
  vwa : Nat

def headerOf (ws : List Word) : Header :=
  let w (i : Nat) := (ws.getD i 0).toNat
  { regs := nb (w 0) 24 8, unif := nb (w 0) 16 8, teams := nb (w 0) 12 4 + 1, furr := nb (w 0) 8 4 + 1, tiles := nb (w 0) 3 5
    lmem := 256 * nb (w 1) 8 12, loam := nb (w 1) 4 1 == 1, nacc := nb (w 1) 0 4
    vwv := 256 * nb (w 2) 0 13, vwt := 256 * nb (w 3) 0 13, vwa := 256 * nb (w 4) 0 13 }

/-- The window size of a kernel (R78). -/
def Header.wsize (h : Header) : Nat :=
  let e1 := if h.regs = 0 then 0 else h.vwv + 256 * h.furr * h.regs
  let e2 := if h.tiles = 0 then 0 else h.vwt + 8192 * h.tiles
  let e3 := if h.nacc = 0 then 0 else h.vwa + 8192 * h.nacc
  (max e1 (max e2 e3) + 255) / 256 * 256

/-- Whether a header breaks its limits, or R78, or has a reserved bit set. -/
def headerBad (ws : List Word) : Bool :=
  let w (i : Nat) := (ws.getD i 0).toNat
  let h := headerOf ws
  nb (w 0) 0 3 != 0 || nb (w 1) 20 12 != 0 || nb (w 1) 5 3 != 0 || nb (w 2) 13 19 != 0 || nb (w 3) 13 19 != 0 || nb (w 4) 13 19 != 0
    || w 5 != 0 || w 12 != 0 || w 13 != 0 || w 14 != 0 || w 15 != 0
    || (if h.loam then decide (262144 < h.lmem)
      else h.regs == 0 || decide (240 < h.regs) || h.unif == 0 || decide (160 < h.unif) || decide (16 < h.tiles) || decide (8 < h.nacc)
        || decide (524288 < h.lmem) || decide (1572864 < h.wsize))

/-- Where a launch's header and range image lie: the IA of byte `off` of the header, or of the range image, whose VA is `va`. -/
abbrev Images := Bool → Nat → Nat → Option Nat

/-- n words of 32 bits of the header or the range image as the dispatcher reads them; none where they cannot be read. -/
def dispRead (s : State) (tr : Images) (img : Bool) (va : Nat) : Nat → Option (List Word)
  | 0 => some []
  | n + 1 => match dispRead s tr img va n, (tr img va (4 * n)).bind (readWord s (va + 4 * n)) with
    | some ws, some w => some (ws ++ [BitVec.ofNat 32 w])
    | _, _ => none

/-- What a launch is judged on: the header and the ranges. -/
structure Kernel where
  hdr : List Word
  ranges : Tbl Range

/-- The header and the range image of a launch, read where `tr` says (log entry 6). -/
def kernelOf (s : State) (entry : Nat) (tr : Images) : Option Kernel :=
  if !(([4, 8, 12] : List Nat).contains (entry % 16)) || entry < 64 then none
  else match dispRead s tr false (entry / 16 * 16 - 64) 16 with
    | none => none
    | some hdr =>
      let rva := (hdr.getD 10 0).toNat + 2 ^ 32 * (hdr.getD 11 0).toNat
      if rva % 32 != 0 then none
      else (dispRead s tr true rva 128).map fun ws =>
        ⟨hdr, (List.range 16).map fun n => (n, (imgRange ((List.range 8).map fun i => (ws.getD (8 * n + i) 0).toNat)).masked)⟩

/-- What the dispatcher's reads of the header and the range image do at their homes. -/
def kernelTouch (s : State) (dom entry : Nat) (tr : Images) : State :=
  let hva := entry / 16 * 16 - 64
  let words (img : Bool) (va n : Nat) : List Nat := (List.range n).filterMap fun i => tr img va (4 * i)
  if !(([4, 8, 12] : List Nat).contains (entry % 16)) || entry < 64 then s
  else
    let u := readTouch s dom false (words false hva 16)
    match dispRead s tr false hva 16 with
    | none => u
    | some hdr =>
      let rva := (hdr.getD 10 0).toNat + 2 ^ 32 * (hdr.getD 11 0).toNat
      if rva % 32 != 0 then u else readTouch u dom false (words true rva 128)

def rangesOf (k : Kernel) : List Range := k.ranges.map (·.2)

/-- Whether the wait counter's address breaks the conditions of status 5. -/
def wcBad (s : State) (k : Kernel) (l : Launch) : Bool :=
  if l.wcaddr = 0 then l.wcthr != 0
  else l.wcaddr % 4 != 0 || decide (2 ^ 57 ≤ l.wcaddr) || (match (firstRange (rangesOf k) l.wcaddr).bind (·.ia l.wcaddr) with
    | none => true
    | some ia => inFleet s ia)

/-- Whether the packet of ENTRY can be read, as data or as code (log entry 14). -/
def entryReadable (s : State) (rs : List Range) (dom entry : Nat) : Bool :=
  match rangeIa s rs dom (entry / 16 * 16) with
  | none => false
  | some ia =>
    if iaNode ia != 0 then true
    else if 72 ≤ iaHome ia || fleetBase ≤ iaOff ia then false
    else match (pageOf s (iaHome ia) ia true).2 with
      | .local_ _ _ p | .far p => permRead p || permExec p
      | .fault _ => false

/-- Whether what a launch names cannot be read: the packet of ENTRY (R235), or the images of a loam kernel (R290). -/
def imagesBad (s : State) (k : Kernel) (l : Launch) (dom clen : Nat) : Bool :=
  if l.loam && (headerOf k.hdr).loam then (loamImage s (rangesOf k) dom l.entry).isNone
    || !sowReadable s (rangesOf k) dom (constAt k.hdr) (loamConstLen clen)
  else !entryReadable s (rangesOf k) dom l.entry

/-- The status of a launch (R235), in the order of its rule; `never` says that a co-resident sowing can never be bound whole. -/
def launchStatus (s : State) (ws : List Word) (priv : Bool) (dom clen : Nat) (k? : Option Kernel) (never : Kernel → Bool) : Nat :=
  let l := launchOf ws
  if (l.cls == 0 && !priv) || (decide (72 ≤ l.hint) && l.hint != 127) || decide (71 < l.hstep) || launchReserved ws then 7
  else match k? with
    | none => 5
    | some k =>
      let h := headerOf k.hdr
      if wcBad s k l || imagesBad s k l dom clen then 5
      else if l.loam != h.loam then 6
      else if headerBad k.hdr then 3
      else if (rangesOf k).any fun r => r.v && (r.count == 0 || !r.nodeOk s dom) then 8
      else if l.count == 0 || (if l.loam then l.teams != 1 || decide (32 < l.lanes) else decide (h.teams < l.teams) || decide (64 * h.furr < l.lanes)) then 2
      else if l.cores && never k then 4
      else if 256 ≤ (Tbl.getD s.queues l.cls []).length then 1
      else 0

/-- The capacity of the live resources for a shape, with no sowing resident (R33, R34): plots that one quad can hold. -/
def quadHolds (h : Header) (teams : Nat) : Nat :=
  let lm := if h.lmem = 0 then 64 else 524288 / h.lmem
  let perCore := min (128 / h.furr) (1572864 / h.wsize)
  min 64 (min lm (4 * perCore / max 1 teams))

def quadLive (s : State) (d q : Nat) : Bool := (s.dom d).live && !(s.dom d).colF.getLsbD q
def routeByte (s : State) (d e : Nat) : Nat := (Tbl.getD s.routes (72 * d + e) 0).toNat
def routeOk (s : State) (d e : Nat) : Bool := d == e || nb (routeByte s d e) 7 1 == 1

/-- The hinted domain of plot p. -/
def hintDom (home hstep p : Nat) : Nat := (home + p * hstep) % 72

/-- Whether a sowing of a partition may use a domain (R233, R351). -/
def usable (s : State) (guest d : Nat) : Bool := (s.dom d).live && (s.dom d).guest == guest

/-- One plot hinted to domain h is given a place: in a domain open to it that has one left, or in one whose place another plot leaves for a
domain open to that one. `put` holds how many plots of each hint stand in each domain, by 72 * hint + domain; `seen` the domains tried. -/
def seatPlot (open_ : Nat → Nat → Bool) (room : Nat → Nat) : Nat → Nat → List Nat × Tbl Nat → List Nat × Option (Tbl Nat)
  | 0, _, (seen, _) => (seen, none)
  | n + 1, h, (seen, put) =>
    let at_ (d e : Nat) : Nat := Tbl.getD put (72 * d + e) 0
    (List.range 72).foldl (fun r e => match r with
      | (_, some _) => r
      | (seen, none) =>
        if seen.contains e || !open_ h e then (seen, none)
        else
          let sit (put : Tbl Nat) : Tbl Nat := Tbl.set put (72 * h + e) (Tbl.getD put (72 * h + e) 0 + 1)
          if (List.range 72).foldl (fun a d => a + at_ d e) 0 < room e then (e :: seen, some (sit put))
          else (List.range 72).foldl (fun r d => match r with
            | (_, some _) => r
            | (seen, none) =>
              if at_ d e = 0 then (seen, none)
              else match seatPlot open_ room n d (seen, put) with
                | (seen, some put) => (seen, some (sit (Tbl.set put (72 * d + e) (Tbl.getD put (72 * d + e) 0 - 1))))
                | (seen, none) => (seen, none)) (e :: seen, none)) (seen, none)

/-- Whether a co-resident sowing could never be bound whole (R34): with no other sowing resident its plots do not all find a place, each in
its hinted domain or in one that a route from there reaches (log entry 17); loam plots, each in the queue of a live loam core (R221, R288). -/
def neverWhole (s : State) (l : Launch) (home guest : Nat) (k : Kernel) : Bool :=
  let room (e : Nat) : Nat := ((List.range 12).filter (quadLive s e)).length * quadHolds (headerOf k.hdr) l.teams
  let open_ (d e : Nat) : Bool := usable s guest e && (d == e || routeOk s d e)
  if l.loam then
    if 72 * 12 * 8 < l.count then true
    else
      let put := (List.range l.count).map fun p => (hintDom home l.hstep (p / 12), p % 12)
      put.any fun x => !usable s guest x.1 || (s.dom x.1).lineMemF || (s.dom x.1).chF.getLsbD x.2 || decide (8 < (put.filter (· == x)).length)
  else if (List.range 72).foldl (fun a e => if usable s guest e then a + room e else a) 0 < l.count then true
  else ((List.range l.count).foldl (fun (r : Option (Tbl Nat)) p =>
    r.bind fun put => (seatPlot open_ room 73 (hintDom home l.hstep p) ([], put)).2) (some [])).isNone

/-- A launch is queued, or refused with a status: the status, the identifier, the state. `rel` is the scope of its SOW's release, `clen` the length
of the constant block that the loader placed with the kernel (R118, N19), which no word of the header holds (log entry 14). -/
def launch (s : State) (ws : List Word) (priv : Bool) (dom : Nat) (tk : Option Nat) (rel clen : Nat) (tr : Images) : Nat × Nat × State :=
  let l := launchOf ws
  let home := if l.hint = 127 then dom else l.hint
  let guest := (s.dom dom).guest
  let k? := kernelOf s l.entry tr
  let st := launchStatus s ws priv dom clen k? (neverWhole s l home guest)
  let s := if st = 7 then s else kernelTouch s dom l.entry tr
  match st, k? with
  | 0, some k =>
    let sid := s.nextSid
    let w : Sowing := {
      words := ws.take 8, hdr := k.hdr, ranges := k.ranges, tk := tk, cls := l.cls, home := home, eligible := l.wcthr == 0
      relScope := rel, guest := guest, clen := clen }
    (0, sid, { s with
      sows := Tbl.set s.sows sid w, nextSid := if sid + 1 = 2 ^ 32 then 1 else sid + 1
      queues := Tbl.set s.queues l.cls (Tbl.getD s.queues l.cls [] ++ [sid]) })
  | st, _ => (st, 0, s)

/-- The launch of a SOW: it leaves once the release it carries has performed. -/
def launchAct (s : State) (id clen : Nat) : State :=
  match Tbl.find? s.reqs id with
  | none => s
  | some r => match r.kind with
    | .sow ws rel =>
      let ready := match rel with
        | none => true
        | some sc => releaseReady s r.tk r.grp sc && !(s.team r.tk).rerr && (gleanOf s r.tk).isEmpty && trapsClear s r.tk r.id
      if !ready || s.lead.isNone then s
      else
        let core := (s.team r.tk).core
        let s := match rel with
          | some sc => noteScope (releaseBy (if 1 ≤ sc then l1Drop s core else s) r.tk core sc r.grp 0) (enKey r.tk) sc
          | none => s
        let (st, sid, s) := launch s (ws.take 8) ((ws.getD 8 0) == 1) r.dom (some r.tk) (rel.getD 0) clen fun _ va off => translate s r.tk (va + off)
        answer s r (wrU r.dreg 1 st ++ wrU (if r.dreg < 160 then r.dreg + 1 else 248) 1 sid)
    | _ => s

/-- A launch message of the host: its words; a and b give the IAs at which the loader put the header and the range image
(log entry 6). -/
def hostLaunch (x : Input) (s : State) : State :=
  if s.lead.isNone then s
  else
    let (st, sid, s) := launch s x.words true (leadDom s) none 0 x.c fun img _ off => some ((if img then x.b else x.a) + off)
    reply s x [st, sid]


/-- R205: A VCLEAN, VINVAL, VCFLUSH or VCQUERY completes once every line has been acted on, its write-backs are in DRAM and its invalidations have been acknowledged; its result is written and en falls. Reads a, the request, and ext. -/
def execVcmComplete (s : State) : Host.Outcome State Fault Refusal :=
  ev (fun x s => vcmAct s x.a x.ext) s

/-- R260: A domain serves a VCDEF, VCRESIZE, RGSET, PTINV or REPLAY request in arrival order and writes its status, or completes PTINV, and en falls. Reads a, the request, ext, and flag, whether the peer or host refuses the image or does not answer. -/
def execTableInstructionStatus (s : State) : Host.Outcome State Fault Refusal :=
  ev (fun x s => if x.flag then refuseImage s x.a else tableAct s x.a x.ext) s

/-- R345: A replay message from a fabric node replays a wait entry as REPLAY does and returns a status. Reads node, dest, tag and words. -/
def execReplayMessage (s : State) : Host.Outcome State Fault Refusal :=
  ev (message replayMsg) s

/-- R258: The sweeper visits the next set of G, moving, writing back or dropping its lines, and advances SWEEP; in a record that is not swept it writes one dirty line back, as the part may at any moment (R220). Reads a, the domain, b, the VC id, and c, an IA in that line. -/
def execVcSweepStep (s : State) : Host.Outcome State Fault Refusal :=
  ev (fun x s => sweepStep s x.a x.b x.c) s

/-- R257: A migration or retire sweep finishes, and the record takes its new geometry or becomes free while strips are released. Reads a, the domain, and b, the VC id. -/
def execVcSweepEnd (s : State) : Host.Outcome State Fault Refusal :=
  ev (fun x s => sweepEnd s x.a x.b) s

/-- R235: The dispatcher takes a launch from SOW, queues or refuses it, and writes the status and sowing identifier to the issuing team, and en falls. Reads a, the request, and b, the length of the constant block that the loader placed. -/
def execLaunchStatus (s : State) : Host.Outcome State Fault Refusal :=
  ev (fun x s => launchAct s x.a x.b) s

/-- R347: A launch message from the host reaches the lead domain's dispatcher and is accepted or refused as a privileged SOW would be. Reads node, dest, tag, words, a and b, and c, the length of the constant block that the loader placed. -/
def execHostLaunchMessage (s : State) : Host.Outcome State Fault Refusal :=
  ev (message hostLaunch) s

end Sys2Proof.Machine
end

