-- ==== Sys2Proof/Machine/Plots.lean ====
section
/-! DEFINITION. The dispatcher and the domain controllers' plot policy (R31 to R34, R44 to R49, R236, R242, R275, R276, R289,
R328 to R331): binding, pre-emption, saving, resuming, retiring, and the ends of sowings. -/
namespace Sys2Proof.Machine

/-! ## Room in a quad (R33) -/

/-- What the plots bound in a quad take: furrows and store of each core, furrows of each partition, slots, and runs of the
scratchpads, with the runs of each core's register store. -/
structure Room where
  furr  : List Nat := [0, 0, 0, 0]
  store : List Nat := [0, 0, 0, 0]
  part  : List Nat := List.replicate 16 0
  slots : List Nat := []
  lm    : List (Nat × Nat) := []
  win   : List (Nat × Nat × Nat) := []   -- core, base, bytes

def addAt (l : List Nat) (i n : Nat) : List Nat := l.set i (l.getD i 0 + n)

/-- The windows that teams on the cores of `cs` take from the bases of a plot. -/
def winRuns (bases cs : List Nat) (w : Nat) : List (Nat × Nat × Nat) :=
  (List.range 4).filterMap fun c => let n := cs.count c; if n = 0 then none else some (c, bases.getD c 0, n * w)

def roomOf (s : State) (d q : Nat) (without : List Nat) : Room :=
  (s.plots.filter fun p => p.2.resident && p.2.dom == d && p.2.quad == q && !without.contains p.1).foldl (fun r (_, (p : Plot)) =>
    let ts := (plotTeams p).map s.team
    let r := ts.foldl (fun (r : Room) t => { r with
      furr := addAt r.furr (t.core % 4) t.furr, store := addAt r.store (t.core % 4) t.wsize, part := addAt r.part (4 * (t.core % 4) + t.part) t.furr }) r
    { r with
      slots := p.slot :: r.slots, lm := if p.lmem = 0 then r.lm else (p.lmbase, p.lmem) :: r.lm
      win := winRuns p.wbase (ts.map (·.core % 4)) p.wsize ++ r.win }) {}

/-- The core that a team goes to: the most free furrows, then the most free store, then the lowest number. -/
def pickCore (r : Room) : Nat :=
  (List.range 4).foldl (fun b c =>
    if r.furr.getD c 0 < r.furr.getD b 0 || (r.furr.getD c 0 == r.furr.getD b 0 && r.store.getD c 0 < r.store.getD b 0) then c else b) 0
/-- The partition with the fewest resident furrows. -/
def pickPart (r : Room) (c : Nat) : Nat :=
  (List.range 4).foldl (fun b p => if r.part.getD (4 * c + p) 0 < r.part.getD (4 * c + b) 0 then p else b) 0

/-- Teams placed in order, each on the core named for it, if one is (R331): core and partition of each. -/
def placeTeams (furr w : Nat) : List (Option Nat) → Room → Option (List (Nat × Nat) × Room)
  | [], r => some ([], r)
  | c? :: rest, r =>
    let c := c?.getD (pickCore r)
    let p := pickPart r c
    let r' := { r with furr := addAt r.furr c furr, store := addAt r.store c w, part := addAt r.part (4 * c + p) furr }
    if 128 < r'.furr.getD c 0 || 1572864 < r'.store.getD c 0 then none
    else (placeTeams furr w rest r').map fun x => ((c, p) :: x.1, x.2)

/-- The lowest place for n bytes among runs of a space of `size` bytes. -/
def lowest (runs : List (Nat × Nat)) (n size : Nat) : Option Nat :=
  let cands := sortBy (fun a b => decide (a ≤ b)) (0 :: runs.map fun r => r.1 + r.2)
  cands.find? fun o => decide (o + n ≤ size) && runs.all fun r => !(decide (r.1 < o + n) && decide (o < r.1 + r.2))

/-- The quad that carries the plots of a guest's quad (R352): itself while it is live, otherwise the live quad of the same guest that the
hypervisor set for it, whose slots they then share. -/
def carrier (s : State) (d q : Nat) : Option Nat :=
  if quadLive s d q then some (12 * d + q)
  else (Tbl.find? (s.dom d).subst q).filter fun v =>
    (s.dom d).live && decide (v < 864) && quadLive s (v / 12) (v % 12) && (s.dom (v / 12)).guest == (s.dom d).guest

/-- A place for a plot: domain, quad, the quad whose names it takes where another carries it, slot, scratchpad base, core and partition of each
team, window bases, free furrows after. -/
structure Spot where
  dom : Nat
  face : Option Nat
  quad : Nat
  slot : Nat
  lmbase : Nat
  cps : List (Nat × Nat)
  wbase : List Nat
  free : Nat

/-- A plot of a shape in one quad, if the quad qualifies. R33 tests the free store of a core as a whole; where no run of it is long enough for
the plot's windows there, the spec does not say where they lie, and the record gives their base as 0 (log entry 25). -/
def spotIn (s : State) (d q furr w lmem : Nat) (cores : List (Option Nat)) (without : List Nat) : Option Spot :=
  match carrier s d q with
  | none => none
  | some v =>
    let r := roomOf s (v / 12) (v % 12) without
    match (List.range 64).find? (fun i => !r.slots.contains i), lowest r.lm lmem 524288, placeTeams furr w cores r with
    | some slot, some lm, some (cps, r') =>
      let base (c : Nat) : Nat := (lowest ((r.win.filter (·.1 == c)).map (·.2)) (w * (cps.map (·.1)).count c) 1572864).getD 0
      some ⟨v / 12, if v = 12 * d + q then none else some (12 * d + q), v % 12, slot, lm, cps, (List.range 4).map base, 512 - r'.furr.sum⟩
    | _, _, _ => none

/-- The quad of a domain that a plot goes to: the most free furrows after it, then the lowest number. -/
def spotDom (s : State) (d furr w lmem : Nat) (cores : Nat → List (Option Nat)) : Option Spot :=
  (List.range 12).foldl (fun b q => match spotIn s d q furr w lmem (cores q) [], b with
    | some x, some y => if y.free < x.free then some x else some y
    | some x, none => some x
    | none, b => b) none

/-! ## Binding (R31, R33, R242) -/

/-- The bind record of a plot (R242). -/
def bindRecord (s : State) (p : Plot) (st : Nat) : List DWord :=
  let w := s.sow p.sow
  let l := launchOf w.words
  let ts := (plotTeams p).map s.team
  let b (x : Bool) (n : Nat) := if x then 2 ^ n else 0
  let w0 := 2 ^ 63 + st * 2 ^ 60 + p.cls * 2 ^ 58 + b l.restart 57 + b l.cores 56 + b l.chk 55 + (p.nteams - 1) * 2 ^ 51 + (p.lanes - 1) * 2 ^ 41 + p.sow
  let w1 := p.no * 2 ^ 32 + p.lmbase / 256 * 2 ^ 20 + p.wsize / 256
  let w2 := (ts.zipIdx.map fun x => (4 * (x.1.core % 4) + x.1.part) * 2 ^ (4 * x.2)).sum
  let w3 := ((List.range 4).map fun c => p.wbase.getD c 0 / 256 * 2 ^ (16 * c)).sum
  [w0, w1, w2, w3].map (BitVec.ofNat 64)

def putRecordOf (s : State) (pid st : Nat) : State :=
  let p := s.plot pid
  s.modQuad (12 * p.dom + p.quad) fun q => { q with slots := Tbl.set q.slots p.slot (bindRecord s p st) }

/-- The plot's allocation on the four cores of a quad zero-filled. -/
def zeroLm (s : State) (quad base n : Nat) : State :=
  { s with spm := s.spm.filter fun c => !(c.1 / 2 ^ 21 == quad && decide (base ≤ c.1 % 2 ^ 19) && decide (c.1 % 2 ^ 19 < base + n)) }

/-- The key under which the first failed attempt of a plot is noted (R32): every plot never bound that is hinted to a domain is offered room in
each round, so they share one; a plot to be bound again has its own. -/
def failKey (w : Sowing) (p : Nat) : Nat := if w.redo.contains p then 128 + p else hintDom w.home (launchOf w.words).hstep p

/-- A number taken as bound: `next` moves over those bound already. -/
def Sowing.take (w : Sowing) (p : Nat) : Sowing :=
  let rec up (n : Nat) (bs : List Nat) : Nat → Nat × List Nat
    | 0 => (n, bs)
    | k + 1 => if bs.contains n then up (n + 1) (bs.filter (· != n)) k else (n, bs)
  if w.redo.contains p then
    { w with redo := w.redo.filter (· != p), failAt := Tbl.erase w.failAt (128 + p), fallback := w.fallback.filter (· != 128 + p) }
  else
    let (n, bs) := up w.next (p :: w.bound) (w.bound.length + 1)
    { w with next := n, bound := bs }

/-- The turn in a class queue passes to the sowing after one (R32). -/
def passTurn (s : State) (key cls sid : Nat) : State := { s with rrNext := Tbl.set s.rrNext key (afterIn (Tbl.getD s.queues cls []) sid) }

/-- A sowing leaves its queue once its last plot is bound (R221). -/
def settleQueue (s : State) (sid : Nat) : State :=
  let w := s.sow sid
  if (launchOf w.words).count ≤ w.next && w.redo.isEmpty then unqueue s sid else s

/-- A new team (R31). Its entry is checked as a destination is, with ENTRY itself as the word named (log entry 14). -/
def newTeam (core part : Nat) (h : Header) (l : Launch) (lmbase since : Nat) : Team :=
  { core := core, part := part, furr := h.furr, regs := h.regs, unif := h.unif, tiles := h.tiles, nacc := h.nacc, lmem := h.lmem
    lmbase := lmbase, wsize := h.wsize, pc := l.entry % 2 ^ 57, via := some (l.entry % 2 ^ 57, false), mask := BitVec.ofNat 1024 (2 ^ l.lanes - 1)
    vwv := h.vwv, vwt := h.vwt, vwa := h.vwa, tstat := if l.chk then 128 else 0, since := since }

/-- A plot bound at a place: its record, its teams, its zeroed scratchpad. It acquires at the scope of its SOW's release (R235). -/
def bindAt (s : State) (sid p : Nat) (sp : Spot) : State :=
  let w := s.sow sid
  let l := launchOf w.words
  let h := headerOf w.hdr
  let pid := 2 ^ 32 * sid + p
  let quad := 12 * sp.dom + sp.quad
  let (n, s) := s.newId
  let plot : Plot := {
    sow := sid, no := p, dom := sp.dom, quad := sp.quad, face := sp.face, slot := sp.slot, nteams := l.teams, lanes := l.lanes, cls := l.cls, lmem := h.lmem
    lmbase := sp.lmbase, wsize := h.wsize, vcmask := BitVec.ofNat 64 w.vcmask, seq := n, wbase := sp.wbase, restart := l.restart, cores := l.cores }
  let s := { s with plots := Tbl.set s.plots pid plot }
  let s := sp.cps.zipIdx.foldl (fun s (x, i) =>
    let core := 4 * quad + x.1
    s.setTeam (16 * pid + i) (newTeam core x.2 h l sp.lmbase (s.core core).cyc)) s
  let s := putRecordOf (zeroLm s quad sp.lmbase h.lmem) pid 1
  let s := sp.cps.zipIdx.foldl (fun s (x, i) => acquireAct s (16 * pid + i) (4 * quad + x.1) w.relScope) s
  settleQueue ((passTurn s l.cls l.cls sid).modSow sid fun w => { w.take p with started := true }) sid

/-! ## Which plot is next (R32, R34, R46) -/

/-- The first plots of a sowing not yet bound, one for each hinted domain, in ascending order, from number p on. -/
def firstPlots (w : Sowing) (count : Nat) (hstep : Nat) : Nat → Nat → List Nat → List Nat
  | 0, _, _ => []
  | n + 1, p, seen =>
    if count ≤ p || seen.length = 72 / Nat.gcd 72 hstep then []
    else
      let d := hintDom w.home hstep p
      if w.bound.contains p || seen.contains d then firstPlots w count hstep n (p + 1) seen
      else p :: firstPlots w count hstep n (p + 1) (d :: seen)

/-- The plots of a sowing that may be offered room. -/
def candidates (w : Sowing) : List Nat :=
  let l := launchOf w.words
  w.redo ++ firstPlots w l.count l.hstep (72 * (w.bound.length + 1)) w.next []

/-- The cores named for a plot's teams: none, when it is bound anew. -/
def anyCores (n : Nat) (_ : Nat) : List (Option Nat) := List.replicate n none

/-- Live cores of a domain. -/
def liveCores (s : State) (d : Nat) : Nat := 4 * ((List.range 12).filter (quadLive s d)).length

/-- The domain in which a saved plot resumes: its own, within a guest the one of its name (R352). -/
def Plot.homeDom (p : Plot) : Nat := match p.face with | some q => q / 12 | none => p.dom

/-- Where a saved plot could be placed now in its domain (R46, R331): the quad whose cores at the saved positions have room. -/
def resumeSpot (s : State) (p : Plot) : Option Spot :=
  let t0 := s.team (16 * (2 ^ 32 * p.sow + p.no))
  spotDom s p.homeDom t0.furr p.wsize p.lmem fun q => p.posn.map fun k => some (coreAt s (4 * (carrier s p.homeDom q).getD 0) k % 4)

/-- Whether a saved plot may resume: not held, nothing of it in a glean log (R46). -/
def mayResume (s : State) (p : Plot) : Bool :=
  p.st == .saved && (plotTeams p).all fun tk => (gleanOf s tk).isEmpty

/-- Whether a saved plot of a domain is to be resumed before a new plot of a class is bound there. -/
def resumeFirst (s : State) (d cls : Nat) : Bool :=
  s.plots.any fun p => p.2.homeDom == d && decide (p.2.cls ≤ cls) && mayResume s p.2 && (resumeSpot s p.2).isSome

/-- The place of plot p of a sowing: in its hinted domain, or, once that has offered none for 50 µs or where the sowing may not use it, in the
domain nearest by hops and live cores (R32, R233). `free` says that it may go elsewhere. -/
def spotFor (s : State) (w : Sowing) (p : Nat) (free : Bool) : Option (Nat × Spot) :=
  let l := launchOf w.words
  let h := headerOf w.hdr
  let at_ (d : Nat) : Option Spot :=
    if !usable s w.guest d || resumeFirst s d l.cls then none else spotDom s d h.furr h.wsize h.lmem (anyCores l.teams)
  let d := hintDom w.home l.hstep p
  match at_ d with
  | some sp => some (d, sp)
  | none =>
    if !free && usable s w.guest d then none
    else
      let better (e f : Nat) : Bool := nb (routeByte s d e) 0 4 * liveCores s f < nb (routeByte s d f) 0 4 * liveCores s e
      (List.range 72).foldl (fun b e =>
        if e == d || !routeOk s d e then b
        else match at_ e, b with
          | some sp, none => some (e, sp)
          | some sp, some (f, x) => if better e f then some (e, sp) else some (f, x)
          | none, b => b) none

/-- The eligible sowings of a class, from the one whose turn it is (R32). -/
def roundRobin (s : State) (key cls : Nat) (loam : Bool) : List Nat :=
  let q := Tbl.getD s.queues cls []
  let q := match q.findIdx? (· == Tbl.getD s.rrNext key 0) with
    | some i => q.drop i ++ q.take i
    | none => q
  q.filter fun sid =>
    let w := s.sow sid
    w.eligible && !w.ended && (launchOf w.words).loam == loam

/-- The first plot of a sowing that can be placed. -/
def firstFit (s : State) (sid : Nat) : Option (Nat × Nat × Spot) :=
  let w := s.sow sid
  (candidates w).findSome? fun p => (spotFor s w p (w.fallback.contains (failKey w p))).map fun x => (p, x.1, x.2)

/-- Whether a hinted domain has no quad that qualifies for a sowing's plots (R32). -/
def noQuad (s : State) (w : Sowing) (p : Nat) : Bool :=
  let l := launchOf w.words
  let h := headerOf w.hdr
  (spotDom s (hintDom w.home l.hstep p) h.furr h.wsize h.lmem (anyCores l.teams)).isNone

/-- Every plot that finds no quad in its hinted domain notes its first attempt (R32). -/
def noteFails (s : State) (cls : Nat) : State :=
  (roundRobin s cls cls false).foldl (fun s sid =>
    let failed := (candidates (s.sow sid)).filter (noQuad s (s.sow sid))
    s.modSow sid fun w => { w with failAt := failed.foldl (fun f p =>
      if (Tbl.find? f (failKey w p)).isSome then f else Tbl.set f (failKey w p) s.tick) w.failAt }) s

/-! ## Pre-emption (R44, R45) -/

/-- The plots of classes 1 to 3 bound in a quad, in the order in which they would be taken. Of plots bound at one moment the one with the higher
number counts as bound more recently (log entry 25). -/
def victims (s : State) (d q : Nat) : List (Nat × Plot) :=
  (s.plots.filter fun p => p.2.st == .bound && p.2.dom == d && p.2.quad == q && p.2.cls != 0) |> sortBy fun a b =>
    if a.2.cls != b.2.cls then decide (b.2.cls < a.2.cls) else if a.2.seq != b.2.seq then decide (b.2.seq < a.2.seq) else decide (b.1 ≤ a.1)

/-- The fewest victims of a quad that make room for a shape: none where it has room already. -/
def victimsFor (s : State) (d q : Nat) (h : Header) (teams : Nat) : Option (List (Nat × Plot)) :=
  let vs := victims s d q
  (List.range (vs.length + 1)).findSome? fun k =>
    (spotIn s d q h.furr h.wsize h.lmem (anyCores teams q) ((vs.take k).map (·.1))).map fun _ => vs.take k

/-- The victims for a class-0 plot, chosen in its hinted domain; none where its sowing may not use that domain, nor while a pre-emption is
under way there. -/
def victimsOf (s : State) (w : Sowing) (p : Nat) : List (Nat × Plot) :=
  let l := launchOf w.words
  let d := hintDom w.home l.hstep p
  if !usable s w.guest d || (s.plots.any fun x => x.2.dom == d && x.2.st == .preempting && !x.2.halt) then []
  else
    let worse (a b : List (Nat × Plot)) : Bool :=   -- whether b is better than a
      if a.length != b.length then decide (b.length < a.length)
      else match a.getLast?, b.getLast? with
        | some x, some y => if x.2.cls != y.2.cls then decide (x.2.cls < y.2.cls) else decide (x.2.seq < y.2.seq)
        | _, _ => false
    ((List.range 12).foldl (fun b q => match victimsFor s d q (headerOf w.hdr) l.teams, b with
      | some v, some u => if worse u v then some v else some u
      | some v, none => some v
      | none, b => b) none).getD []

def preemptFor (s : State) (w : Sowing) (p : Nat) : State := (victimsOf s w p).foldl (fun s v => preempt s v.1) s

/-- Every plot of the class-0 sowings that wait has victims chosen for it. -/
def preemptAll (s : State) : State :=
  (roundRobin s 0 0 false).foldl (fun s sid =>
    let w := s.sow sid
    if (launchOf w.words).cores && !w.started then s else (candidates w).foldl (fun s p => preemptFor s w p) s) s

/-! ## BIND_PLOT (R32 to R34) -/

/-- Whether a sowing is a co-resident one none of whose plots is bound. -/
def Sowing.waitsWhole (w : Sowing) : Bool := (launchOf w.words).cores && !w.started && !w.ended

/-- The plots of a sowing that are to be bound. -/
def Sowing.unbound (w : Sowing) : List Nat :=
  w.redo ++ (List.range (min (launchOf w.words).count 65536)).filter fun p => decide (w.next ≤ p) && !w.bound.contains p

/-- The plots of a list bound one after the other, if all can be; otherwise the first that cannot, and the state it met. -/
def bindList (sid : Nat) : List Nat → State → State × Option Nat
  | [], s => (s, none)
  | p :: r, s =>
    let w := s.sow sid
    match spotFor s w p w.coFall with
    | none => (s, some p)
    | some (_, sp) => bindList sid r (bindAt s sid p sp)

/-- Whether a sowing uses the networks of its domains, and the wafer's (R276; log entry 17). -/
def usesDomNet (sid : Nat) : Bool := Config.needsNets sid % 2 == 1
def usesWaferNet (sid : Nat) : Bool := Config.needsNets sid / 2 % 2 == 1

/-- The co-resident sowings that hold barrier contexts. -/
def coHolders (s : State) : List Nat :=
  (s.sows.filter fun w => (launchOf w.2.words).cores && !(launchOf w.2.words).loam && w.2.started).map (·.1)

/-- Whether the networks have the contexts that the started sowings take: 64 in each (R276). -/
def netsSuffice (s : State) : Bool :=
  decide (((coHolders s).filter usesWaferNet).length ≤ 64)
    && (List.range 72).all fun d => decide (((coHolders s).filter fun sid => usesDomNet sid && (plotsOf s sid).any fun p => p.2.dom == d).length ≤ 64)

/-- Plots of a sowing bound at one moment have one number of binding, the first one drawn (R34, R41). -/
def sameMoment (s : State) (sid n : Nat) : State :=
  { s with plots := s.plots.map fun p => if p.2.sow == sid then (p.1, { p.2 with seq := n }) else p }

/-- A co-resident sowing bound whole at one moment (R34): the state, if it can be; otherwise the first plot that finds no place, if that is
what it lacks, and the state which that plot met. -/
def bindWhole (s : State) (sid : Nat) : Option State × Option (Nat × State) :=
  if (launchOf (s.sow sid).words).loam || (plotsOf s sid).any fun p => p.2.st == .stopping then (none, none)
  else match bindList sid (s.sow sid).unbound s with
    | (s', none) => (if netsSuffice s' then some (sameMoment s' sid s.fresh) else none, none)
    | (s', some p) => (none, some (p, s'))

/-- One bind of a sowing: its first plot that can be placed, or all plots of a co-resident one. -/
def bindSowing (s : State) (sid : Nat) : Option State :=
  if (s.sow sid).waitsWhole then (bindWhole s sid).1
  else (firstFit s sid).map fun x => bindAt s sid x.1 x.2.2

/-- The moment from which a co-resident sowing stands at the head of its class is noted (R34). -/
def noteHeads (s : State) : State :=
  let heads := [0, 1, 2, 3].filterMap fun c => (Tbl.getD s.queues c []).head?
  { s with sows := s.sows.map fun w => (w.1, { w.2 with
      headAt := if heads.contains w.1 && w.2.waitsWhole then some (w.2.headAt.getD s.tick) else none }) }

/-- The co-resident sowing that waits at the head of a class, if one does: no plot of its class or of a later one is bound (R34). One
that its wait counter does not let start yet (R236) holds no other up: the spec does not say (log entry 25). -/
def headWaits (s : State) (c : Nat) : Option Nat :=
  match Tbl.getD s.queues c [] with
  | sid :: _ => if (s.sow sid).waitsWhole && (s.sow sid).eligible then some sid else none
  | [] => none

/-- One bind: the classes in order, and in each the round-robin; a co-resident sowing at the head of its class lets no plot of
its class or of a later one be bound. -/
def bindClasses : List Nat → State → State
  | [], s => s
  | c :: rest, s => match headWaits s c with
    | some sid => match bindWhole s sid with   -- one of loam plots waits for `loamDispatch`
      | (some s', _) => s'
      | (none, some (p, s')) => if c = 0 && !(launchOf (s.sow sid).words).loam then (victimsOf s' (s'.sow sid) p).foldl (fun s v => preempt s v.1) s else s
      | (none, none) => s
    | none =>
      let s := noteFails s c
      match (roundRobin s c c false).findSome? (bindSowing s) with
      | some s => s
      | none => bindClasses rest (if c = 0 then preemptAll s else s)

def bindPlot (s : State) : State := if s.lead.isNone then s else noteHeads (bindClasses [0, 1, 2, 3] (noteHeads s))

def hintExpiry (s : State) (sid p : Nat) : State :=
  let k := failKey (s.sow sid) p
  match Tbl.find? (s.sow sid).failAt k with
  | some t => if t + 50 ≤ s.tick && !(s.sow sid).fallback.contains k then s.modSow sid fun w => { w with fallback := w.fallback ++ [k] } else s
  | none => s

def coExpiry (s : State) (sid : Nat) : State :=
  match (s.sow sid).headAt with
  | some t => if t + 50 ≤ s.tick then s.modSow sid fun w => { w with coFall := true } else s
  | none => s

/-- The loam core of plot p of a loam sowing (R288). -/
def loamCoreOf (w : Sowing) (p : Nat) : Nat := 12 * hintDom w.home (launchOf w.words).hstep (p / 12) + p % 12

/-- A loam plot enters the queue of its loam core. -/
def loamEnter (s : State) (sid p : Nat) : State :=
  let w := s.sow sid
  let l := launchOf w.words
  let pid := 2 ^ 32 * sid + p
  let lk := loamCoreOf w p
  let q : LPlot := { sow := sid, lk := lk, cls := l.cls, lanes := l.lanes, lmem := (headerOf w.hdr).lmem }
  let s := passTurn { s with lplots := Tbl.set s.lplots pid q } (4 + l.cls) l.cls sid
  let s := s.modLoam lk fun m => { m with queue := m.queue ++ [pid] }
  settleQueue (s.modSow sid fun w => { w.take p with started := true }) sid

/-- Whether a plot of a loam sowing can enter the queue of its core: a stopped one, once the stores that it has issued have performed (R333). -/
def loamRoom (s : State) (sid p : Nat) : Bool :=
  decide ((s.loam (loamCoreOf (s.sow sid) p)).queue.length < 8) && (s.lplot (2 ^ 32 * sid + p)).out.isEmpty

/-- Every plot of a list enters the queue of its loam core at one moment (R34), if each finds room. -/
def loamWhole (sid : Nat) : List Nat → State → Option State
  | [], s => some s
  | p :: r, s => if loamRoom s sid p then loamWhole sid r (loamEnter s sid p) else none

/-- The first plot, bound again or new, of the loam sowing whose turn it is that can enter the queue of a loam core, in a class before c. -/
def loamPick (s : State) (lk c : Nat) : Option (Nat × Nat) :=
  let rec search (w : Sowing) (count : Nat) : Nat → Nat → Option Nat
    | 0, _ => none
    | n + 1, p => if count ≤ p then none else if loamCoreOf w p == lk && !w.bound.contains p then some p else search w count n (p + 1)
  if 8 ≤ (s.loam lk).queue.length then none
  else (List.range c).findSome? fun k => (roundRobin s (4 + k) k true).findSome? fun sid =>
    let w := s.sow sid
    match w.redo.find? (fun p => loamCoreOf w p == lk && loamRoom s sid p) with
    | some p => some (sid, p)
    | none => (search w (launchOf w.words).count (864 * (w.bound.length + 1)) w.next).map fun p => (sid, p)

/-- Loam plots enter the dispatch queues, which bind them (R221, R288, R289): the next plot for a loam core, of the classes before that of a
co-resident sowing that waits at the head of its class (R34); where there is none, all plots of that sowing at once, if it is a loam sowing. -/
def loamDispatch (s : State) (lk : Nat) : State :=
  if s.lead.isNone then s
  else
    let stop := [0, 1, 2, 3].find? fun c => (headWaits s c).isSome
    match loamPick s lk (stop.getD 4) with
    | some (sid, p) => loamEnter s sid p
    | none => match stop.bind (headWaits s) with
      | none => s
      | some sid => if (launchOf (s.sow sid).words).loam then (loamWhole sid (s.sow sid).unbound s).getD s else s

/-! ## The wait counter and the end of a sowing (R236) -/

/-- The IA of a sowing's wait counter. -/
def wcIa (s : State) (w : Sowing) : Nat :=
  guestIa s (leadDom s) (((firstRange w.rangeList (launchOf w.words).wcaddr).bind (·.ia (launchOf w.words).wcaddr)).getD 0)

/-- The dispatcher reads the counter of a queued sowing, with an acquire at .system. A read that faults while some of its plots are bound lets those
run on and ends the sowing, with the record of kind 9 at its completion: R236 speaks only of one with none bound (log entry 25). What another node or a far frame answers comes with the
event: `ext`, a value, or with `bad` that the read faults, is refused or has no answer. -/
def pollCounter (s : State) (sid ext : Nat) (bad : Bool) : State :=
  let w := s.sow sid
  let l := launchOf w.words
  if (Tbl.find? s.sows sid).isNone || w.ended || l.wcthr = 0 || !(Tbl.getD s.queues l.cls []).contains sid then s
  else
    let ia := wcIa s w
    let read (s : State) (v : Nat) : State := s.modSow sid fun w => { w with eligible := decide (l.wcthr ≤ v % 2 ^ 32), pollAt := s.tick }
    let gone (s : State) : State :=
      if w.started || w.next != 0 || !w.bound.isEmpty || !w.redo.isEmpty then
        (endSow s sid (ia / 2 ^ 16) (leadDom s) 0).modSow sid fun w => { w with noInc := true }
      else
        let s := unqueue (sowRecord s sid 9 (ia / 2 ^ 16) (leadDom s) 0) sid
        { s with sows := Tbl.erase s.sows sid }
    let s := emptyInvq s (leadDom s)
    let outside (s : State) : State := if bad then gone s else read s ext
    if iaNode ia != 0 then outside s
    else match pageOf s (iaHome ia) ia true with
      | (s, .fault 0) => s
      | (s, .fault _) => gone s
      | (s, .far p) => if permRead p then outside s else gone s
      | (s, .local_ vc key p) =>
        if !permRead p then gone s
        else let r := readAtHome s (leadDom s) (iaHome ia) vc ia key 4; read r.1 r.2

/-- A sowing is over when all its plots have retired, or it ends with a status and none is left. -/
def sowDone (s : State) (sid : Nat) : Bool :=
  let w := s.sow sid
  (plotsOf s sid).isEmpty && (s.lplots.all fun p => p.2.sow != sid)
    && (w.ended || (w.retired == (launchOf w.words).count && w.redo.isEmpty))

/-- The completion of a sowing: the record of one that ends with a status, and the increment of the counter (R236, R363). -/
def sowComplete (s : State) (sid : Nat) (ext : Nat) : State :=
  if (Tbl.find? s.sows sid).isNone || !sowDone s sid then s
  else
    let w := s.sow sid
    let l := launchOf w.words
    let done (s : State) : State :=
      let s := if w.ended then sowRecord s sid 9 (w.stopRec.getD 0 0) (w.stopRec.getD 1 0) (w.stopRec.getD 2 0) else s
      { unqueue s sid with sows := Tbl.erase s.sows sid }
    if l.wcaddr = 0 || w.noInc then done s
    else
      let ia := wcIa s w
      let fail (s : State) (k : Nat) : State := sowRecord (done s) sid k (ia / 2 ^ 16) (leadDom s) 0
      if iaNode ia != 0 then (if ext = 0 then done s else fail s (min ext 5))
      else match pageOf s (iaHome ia) ia true with
        | (_, .fault 0) => s
        | (s, .fault k) => fail s k
        | (s, .far p) => if permAtom p then done s else fail s 5
        | (s, .local_ vc key p) =>
          if !permAtom p then fail s 5
          else
            let (s, v) := homeRead s (iaHome ia) vc ia key 4
            done (storeAtHome (emptyInvq s (leadDom s)) (iaHome ia) vc ia key 4 (v + 1) (leadDom s) 0 0 false)

/-! ## Saving, resuming, retiring (R45 to R49, R328 to R331) -/

/-- Whether nothing of a team's engines, requests and credits is outstanding. -/
def enginesDone (s : State) (tk : Nat) : Bool :=
  let c := s.core (s.team tk).core
  (Tbl.vals s.cmds).all (fun m => m.tk != tk || c.stallC.contains m.id || c.stallI.contains m.inst) && s.credits.all (·.tk != tk)
    && (Tbl.vals s.reqs).all (·.tk != tk) && c.fifo.all (·.tk != tk)

/-- Whether a team is ready to be saved: only parked loads, and waiters of the watch table, are left (R328). -/
def saveReady (s : State) (tk : Nat) : Bool :=
  enginesDone s tk && (Tbl.vals s.accs).all fun a => a.tk != tk
    || (a.kind == .waita && !a.counted)
    || (a.kind.loads && a.path == 0 && a.lanes.all fun l => match l.st with | .written | .refusedAt => true | .faulted _ r => r | _ => false)

/-! ## The save area (R329 to R331) -/

/-- Words of 4 bytes as words of 8. -/
def pairs (l : List Nat) : List Nat := (List.range (l.length / 2)).map fun i => l.getD (2 * i) 0 % 2 ^ 32 + 2 ^ 32 * (l.getD (2 * i + 1) 0 % 2 ^ 32)

/-- The state code of a team's record, and its wait operand. -/
def TState.code : TState → Nat
  | .ready => 0
  | .counterWait _ _ => 1
  | .barWait _ _ | .netWait _ => 2
  | .watchWait _ => 3
  | .faultPark _ => 4
  | .releasePark => 5
  | .engineStall => 6
  | .ended => 8
def waitOperand (s : State) (t : Team) : Nat :=
  match firstTrap t.traps with
  | some x => x.tval
  | none => match t.st with
    | .counterWait _ n => n
    | .barWait cw _ => cw.toNat
    | .watchWait a => match Tbl.find? s.accs a with | some b => (b.lanes.map (·.va)).getD 0 0 | none => 0
    | _ => 0

/-- The token of the oldest parked load; 0 for none. -/
def parkedToken (s : State) (tk : Nat) : Nat :=
  (((Tbl.vals s.accs).filter fun a => a.tk == tk && a.kind.loads).flatMap fun a => a.lanes.filterMap fun l => match l.st with
    | .faulted t _ => some t
    | _ => none).getD 0 0

/-- A mask: the furrow-live word and w0 to w31. -/
def maskImage (m : BitVec 1024) : List Nat := furrowLive m :: (List.range 32).map (maskWord m)

/-- The record of a team, in words of 4 bytes (R330). -/
def teamImage (s : State) (tk : Nat) : List Nat :=
  let t := s.team tk
  let w (x : Tbl Word) (i : Nat) : Nat := (Tbl.getD x i 0).toNat
  let d (x : Nat) : List Nat := [x % 2 ^ 32, x / 2 ^ 32 % 2 ^ 32]
  let trap := firstTrap t.traps
  let status := t.qpred.toNat % 128 + 2 ^ 8 * t.stack.length + 2 ^ 16 * t.st.code
    + (match trap with | some x => 2 ^ 20 + 2 ^ 24 * (x.code % 256) | none => 0)
  let entry (e : SEntry) : List Nat :=
    d (e.pc % 2 ^ 57 + if e.rejoin then 2 ^ 63 else 0) ++ [e.fmt.toNat] ++ maskImage e.mask ++ List.replicate 4 0
  let lane (l : Nat) : List Nat :=
    (List.range 8).map (fun n => w t.ofile (8 * l + n)) ++ [t.latA, t.latB, t.latX].flatMap (fun x => d (Tbl.getD x l 0).toNat)
      ++ [((List.range 7).map fun n => if bitOf (Tbl.getD t.pred n 0) l then 2 ^ n else 0).sum, 0]
  (List.range 160).map (w t.sreg) ++ d t.latU.toNat ++ d (t.pc % 2 ^ 57) ++ [t.fmt.toNat, t.tstat.toNat, t.tcause.toNat, t.expcnt.toNat]
    ++ d t.tepc.toNat ++ d t.tval.toNat ++ [t.vwv, t.vwt, t.vwa, (List.range 5).foldl (fun a p => a + Tbl.getD t.infl p 0 * 2 ^ (6 * p)) 0]
    ++ (List.range 4).map (w t.cc) ++ [t.ccf.toNat, status] ++ d (waitOperand s t) ++ d (parkedToken s tk)
    ++ [t.shadow.toNat + if t.shadowV then 256 else 0] ++ List.replicate 5 0
    ++ (List.range 16).map (w t.tcr) ++ maskImage t.mask ++ List.replicate 15 0
    ++ t.stack.reverse.flatMap entry ++ List.replicate (40 * (32 - t.stack.length)) 0 ++ List.replicate 512 0
    ++ (List.range (64 * t.furr)).flatMap lane ++ (List.range (t.wsize / 4)).map (w t.win)

/-- A team whose registers are those of a record; `f` gives its words of 4 bytes. Its wait and its traps are kept (log entry 17). -/
def Team.ofImage (t : Team) (f : Nat → Nat) : Team :=
  let d (i : Nat) : DWord := BitVec.ofNat 64 (f i + 2 ^ 32 * f (i + 1))
  let ws (b n : Nat) : Tbl Word := (List.range n).filterMap fun i => if f (b + i) = 0 then none else some (i, BitVec.ofNat 32 (f (b + i)))
  let mask (b : Nat) : BitVec 1024 := BitVec.ofNat 1024 ((List.range 32).map fun k => f (b + 1 + k) * 2 ^ (32 * k)).sum
  let lanes := List.range (64 * t.furr)
  let base := 2048
  let win := base + 1024 * t.furr
  let lat (k : Nat) : Tbl DWord := lanes.filterMap fun l => let x := d (base + 16 * l + 8 + 2 * k); if x = 0 then none else some (l, x)
  { t with
    sreg := ws 0 160, latU := d 160, pc := (d 162).toNat % 2 ^ 57, fmt := BitVec.ofNat 32 (f 164), tstat := BitVec.ofNat 32 (f 165)
    tcause := BitVec.ofNat 32 (f 166), expcnt := BitVec.ofNat 32 (f 167), tepc := d 168, tval := d 170
    vwv := f 172, vwt := f 173, vwa := f 174, cc := ws 176 4, ccf := BitVec.ofNat 32 (f 180)
    qpred := BitVec.ofNat 8 (f 181 % 128), shadow := BitVec.ofNat 8 (f 186), shadowV := f 186 / 256 % 2 == 1
    tcr := ws 192 16, mask := mask 208
    stack := (List.range (f 181 / 2 ^ 8 % 256)).reverse.map fun n =>
      let b := 256 + 40 * n
      { rejoin := (d b).getLsbD 63, pc := (d b).toNat % 2 ^ 57, fmt := BitVec.ofNat 32 (f (b + 2)), mask := mask (b + 3) }
    ofile := lanes.flatMap fun l => (List.range 8).filterMap fun n =>
      let x := f (base + 16 * l + n); if x = 0 then none else some (8 * l + n, BitVec.ofNat 32 x)
    latA := lat 0, latB := lat 1, latX := lat 2
    pred := (List.range 7).filterMap fun n =>
      let m : BitVec 1024 := BitVec.ofNat 1024 (lanes.map fun l => if f (base + 16 * l + 14) / 2 ^ n % 2 = 1 then 2 ^ l else 0).sum
      if m = 0 then none else some (n, m)
    win := ws win (t.wsize / 4) }

/-- A team restored from a record: what its logged stores did while it was saved stands, GLEAN and a failure's RERR (R84). -/
def Team.restored (t : Team) (f : Nat → Nat) : Team :=
  let u := t.ofImage f
  { u with tstat := setB (setB u.tstat 6 (u.rerr || t.rerr)) 9 t.gleaning }

/-- Bytes of a team's record; where record i and the scratchpad lie in a block, and the size of a block. -/
def recordSize (t : Team) : Nat := 8192 + 4096 * t.furr + t.wsize
def recordAt (s : State) (p : Plot) (i : Nat) : Nat := 256 + (((plotTeams p).take i).map fun tk => recordSize (s.team tk)).sum
def blockSize (s : State) (p : Plot) : Nat := recordAt s p p.nteams + 4 * p.lmem

/-- Whether the release of a network barrier of a team has performed (R275). -/
def released (s : State) (level tk : Nat) : Bool :=
  releaseReady s tk ((s.team tk).grp + 1) (level + 1) && !(s.team tk).rerr && (gleanOf s tk).isEmpty

/-- Whether a team has arrived at a phase of a network barrier: it waits, and its release has performed (R275). -/
def netArrived (s : State) (level tk : Nat) : Bool := (s.team tk).st = .netWait level && released s level tk

/-- The members of a phase: of a plot, of a sowing in a domain, of a sowing. -/
def netMembers (s : State) (level a dom : Nat) : List Nat :=
  if level = 0 then plotTeams (s.plot a)
  else ((plotsOf s a).filter fun p => level == 2 || p.2.dom == dom).flatMap fun p => plotTeams p.2

/-- The first 256 bytes of a plot's block, in words of 4 bytes (R329). -/
def blockHead (s : State) (pid : Nat) : List Nat :=
  let p := s.plot pid
  let ts := plotTeams p
  let bind := (Tbl.getD (s.quad (12 * p.dom + p.quad)).slots p.slot []).flatMap fun x => [x.toNat % 2 ^ 32, x.toNat / 2 ^ 32]
  let bits (f : Nat → Bool) : Nat := (ts.zipIdx.map fun x => if f x.1 then 2 ^ x.2 else 0).sum
  let parked := (ts.filter fun tk => (s.team tk).st.code == 4).length
  let glean := if ts.all fun tk => (gleanOf s tk).isEmpty then 0 else 2 ^ 8
  let count (level : Nat) : Nat := ((netMembers s level p.sow p.dom).filter (netArrived s level)).length
  bind.take 8 ++ List.replicate (8 - bind.length) 0
    ++ [p.nteams - 1 + 2 ^ 4 * (parked % 16) + glean, bits (netArrived s 0) + 2 ^ 16 * p.pbarPhase, count 1, count 2]
    ++ (List.range 16).map (fun i => if i < p.nteams then recordAt s p i / 256 else 0)
    ++ [recordAt s p p.nteams / 256, p.lmem / 256, ((ts.map fun tk => posOf s (s.team tk).core).zipIdx.map fun x => x.1 * 4 ^ x.2).sum]
    ++ List.replicate 33 0

/-- Whether every page of a block can be reached. -/
def blockReach (s : State) (ia size : Nat) : Bool :=
  (List.range (size / 2 ^ 16 + 2)).all fun i => (keyOf s (min (ia / 2 ^ 16 * 2 ^ 16 + 2 ^ 16 * i) (ia + size - 1))).isSome

/-- A plot's context written to its block: the lowest place of the area that no other saved plot of the domain has (log entry 17). -/
def saveBlock (s : State) (pid : Nat) : State :=
  let p := s.plot pid
  let base := (s.dom p.dom).pctx.toNat
  let size := blockSize s p
  let held := s.plots.filterMap fun o => if o.1 = pid || o.2.dom != p.dom then none else o.2.area.map fun a => (a - base, blockSize s o.2)
  let ia := base + (lowest held size (2 ^ 45)).getD 0
  if !blockReach s ia size then s
  else
    let quad := 12 * p.dom + p.quad
    let spm (i : Nat) : Nat := Mem.read s.spm (2 ^ 19 * coreAt s (4 * quad) (8 * i / p.lmem) + p.lmbase + 8 * i % p.lmem) 8
    let u := ctlWrites s ia (pairs (blockHead s pid))
    let u := (plotTeams p).zipIdx.foldl (fun u x => ctlWrites u (ia + recordAt s p x.2) (pairs (teamImage s x.1))) u
    let u := ctlWrites u (ia + recordAt s p p.nteams) ((List.range (4 * p.lmem / 8)).map spm)
    u.modPlot pid fun p => { p with area := some ia }

/-- n bytes at an IA of a block. -/
def blockGet (s : State) (ia n : Nat) : Nat :=
  match keyOf s ia with
  | some key => homePeek s (iaHome ia) key n
  | none => 0

/-- The registers and the scratchpad of a saved plot as its block holds them; as they were saved, where its area cannot be reached
(log entry 17). -/
def loadBlock (s : State) (pid : Nat) : State :=
  let p := s.plot pid
  match p.area with
  | none => s
  | some ia =>
    if !blockReach s ia (blockSize s p) then s
    else
      let teams := (plotTeams p).zipIdx.foldl (fun m x =>
        Tbl.set m x.1 ((s.team x.1).restored fun k => blockGet s (ia + recordAt s p x.2 + 4 * k) 4)) s.teams
      let spm : Mem := (List.range (4 * p.lmem)).filterMap fun j =>
        let b : Byte := BitVec.ofNat 8 (blockGet s (ia + recordAt s p p.nteams + j) 1)
        if b = 0 then none else some (2 ^ 19 * (j / p.lmem) + j % p.lmem, b)
      let s := readTouch s p.dom true ((List.range ((blockSize s p + 63) / 64)).map fun i => ia + 64 * i)
      { s with teams := teams }.modPlot pid fun p => { p with spm := spm }

/-- A team as it is saved: a waiter of the watch table leaves it, as by a wake (R251); any other wait it keeps, also a WAITA that has not been
compared, since its page faults, and the post that stalls (R45). -/
def saveTeam (s : State) (tk : Nat) : State :=
  let s := settleRaces (landAll s tk) fun r _ => r.tk == tk
  match (s.team tk).st.watchOf with
  | none => s
  | some a => match Tbl.find? s.accs a with
    | none => s
    | some b => if b.counted then s else wakeWaiter (unwatch s b.watchHome a) a

/-- A stopped plot is saved and its slot, windows and scratchpad are freed. The spec does not say which moment makes one plot the one pre-empted
earlier (R46): it is that of the save, which gives the plot its number (log entry 25). -/
def plotSave (s : State) (pid : Nat) : State :=
  let p := s.plot pid
  if p.st != .preempting || !(plotTeams p).all (saveReady s) then s
  else
    let quad := 12 * p.dom + p.quad
    let s := saveBlock ((plotTeams p).foldl saveTeam s) pid
    let kept : Mem := (List.range 4).foldl (fun m k =>
      let from_ := 2 ^ 19 * coreAt s (4 * quad) k + p.lmbase
      (s.spm.filter fun c => decide (from_ ≤ c.1) && decide (c.1 < from_ + p.lmem)).foldl (fun m c => Mem.set m (2 ^ 19 * k + (c.1 - from_)) c.2) m) []
    let (n, s) := s.newId
    let posn := (plotTeams p).map fun tk => posOf s (s.team tk).core
    let s := s.modPlot pid fun p => { p with st := if p.halt then .halted else .saved, seq := n, spm := kept, posn := posn }
    s.modQuad quad fun q => { q with slots := Tbl.erase q.slots p.slot }

/-! ### Posts that stall move with their team (R45, R331) -/

def Place.move (f : Nat → Nat) : Place → Place
  | .lm a => .lm (f a)
  | p => p
def Work.move (f : Nat → Nat) : Work → Work
  | .rd p n => .rd (p.move f) n
  | .wr p n m => .wr (p.move f) n m
  | .put p n => .put (p.move f) n
  | w => w

/-- The posts of a team go from the lists of its old core to those of its new one; `f` takes a scratchpad byte of the plot to its new place. -/
def movePosts (s : State) (tk old new : Nat) (f : Nat → Nat) : State :=
  let c := s.core old
  let mats := (c.stallM.filter (·.tk == tk)).map fun e => { e with spec := e.spec.map (·.move f) }
  let ids := c.stallC.filter fun i => (Tbl.find? s.cmds i).any (·.tk == tk)
  let insts := c.stallI.filter fun i => (Tbl.vals s.cmds).any fun m => m.inst == i && m.tk == tk
  let move (m : Cmd) : Cmd := if ids.contains m.id || insts.contains m.inst then
    { m with core := new, work := m.work.map (·.move f), dst := if m.kind == .ired true || m.kind == .ired false then f m.dst else m.dst } else m
  let s := s.modCore old fun c => { c with
    stallM := c.stallM.filter (·.tk != tk), stallC := c.stallC.filter (fun i => !ids.contains i), stallI := c.stallI.filter fun i => !insts.contains i }
  let s := s.modCore new fun c => { c with stallM := c.stallM ++ mats, stallC := c.stallC ++ ids, stallI := c.stallI ++ insts }
  { s with cmds := Tbl.mapV move s.cmds }

/-- The posts of a core that now find room are made. -/
def pumpAll (s : State) (core : Nat) : State :=
  let s := pumpCopy s core (s.core core).stallC.length
  let s := pumpMatrix s core (s.core core).stallM.length
  pumpIred s core (s.core core).stallI.length

/-- A team tests again the wait in which it was saved, and a parked one repeats its accesses. Its core's L1 holds no line older than what the
team has read or stored elsewhere (R210, R216). -/
def restartTeam (s : State) (tk core : Nat) : State :=
  let toks := (tokensOf s tk).filter fun t => !(gleanOf s tk).any fun g => g.tok == t.2
  let olds := (((Tbl.vals s.accs).filter (·.tk == tk)).map (·.core)).eraseDups
  let s := toks.foldl (fun s t => withdraw s t.1 t.2 tk) (olds.foldl (fun s c => leaveFilter s c tk) (l1Drop s core))
  let mine (a : Acc) : Acc := if a.tk != tk then a else { a with
    core := core, lanes := a.lanes.map fun l => match l.st with | .faulted t _ => { l with st := .pending, again := some t } | _ => l }
  let s := { s with accs := Tbl.mapV mine s.accs }
  let s := s.modTeam tk fun t => { t with
    fetchTok := none, last := none, redir := 0, since := (s.core core).cyc, owed := false, tvecWas := none
    st := match t.st with | .ready | .ended | .faultPark _ => t.st | x => .faultPark x }
  pumpAll (unpark s tk) core

/-- A saved plot placed again. It has a new number of binding, so it ranks as bound at its resume where R41 and R44 ask which plot was bound
earliest or most recently: the spec does not say whether its first binding counts (log entry 25). -/
def resumeAt (s : State) (pid : Nat) (sp : Spot) : State :=
  let s := loadBlock s pid
  let p := s.plot pid
  let quad := 12 * sp.dom + sp.quad
  let (n, s) := s.newId
  let s := s.modPlot pid fun p => { p with st := .bound, dom := sp.dom, quad := sp.quad, face := sp.face, slot := sp.slot, lmbase := sp.lmbase, wbase := sp.wbase, seq := n, spm := [], area := none, posn := [] }
  let s := zeroLm s quad sp.lmbase p.lmem
  let s := { s with spm := p.spm.foldl (fun m c => Mem.set m (2 ^ 19 * coreAt s (4 * quad) (c.1 / 2 ^ 19) + sp.lmbase + c.1 % 2 ^ 19) c.2) s.spm }
  let shift (a : Nat) : Nat := 2 ^ 19 * coreAt s (4 * quad) (posOf s (a / 2 ^ 19)) + sp.lmbase + (a % 2 ^ 19 - p.lmbase)
  let s := ((plotTeams p).zip sp.cps).foldl (fun s (tk, x) =>
    (movePosts s tk (s.team tk).core (4 * quad + x.1) shift).modTeam tk fun t => { t with core := 4 * quad + x.1, part := x.2, lmbase := sp.lmbase }) s
  let s := putRecordOf s pid (if (plotTeams p).all (fun tk => (s.team tk).st == .ended) then 3 else 1)
  ((plotTeams p).zip sp.cps).foldl (fun s (tk, x) => restartTeam s tk (4 * quad + x.1)) s

/-- Every plot of a list resumed, if each can be placed. -/
def resumeAll : List Nat → State → Option State
  | [], s => some s
  | pid :: r, s => match resumeSpot s (s.plot pid) with
    | none => none
    | some sp => resumeAll r (resumeAt s pid sp)

/-- Whether some plot of a class that waits to be bound could be bound in a domain now. -/
def fitsIn (s : State) (cls d : Nat) : Bool :=
  (roundRobin s cls cls false).any fun sid =>
    let w := s.sow sid
    if w.waitsWhole then (bindSowing s sid).any fun s' => (plotsOf s' sid).any fun p => p.2.homeDom == d
    else (candidates w).any fun p => (spotFor s w p (w.fallback.contains (failKey w p))).any fun x => x.1 == d

/-- A pre-empted plot resumes, in the order of R46, before any new plot of its class, and after one of a lower class that can
be placed in its domain. The plots of a co-resident sowing resume together. R34 bars plots that are newly bound from the room of a co-resident
sowing at the head of its class, and says nothing of one that resumes: it may take it (log entry 25). -/
def resumePlot (s : State) (pid : Nat) : State :=
  let p := s.plot pid
  let before (o : Plot) : Bool := decide (o.cls < p.cls) || (o.cls == p.cls && decide (o.seq < p.seq))
  let mates := if p.cores then plotsOf s p.sow else [(pid, p)]
  if (Tbl.find? s.plots pid).isNone || !mates.all (fun m => mayResume s m.2) then s
  else if s.plots.any fun o => o.2.homeDom == p.homeDom && o.1 != pid && !(p.cores && o.2.sow == p.sow) && mayResume s o.2 && before o.2 && (resumeSpot s o.2).isSome then s
  else if (List.range p.cls).any fun c => fitsIn s c p.homeDom then s
  else ((resumeAll (mates.map (·.1)) s).map fun t => if p.cores then sameMoment t p.sow s.fresh else t).getD s

/-- A halted plot is let go, or ended, at the debugger's or system software's asking. -/
def debugResume (s : State) (pid : Nat) (resume : Bool) : State :=
  let p := s.plot pid
  if p.st != .halted then s
  else if resume then s.modPlot pid fun p => { p with st := .saved, halt := false, haltRec := [] }
  else
    let s := (plotTeams p).foldl dropTeam s
    (erasePlot s pid).modSow p.sow fun w => { w with retired := w.retired + 1 }

/-- Whether everything owed to a plot has returned (R48). -/
def retireReady (s : State) (p : Plot) : Bool :=
  (plotTeams p).all fun tk => ((s.team tk).st = .ended || p.st == .stopping) && enginesDone s tk && (gleanOf s tk).isEmpty
    && (Tbl.vals s.accs).all (·.tk != tk) && s.invs.all fun v => !v.isOf tk fun _ => true

def plotRetire (s : State) (pid : Nat) : State :=
  let p := s.plot pid
  if (Tbl.find? s.plots pid).isNone || !(p.st == .bound || p.st == .preempting || p.st == .stopping) || !retireReady s p then s
  else
    let s' := erasePlot s pid
    if p.st == .stopping && p.restart && !(s.sow p.sow).ended then
      -- it is bound again with fresh state (R49, R333)
      requeue (s'.modSow p.sow fun w => { w with redo := w.redo ++ [p.no] }) p.sow p.cls
    else s'.modSow p.sow fun w => { w with retired := w.retired + 1 }

/-- A ready team that has not issued for 255 cycles is owed its share (R42). -/
def minShare (s : State) (tk : Nat) : State :=
  let t := s.team tk
  if (Tbl.find? s.teams tk).isSome && t.st = .ready && decide (t.since + 255 ≤ (s.core t.core).cyc) then s.modTeam tk fun t => { t with owed := true } else s

/-! ## The barrier networks (R275, R276) -/

/-- Whether every member of a phase that has not ended has arrived. `now` is a team whose barrier is issuing: it arrives once its release has
performed. -/
def netDue (s : State) (level a dom : Nat) (now : Option Nat) : Bool :=
  let live := (netMembers s level a dom).filter fun tk => (s.team tk).st != .ended
  let arrives (tk : Nat) : Bool := some tk == now && (s.team tk).st = .ready && released s level tk
  !live.isEmpty && live.all fun tk => (s.plot (pidOf tk)).resident && (netArrived s level tk || arrives tk)

/-- A phase completes: every member makes its release and its acquire, and those that wait go on. -/
def netFinish (s : State) (level a dom : Nat) : State :=
  let live := (netMembers s level a dom).filter fun tk => (s.team tk).st != .ended
  let scope := level + 1
  let s := live.foldl (fun s tk =>
    let core := (s.team tk).core
    releaseBy (if (s.team tk).st = .netWait level then wakeTeam s tk else s) tk core scope ((s.team tk).grp + 1) 0) s
  let s := live.foldl (fun s tk => acquireAct s tk (s.team tk).core scope) s
  match level with
  | 0 => s.modPlot a fun p => { p with pbarPhase := (p.pbarPhase + 1) % 2 ^ 16 }
  | 1 => s.modSow a fun w => { w with dbar := Tbl.set w.dbar dom (Tbl.getD w.dbar dom 0 + 1) }
  | _ => s.modSow a fun w => { w with wbar := w.wbar + 1 }

/-- A phase completes when every member that has not ended has arrived. -/
def netComplete (s : State) (level a dom : Nat) : State := if netDue s level a dom none then netFinish s level a dom else s

/-- R33: The dispatcher places a queued eligible plot in a qualifying quad, writes its bind record and creates its teams. Reads nothing. -/
def execBindPlot (s : State) : Host.Outcome State Fault Refusal :=
  ev (fun _ s => bindPlot s) s

/-- R32: A plot's hinted domain has offered no free slot for 50 µs, so the plot may go to another domain chosen by hops and live cores. Reads a, the sowing, and b, the plot number. -/
def execHintFallbackExpiry (s : State) : Host.Outcome State Fault Refusal :=
  ev (fun x s => hintExpiry s x.a x.b) s

/-- R34: A co-resident sowing has stood at the head of its class for 50 µs, so its plots may be placed outside their hinted domains. Reads a, the sowing. -/
def execCoresidentFallbackExpiry (s : State) : Host.Outcome State Fault Refusal :=
  ev (fun x s => coExpiry s x.a) s

/-- R289: The domain controller moves an eligible loam plot into its loam core's dispatch queue. Reads a, the loam core. -/
def execLoamDispatch (s : State) : Host.Outcome State Fault Refusal :=
  ev (fun x s => loamDispatch s x.a) s

/-- R236: The dispatcher rereads a queued sowing's wait counter with an acquire at .system and updates its eligibility. Reads a, the sowing, ext, and flag, which says that another node or a far frame gives no value. -/
def execWaitCounterPoll (s : State) : Host.Outcome State Fault Refusal :=
  ev (fun x s => pollCounter s x.a x.ext x.flag) s

/-- R236: The last plot of a sowing has retired and all its writes are in their layers, so the part atomically adds 1 to the wait counter with a release. Reads a, the sowing, and ext, 0 or the kind of fault that a counter on another node met. -/
def execSowingComplete (s : State) : Host.Outcome State Fault Refusal :=
  ev (fun x s => sowComplete s x.a x.ext) s

/-- R328: Once a stopped plot's counters and engine entries have drained, its context is saved and its slot, windows and scratchpad are freed. Reads a, the plot. -/
def execPlotSave (s : State) : Host.Outcome State Fault Refusal :=
  ev (fun x s => plotSave s x.a) s

/-- R46: A pre-empted plot is placed again in its domain and gets every register, mask, counter and scratchpad byte back. Reads a, the plot. -/
def execResumePlot (s : State) : Host.Outcome State Fault Refusal :=
  ev (fun x s => resumePlot s x.a) s

/-- R133: The debugger or system software asks the domain controller to resume or end a halted plot. Reads a, the plot, and flag, whether it is resumed. -/
def execDebugResumePlot (s : State) : Host.Outcome State Fault Refusal :=
  ev (fun x s => debugResume s x.a x.flag) s

/-- R48: All teams of a plot have ended and every acknowledgement owed to it has returned, so its windows, scratchpad and slot are freed. Reads a, the plot. -/
def execPlotRetire (s : State) : Host.Outcome State Fault Refusal :=
  ev (fun x s => plotRetire s x.a) s

/-- R42: A ready team has gone 255 cycles without issuing and becomes owed its minimum share, so the arbiter picks it first. Reads a, the team. -/
def execMinShareOwed (s : State) : Host.Outcome State Fault Refusal :=
  ev (fun x s => minShare s x.a) s

/-- R275: Every live member has arrived at a network barrier phase, and the waiting teams acquire and wake. Reads c, the level; a, the plot or the sowing; b, the domain. -/
def execNetbarPhaseComplete (s : State) : Host.Outcome State Fault Refusal :=
  ev (fun x s => netComplete s x.c x.a x.b) s

end Sys2Proof.Machine
end

