-- ==== Sys2Proof/Machine/Control.lean ====
section
/-! DEFINITION. Transfers of control, waits, traps, the CSR space, barriers and watches (R120 to R133, R273 to R279, R285). -/
namespace Sys2Proof.Machine

/-! ## Transfers (R120 to R125) -/

/-- A transfer is taken: the PC after the group is its destination, which the end of the group checks (R120). -/
def jump (s : State) (target : Nat) : State :=
  let s := s.modCt fun t => { t with pc := target % 2 ^ 64 }
  { s with cur := { s.cur with moved := true } }

/-- A relative destination of the word under way (R122). One below 0 or at or past 2^57, of which the spec says nothing, is taken modulo 2^64 and
refused like a register's (log entry 25). -/
def relTarget (s : State) (off : Nat) : Nat := ux 64 (Int.ofNat s.cur.addr + 4 * sx 16 off)

/-- The control word of a packet as the team fetches it, and whether it marks filler (R50, R51). -/
def codeWord (s : State) (tk va : Nat) : Nat :=
  match translate s tk va with
  | none => 0
  | some ia =>
    let outside := Tbl.getD s.cur.arg.code va 0
    if iaNode ia != 0 then outside
    else match (pageOf s (iaHome ia) ia s.cur.arg.flag).2 with
      | .local_ _ key _ => homePeek s (iaHome ia) key 4
      | .far _ => outside
      | .fault _ => 0
def fillerAt (s : State) (tk va : Nat) : Bool := nb (codeWord s tk (va / 16 * 16)) 30 2 == 3

/-- The page of a code address, if it faults or is moving: its IA and the kind of the fault. -/
def codeFault (s : State) (tk va : Nat) : Option (Nat × Nat) :=
  match translate s tk va with
  | none => none
  | some ia =>
    if iaNode ia != 0 then none
    else match (pageOf s (iaHome ia) ia s.cur.arg.flag).2 with
      | .fault k => some (ia, k)
      | _ => none

/-- The address that sequential fetch reaches after a word: past control words and filler packets (R51, R52); at most n
filler packets are passed over. -/
def seqAfter (s : State) (tk a : Nat) : Nat → Nat
  | 0 => (a + 4) % 2 ^ 57
  | n + 1 =>
    if (a + 4) % 16 != 0 then a + 4
    else
      let p := (a + 4) % 2 ^ 57
      if fillerAt s tk p then seqAfter s tk (p + 12) n else p + 4

/-- Whether a destination names no instruction word (R52, R122). -/
def targetBad (s : State) (tk a : Nat) : Bool :=
  decide (2 ^ 57 ≤ a) || a % 4 != 0 || a % 16 == 0 || fillerAt s tk a

/-- The packets of the address space: a sequential fetch passes over no more. -/
def fillerFuel : Nat := 2 ^ 53

/-- Where the next group of a team starts: at an address; nowhere, since the destination of a transfer names no instruction word; or not yet,
since the page of a destination that is still to be checked makes the team wait (R51, R52). -/
inductive Start where
  | at_ (va : Nat)
  | bad (word target : Nat)
  | wait (ia kind : Nat)

/-- The start of a team's next group. A packet of filler that sequential fetch has reached is passed over; a handler's first word is looked at
as it is (R317). -/
def startOf (s : State) (tk : Nat) : Start :=
  let t := s.team tk
  match t.via with
  | some (w, rejoin) => match codeFault s tk t.pc with
    | some (ia, k) => .wait ia k
    | none => if targetBad s tk t.pc then .bad w t.pc else .at_ (if rejoin then seqAfter s tk t.pc fillerFuel else t.pc)
  | none => if !t.entered && fillerAt s tk t.pc then .at_ (seqAfter s tk (t.pc / 16 * 16 + 12) fillerFuel) else .at_ t.pc

/-- BRV (R29, R125). -/
def brvAct (s : State) (neg : Bool) (q target join : Nat) : State :=
  let t := s.ct
  let tv := t.view s.cur.cyc
  let m := t.mask
  let taken : BitVec 1024 := (maskLanes m).foldl (fun a l => if tv.rdP q l != neg then setBit a l true else a) 0
  let rejoin : SEntry := ⟨true, join, m, tv.fmt⟩
  if taken = m then jump (s.modCt fun t => { t with stack := rejoin :: t.stack }) target
  else if taken = 0 then s.modCt fun t => { t with stack := rejoin :: t.stack }
  else s.modCt fun t => { t with stack := ⟨false, target, taken, tv.fmt⟩ :: rejoin :: t.stack, mask := m &&& ~~~taken }

/-- The entries a BRV pushes. -/
def brvNeeds (s : State) (neg : Bool) (q : Nat) : Nat :=
  let t := s.ct
  let tv := t.view s.cur.cyc
  let ls := maskLanes t.mask
  if (ls.all fun l => tv.rdP q l != neg) || (ls.all fun l => tv.rdP q l == neg) then 1 else 2

/-- JOIN (R29). -/
def joinAct (s : State) : State :=
  match s.ct.stack with
  | [] => s
  | x :: r =>
    let s := s.modCt fun t => { t with stack := r, mask := x.mask, fmt := x.fmt }
    -- a join address that names no instruction word is itself the destination that the check refuses (R125)
    if !x.rejoin || targetBad s s.cur.tk x.pc then jump s x.pc
    else if (codeFault s s.cur.tk x.pc).isSome then jump (s.modCt fun t => { t with via := some (s.cur.addr, true) }) x.pc
    else jump s (seqAfter s s.cur.tk x.pc fillerFuel)

/-! ## The CSR space (R87, R89, R285) -/

/-- Half h of a 64-bit register. -/
def half (x h : Nat) : Nat := nb x (32 * h) 32

/-- The domain number that a team reads: the guest's where a hypervisor maps the domain (R351). -/
def domNumber (s : State) (d : Nat) : Nat := if (s.dom d).guest = 0 then d else (s.dom d).guestNo

/-- The core whose name a team reads: its own, or, while another quad carries its plot, that of the same position in the quad carried (R352). -/
def nameCore (s : State) (tk : Nat) : Nat :=
  let c := (s.team tk).core
  match (s.plot (pidOf tk)).face with
  | none => c
  | some q => coreAt s (4 * q) (posOf s c)

/-- The in-flight counters as INFLT shows them. -/
def inflt (t : Team) : Nat := (List.range 5).foldl (fun a p => a + t.count p * 2 ^ (6 * p)) 0

/-- Register k of the counters at 0x0420 to 0x0447 of a core. -/
def coreCounter (c : Core) (k : Nat) : Nat :=
  if k < 16 then half (Tbl.getD c.pmc (k / 2) 0).toNat (k % 2)
  else if k < 24 then (Tbl.getD c.pevsel (k - 16) 0).toNat
  else if k < 32 then 0
  else half (match (k - 32) / 2 with | 0 => c.cyc | 1 => c.grp | 2 => c.mstall | _ => c.rets) (k % 2)

/-- The 32 bits that a number names, as the team under way reads them. The counters and snapshot copies of a team whose quad another carries are
those of its vanished core, as they stood at the fence (R352). -/
def csrRead (s : State) (i : Nat) : Nat :=
  let tk := s.cur.tk
  let t := s.ct.view s.cur.cyc
  let c := s.core t.core
  let face := s.core (nameCore s tk)
  let d := s.dom (domOf t.core)
  let q := s.quad (quadOf t.core)
  if i = 0x0000 then Config.partid.toNat
  else if i = 0x0001 then 64 * domNumber s (domOf (nameCore s tk)) + nameCore s tk % 48
  else if i = 0x0002 then tk % 16
  else if i = 0x0003 then pidOf tk % 2 ^ 32
  else if i = 0x0004 then sidOf tk
  else if i = 0x0008 then t.vwv
  else if i = 0x0009 then t.vwt
  else if i = 0x000A then t.vwa
  else if i < 0x0014 then (Tbl.getD face.nb (i - 0x0010) 0).toNat
  else if i = 0x0020 then t.tcause.toNat
  else if i < 0x0023 then half t.tepc.toNat (i - 0x0021)
  else if i < 0x0025 then half t.tval.toNat (i - 0x0023)
  else if i < 0x0027 then half c.tvec.toNat (i - 0x0025)
  else if i = 0x0030 then t.expcnt.toNat
  else if i < 0x0050 then (Tbl.getD t.tcr (i - 0x0040) 0).toNat
  else if i < 0x0160 then
    let j := i - 0x0100
    let r := Tbl.getD (s.sow (sidOf tk)).ranges (j / 6) {}
    half (match j % 6 / 2 with | 0 => r.w0 | 1 => r.w1 | _ => r.w2).toNat (j % 2)
  else if i < 0x0404 then ccWord t (i - 0x0400)
  else if i = 0x0404 then t.ccf.toNat
  else if i = 0x0408 then inflt t
  else if i = 0x0410 then half s.tick 0
  else if i = 0x0411 then (if t.shadowV then t.shadow.toNat else half s.tick 1)
  else if i < 0x0448 then coreCounter face (i - 0x0420)
  else if i = 0x0480 then d.undefvc.toNat
  else if i = 0x0481 then d.fqovf.toNat
  else if i = 0x0482 then d.wtfull.toNat
  else if i = 0x0483 then d.watchev.toNat
  else if i < 0x04C2 then half (q.energy / 16) (i - 0x04C0)
  else if i = 0x04C2 then q.qthrot.toNat
  else if i = 0x04C3 then q.qresw.toNat
  else if i = 0x04C4 then q.ratio
  else if i = 0x0500 then (if face.snap.valid then 2 ^ 31 else 0) + 2 ^ 8 * face.snap.src + face.snap.miss
  else if i = 0x0501 then face.snap.tag
  else if i < 0x0504 then half face.snap.tick (i - 0x0502)
  else face.snap.copies.getD (i - 0x0540) 0

/-- A read of TICK moves the team's tick shadow (R280). -/
def csrReadAct (s : State) (i : Nat) : State :=
  if i = 0x0410 then s.modCt fun t => { t with shadow := BitVec.ofNat 8 (half s.tick 1), shadowV := true }
  else if i = 0x0411 then s.modCt fun t => { t with shadowV := false }
  else s

/-- A 64-bit register with one half written. -/
def putHalf (x : DWord) (h v : Nat) : DWord :=
  BitVec.ofNat 64 (if h = 0 then half x.toNat 1 * 2 ^ 32 + v % 2 ^ 32 else v % 2 ^ 32 * 2 ^ 32 + half x.toNat 0)

/-- A code address register with one half written: bits above 56 read zero (R85). -/
def putPc (x : DWord) (h v : Nat) : DWord := BitVec.ofNat 64 ((putHalf x h v).toNat % 2 ^ 57)
/-- Whether TEPC or TVEC would be left naming no instruction word (R85). -/
def pcBad (x : DWord) : Bool := !([4, 8, 12].contains (x.toNat % 16))

/-- What a CSRW checks beyond its form. The spec names no field for the OPERAND of a TEPC or TVEC that would name no word: TVAL says 0, the D field
(log entry 25). -/
def csrwVerdict (s : State) (i v : Nat) : Verdict :=
  let t := s.ct
  let bad := if i = 0x0021 || i = 0x0022 then pcBad (putPc t.tepc (i - 0x0021) v)
    else if i = 0x0025 || i = 0x0026 then pcBad (putPc (s.core t.core).tvec (i - 0x0025) v)
    else false
  if bad then .trap 0x06 (wordVal s 0) else .go

/-- The write of a CSR (R85, R89, R281, R285). -/
def csrWrite (s : State) (i v : Nat) : State :=
  let core := s.ct.core
  if i = 0x0020 then s.modCt fun t => { t with tcause := BitVec.ofNat 32 (v % 512) }
  else if i < 0x0023 then s.modCt fun t => { t with tepc := putPc t.tepc (i - 0x0021) v }
  else if i < 0x0025 then s.modCt fun t => { t with tval := putHalf t.tval (i - 0x0023) v }
  else if i < 0x0027 then
    (s.modCt fun t => { t with tvecWas := some (t.tvecWas.getD (s.core core).tvec) }).modCore core fun c => { c with tvec := putPc c.tvec (i - 0x0025) v }
  else if i < 0x0404 then setCc s s.cur.tk (i - 0x0400) v
  else if i = 0x0404 then s.modCt fun t => { t with ccf := BitVec.ofNat 32 v }
  else if i < 0x0430 then s.modCore (nameCore s s.cur.tk) fun c => { c with
    pmc := Tbl.put c.pmc ((i - 0x0420) / 2) (putHalf (Tbl.getD c.pmc ((i - 0x0420) / 2) 0) (i % 2) v) 0 }
  else s.modCore (nameCore s s.cur.tk) fun c => { c with pevsel := Tbl.put c.pevsel (i - 0x0430) (BitVec.ofNat 32 v &&& 0x800000FF#32) 0 }

/-! ## Barriers (R273 to R275) -/

/-- The completion word of a BAR instruction and its checks (R151, R167). -/
def barVerdict (s : State) (cw : Nat) : Verdict :=
  if cwBad cw then .trap 0x06 (wordVal s 1)
  else if !cwBar cw then .go
  else if cwTarget cw % 16 != 0 then .trap 0x07 (cwTarget cw)
  else if !lmOk s.ct (cwTarget cw) 16 then .trap 0x10 (cwTarget cw)
  else .go

/-- BARINIT and BARARM (R273). -/
def barInstr (i : Instr) (arm : Bool) (d a : BitVec 8) (s : State) : Host.Outcome State Fault Refusal :=
  let cw (s : State) := (s.ct.view s.cur.cyc).rdU a.toNat 1
  let x (s : State) := (s.ct.view s.cur.cyc).rdU d.toNat 1
  issue (form i) (fun s => match barVerdict s (cw s) with
      | .go => if cwBar (cw s) && decide (63 ≤ s.ct.count 2) then .hold else .go
      | v => v)
    (fun s =>
      let w := cw s
      if cwBar w then startAcc s (.bar arm) 16 1 1 2 0 true [{ lane := 0, va := cwTarget w, loc := .lm (cwKey s s.cur.tk w), data := x s }]
      else
        let n := cwTarget w
        let c := ccWord s.ct n
        -- a count that starts anew starts with no release observed
        let s := if arm && c % 2 ^ 31 != 0 then s else { s with seen := Tbl.erase s.seen (targetKey s s.cur.tk w) }
        if arm then setCc s s.cur.tk n (c / 2 ^ 31 * 2 ^ 31 + (c + x s) % 2 ^ 31)
        else setCcCode (setCc s s.cur.tk n (x s % 2 ^ 31)) s.cur.tk n 0) s

/-- PBAR, DBAR and WBAR: a release, and then the arrival, which is made once the release has performed. The last member to arrive completes
the phase as it issues (R40, R275). -/
def netbar (i : Instr) (level : Nat) (s : State) : Host.Outcome State Fault Refusal :=
  issue (form i)
    (fun s => if level != 0 && !(s.plot (pidOf s.cur.tk)).cores then .trap 0x06 (wordVal s 2) else releaseVerdict s)
    (fun s =>
      let a := if level = 0 then pidOf s.cur.tk else sidOf s.cur.tk
      let d := domOf s.ct.core
      if netDue s level a d (some s.cur.tk) then netFinish s level a d else enterWait s (.netWait level)) s

/-- R123: Relative branch on a uniform predicate. -/
def execBra (n : BitVec 1) (q : BitVec 3) (i : BitVec 16) (s : State) : Host.Outcome State Fault Refusal :=
  issue (form (.bra n q i)) noCheck (fun s =>
    if (s.ct.view s.cur.cyc).rdQ q.toNat != (n == 1) then jump s (relTarget s i.toNat) else s) s

/-- R123: Writes the link and branches relative. -/
def execCall (d : BitVec 8) (i : BitVec 16) (s : State) : Host.Outcome State Fault Refusal :=
  issue (form (.call d i)) noCheck (fun s =>
    jump (result s (some 1) s.cur.cyc (uniRes d.toNat 2 s.cur.link)) (relTarget s i.toNat)) s

/-- R124: Writes the link and jumps to a register pair. -/
def execJmp (d : BitVec 8) (a : BitVec 8) (s : State) : Host.Outcome State Fault Refusal :=
  issue (form (.jmp d a)) noCheck (fun s =>
    let target := (s.ct.view s.cur.cyc).rdU a.toNat 2
    jump (result s (some 1) s.cur.cyc (uniRes d.toNat 2 s.cur.link)) target) s

/-- R124: Returns to a register pair. -/
def execRet (a : BitVec 8) (s : State) : Host.Outcome State Fault Refusal :=
  issue (form (.ret a)) noCheck (fun s =>
    let target := (s.ct.view s.cur.cyc).rdU a.toNat 2
    jump (s.modCore s.ct.core fun c => { c with rets := c.rets + 1 }) target) s

/-- R125: Divergent branch that pushes the reconvergence stack; it requires an E word. The spec gives STACK_DEPTH no TVAL: it is the word, its
offset in the group and field 0 (log entry 25). -/
def execBrv (n : BitVec 1) (q : BitVec 3) (i : BitVec 16) (e : EPay) (s : State) : Host.Outcome State Fault Refusal :=
  let neg := n == 1
  issue (form (.brv n q i e))
    (fun s => if 32 < s.ct.stack.length + brvNeeds s neg q.toNat then .trap 0x08 (wordVal s 0) else .go)
    (fun s => brvAct s neg q.toNat (relTarget s i.toNat) (relTarget s (eBits e 0 16 0))) s

/-- R125: Pops the reconvergence stack. TVAL of its STACK_DEPTH is as for BRV (log entry 25). -/
def execJoin (s : State) : Host.Outcome State Fault Refusal :=
  issue (form .join) (fun s => if s.ct.stack.isEmpty then .trap 0x08 (wordVal s 0) else .go) joinAct s

/-- R126: q := any masked lane has the predicate set. -/
def execQredAny (d : BitVec 3) (a : BitVec 3) (s : State) : Host.Outcome State Fault Refusal :=
  issue (form (.qredAny d a)) noCheck (fun s =>
    let tv := (s.ct.view s.cur.cyc)
    result s (some 1) s.cur.cyc [(.q d.toNat, if (maskLanes tv.mask).any fun l => tv.rdP a.toNat l then 1 else 0)]) s

/-- R126: q := every masked lane has the predicate set. -/
def execQredAll (d : BitVec 3) (a : BitVec 3) (s : State) : Host.Outcome State Fault Refusal :=
  issue (form (.qredAll d a)) noCheck (fun s =>
    let tv := (s.ct.view s.cur.cyc)
    result s (some 1) s.cur.cyc [(.q d.toNat, if (maskLanes tv.mask).all fun l => tv.rdP a.toNat l then 1 else 0)]) s

/-- R127: Does nothing. -/
def execNop (s : State) : Host.Outcome State Fault Refusal :=
  issue (form .nop) noCheck (fun s => s) s

/-- R127: Sets the yield hint of its group. -/
def execYield (s : State) : Host.Outcome State Fault Refusal :=
  issue (form .yield) noCheck (fun s =>
    s.modCore s.ct.core fun c => { c with yielded := Tbl.set c.yielded s.ct.part (s.cur.tk + 1) }) s

/-- R128: Ends the team. -/
def execEndTeam (s : State) : Host.Outcome State Fault Refusal :=
  issue (form .endTeam) noCheck (fun s =>
    afterGroup s .ended) s

/-- R129: Parks until an in-flight counter is at most the threshold. -/
def execWaitc (d : BitVec 8) (a : BitVec 8) (s : State) : Host.Outcome State Fault Refusal :=
  issue (form (.waitc d a)) noCheck (fun s =>
    let thr := (s.ct.view s.cur.cyc).rdU a.toNat 1
    if s.ct.count d.toNat ≤ thr then leaveCount s s.cur.tk d.toNat
    else enterWait s (.counterWait d.toNat thr)) s

/-- R130: Raises a TRAP-class trap after its group. -/
def execTrap (i : BitVec 16) (s : State) : Host.Outcome State Fault Refusal :=
  issue (form (.trap i)) noCheck (fun s =>
    -- the group has issued and had its effect, so it is no longer the handler's first group
    afterGroup (s.modCt fun t => { t with entered := false }) (.trap 0x22 i.toNat s.cur.link)) s

/-- R131: Restores privilege and returns to TEPC. -/
def execEret (s : State) : Host.Outcome State Fault Refusal :=
  issue (form .eret) noCheck (fun s =>
    let s := trapReturn s s.cur.tk
    { s with cur := { s.cur with moved := true } }) s

/-- R132: Reads 32 bits of a CSR. -/
def execCsrr (d : BitVec 8) (i : BitVec 16) (s : State) : Host.Outcome State Fault Refusal :=
  issue (form (.csrr d i)) noCheck (fun s =>
    csrReadAct (result s (some 2) s.cur.cyc (uniRes d.toNat 1 (csrRead s i.toNat))) i.toNat) s

/-- R132: Writes 32 bits of a writable CSR. -/
def execCsrw (d : BitVec 8) (i : BitVec 16) (s : State) : Host.Outcome State Fault Refusal :=
  let v (s : State) := (s.ct.view s.cur.cyc).rdU d.toNat 1
  issue (form (.csrw d i)) (fun s => csrwVerdict s i.toNat (v s)) (fun s => csrWrite s i.toNat (v s)) s

/-- R133: Pulls the wafer-wide snapshot trip line with a tag. -/
def execSnap (a : BitVec 8) (s : State) : Host.Outcome State Fault Refusal :=
  issue (form (.snap a)) noCheck (fun s =>
    { s with trip := s.trip ++ [⟨1, (s.ct.view s.cur.cyc).rdU a.toNat 1, s.tick⟩] }) s

/-- R133: Pre-empts the plot and holds it halted for the debugger. -/
def execHalt (s : State) : Host.Outcome State Fault Refusal :=
  issue (form .halt) noCheck (fun s =>
    let t := s.ct
    haltPlot s (pidOf s.cur.tk) [s.cur.addr, t.tcause.toNat, t.tval.toNat, t.tepc.toNat]) s

/-- R273: Initialises a byte barrier or completion register. -/
def execBarinit (d : BitVec 8) (a : BitVec 8) (s : State) : Host.Outcome State Fault Refusal :=
  barInstr (.barinit d a) false d a s

/-- R273: Arms a barrier or adds to its expected bytes. -/
def execBararm (d : BitVec 8) (a : BitVec 8) (s : State) : Host.Outcome State Fault Refusal :=
  barInstr (.bararm d a) true d a s

/-- A BARWAIT whose condition holds as it issues: the acquire, and then, where the target holds a fault, the trap, which comes after the group and
names the BARWAIT (R274). -/
def barLeave (s : State) (cw : Nat) : State :=
  let s := observeTarget s s.cur.tk cw
  match barFault s s.cur.tk cw with
  | none => s
  | some c =>
    if s.cur.phase = .effect then { s with cur := { s.cur with barFlt := some (s.cur.addr, cw, c) } }
    else barTrap s s.cur.tk cw c s.cur.addr

/-- R274: Waits for a barrier phase or completion register, then acquires and checks for faults. -/
def execBarwait (d : BitVec 8) (a : BitVec 8) (s : State) : Host.Outcome State Fault Refusal :=
  let cw (s : State) := (s.ct.view s.cur.cyc).rdU a.toNat 1
  let ph (s : State) := (s.ct.view s.cur.cyc).rdU d.toNat 1
  let now (s : State) := barCond s s.cur.tk (cw s) (ph s) && !barBusy s s.cur.tk (cw s)
  issue (form (.barwait d a)) (fun s => barVerdict s (cw s))
    (fun s => if now s then barLeave s (cw s)
      else enterWait s (.barWait (BitVec.ofNat 32 (cw s)) (BitVec.ofNat 32 (ph s)))) s

/-- R275: Plot-wide release, arrival and acquire barrier. -/
def execPbar (s : State) : Host.Outcome State Fault Refusal :=
  netbar .pbar 0 s

/-- R275: Domain-wide barrier of a co-resident sowing. -/
def execDbar (s : State) : Host.Outcome State Fault Refusal :=
  netbar .dbar 1 s

/-- R275: Wafer-wide barrier of a co-resident sowing. -/
def execWbar (s : State) : Host.Outcome State Fault Refusal :=
  netbar .wbar 2 s

/-- R277: Parks in the watch table unless the watched word differs from the expected value. -/
def execWaita (d : BitVec 8) (a : BitVec 8) (o : BitVec 6) (s : State) : Host.Outcome State Fault Refusal :=
  let va (s : State) := (s.ct.view s.cur.cyc).rdU a.toNat 2
  issue (form (.waita d a o)) (fun s => accessVerdict s false false false true false false 4 0 [va s])
    (fun s =>
      let id := s.fresh
      let s := startAcc s .waita 4 (o.toNat / 8) (o.toNat % 8) 0 0 true
        [{ lane := 0, va := va s, loc := locOf s false false (va s), data := (s.ct.view s.cur.cyc).rdU d.toNat 1 }]
      enterWait s (.watchWait id)) s

/-- R279: Stores a word and wakes the oldest waiter of its block. -/
def execWakea (d : BitVec 8) (a : BitVec 8) (o : BitVec 6) (s : State) : Host.Outcome State Fault Refusal :=
  let va (s : State) := (s.ct.view s.cur.cyc).rdU a.toNat 2
  issue (form (.wakea d a o)) (fun s => accessVerdict s false false false false true (o.toNat / 8 == 3) 4 1 [va s])
    (fun s => startStore s .wakea 4 (o.toNat / 8) (o.toNat % 8) 1 true false
      [{ lane := 0, va := va s, loc := locOf s false false (va s), data := (s.ct.view s.cur.cyc).rdU d.toNat 1 }]) s

end Sys2Proof.Machine
end

