-- ==== Sys2Proof/Decode.lean ====
section
/-! DEFINITION. Decoding: from an instruction word and its E word to an instruction, from the field layouts of R53 to R56,
R68 to R73, R299 and R300; and the encoder, from the same layouts. A row of a table lists the bits that name the
instruction (lowest bit, width, value: its opcode below the first split, its function bits, its unused fields, which hold
zero by R54) and how the operand fields are read. A word that fits no row names no instruction. -/
namespace Sys2Proof

/-- One row of an encoding table. -/
structure Row where
  fixed : List (Nat × Nat × Nat)
  build : Word → EPay → Instr

/-- The bits lo to lo + n - 1 of a word. -/
def fld (w : Word) (lo n : Nat) : BitVec n := w.extractLsb' lo n

/-- Whether a word has the fixed bits of a row. -/
def Row.fits (r : Row) (w : Word) : Bool := r.fixed.all fun f => (fld w f.1 f.2.1).toNat == f.2.2

/-- The instruction of the first row of a table that a word fits. -/
def pick (t : List Row) (w : Word) (e : EPay) : Option Instr :=
  match t with
  | [] => none
  | r :: t => if r.fits w then some (r.build w e) else pick t w e

/-- The main instruction set, by major opcode [30:24] (R68 to R73). Bit 31 is the chain bit (R53). -/
def mainRows (op : Nat) : List Row :=
  match op with
  | 0x00 => [⟨[], fun w e => .vadd (fld w 16 8) (fld w 8 8) (fld w 0 8) e⟩]
  | 0x01 => [⟨[], fun w e => .vaddBu (fld w 16 8) (fld w 8 8) (fld w 0 8) e⟩]
  | 0x02 => [⟨[], fun w e => .vsub (fld w 16 8) (fld w 8 8) (fld w 0 8) e⟩]
  | 0x03 => [⟨[], fun w e => .vsubBu (fld w 16 8) (fld w 8 8) (fld w 0 8) e⟩]
  | 0x04 => [⟨[], fun w e => .vmul (fld w 16 8) (fld w 8 8) (fld w 0 8) e⟩]
  | 0x05 => [⟨[], fun w e => .vmulBu (fld w 16 8) (fld w 8 8) (fld w 0 8) e⟩]
  | 0x06 => [⟨[], fun w e => .vmin (fld w 16 8) (fld w 8 8) (fld w 0 8) e⟩]
  | 0x07 => [⟨[], fun w e => .vminBu (fld w 16 8) (fld w 8 8) (fld w 0 8) e⟩]
  | 0x08 => [⟨[], fun w e => .vfma (fld w 16 8) (fld w 8 8) (fld w 0 8) e⟩]
  | 0x09 => [⟨[], fun w e => .vfmaBu (fld w 16 8) (fld w 8 8) (fld w 0 8) e⟩]
  | 0x0A => [⟨[], fun w e => .vmax (fld w 16 8) (fld w 8 8) (fld w 0 8) e⟩]
  | 0x0B => [⟨[], fun w e => .vmaxBu (fld w 16 8) (fld w 8 8) (fld w 0 8) e⟩]
  | 0x0C => [⟨[], fun w e => .vfcmp (fld w 19 5) (fld w 16 3) (fld w 8 8) (fld w 0 8) e⟩]
  | 0x0D => [⟨[], fun w e => .vfcmpBu (fld w 19 5) (fld w 16 3) (fld w 8 8) (fld w 0 8) e⟩]
  | 0x0E => [⟨[], fun w e => .vdot2 (fld w 16 8) (fld w 8 8) (fld w 0 8) e⟩]
  | 0x0F => [⟨[], fun w e => .vdot2Bu (fld w 16 8) (fld w 8 8) (fld w 0 8) e⟩]
  | 0x10 => [⟨[], fun w e => .viadd (fld w 16 8) (fld w 8 8) (fld w 0 8) e⟩]
  | 0x11 => [⟨[], fun w e => .viaddBu (fld w 16 8) (fld w 8 8) (fld w 0 8) e⟩]
  | 0x12 => [⟨[], fun w e => .visub (fld w 16 8) (fld w 8 8) (fld w 0 8) e⟩]
  | 0x13 => [⟨[], fun w e => .visubBu (fld w 16 8) (fld w 8 8) (fld w 0 8) e⟩]
  | 0x14 => [⟨[], fun w e => .vimul (fld w 16 8) (fld w 8 8) (fld w 0 8) e⟩]
  | 0x15 => [⟨[], fun w e => .vimulBu (fld w 16 8) (fld w 8 8) (fld w 0 8) e⟩]
  | 0x16 => [
      ⟨[(0, 7, 0)], fun w e => .vialuAnd (fld w 16 8) (fld w 8 8) (fld w 7 1) e⟩,
      ⟨[(0, 7, 1)], fun w e => .vialuOr (fld w 16 8) (fld w 8 8) (fld w 7 1) e⟩,
      ⟨[(0, 7, 2)], fun w e => .vialuXor (fld w 16 8) (fld w 8 8) (fld w 7 1) e⟩,
      ⟨[(0, 7, 3)], fun w e => .vialuAndn (fld w 16 8) (fld w 8 8) (fld w 7 1) e⟩,
      ⟨[(0, 7, 4)], fun w e => .vialuShl (fld w 16 8) (fld w 8 8) (fld w 7 1) e⟩,
      ⟨[(0, 7, 5)], fun w e => .vialuShr (fld w 16 8) (fld w 8 8) (fld w 7 1) e⟩,
      ⟨[(0, 7, 6)], fun w e => .vialuSar (fld w 16 8) (fld w 8 8) (fld w 7 1) e⟩,
      ⟨[(0, 7, 7)], fun w e => .vialuMins (fld w 16 8) (fld w 8 8) (fld w 7 1) e⟩,
      ⟨[(0, 7, 8)], fun w e => .vialuMaxs (fld w 16 8) (fld w 8 8) (fld w 7 1) e⟩,
      ⟨[(0, 7, 9)], fun w e => .vialuMinu (fld w 16 8) (fld w 8 8) (fld w 7 1) e⟩,
      ⟨[(0, 7, 0xa)], fun w e => .vialuMaxu (fld w 16 8) (fld w 8 8) (fld w 7 1) e⟩,
      ⟨[(0, 7, 0xb)], fun w e => .vialuMulhs (fld w 16 8) (fld w 8 8) (fld w 7 1) e⟩,
      ⟨[(0, 7, 0xc)], fun w e => .vialuMulhu (fld w 16 8) (fld w 8 8) (fld w 7 1) e⟩,
      ⟨[(0, 7, 0xd)], fun w e => .vialuDivs (fld w 16 8) (fld w 8 8) (fld w 7 1) e⟩,
      ⟨[(0, 7, 0xe)], fun w e => .vialuDivu (fld w 16 8) (fld w 8 8) (fld w 7 1) e⟩,
      ⟨[(0, 7, 0xf)], fun w e => .vialuRems (fld w 16 8) (fld w 8 8) (fld w 7 1) e⟩,
      ⟨[(0, 7, 0x10)], fun w e => .vialuRemu (fld w 16 8) (fld w 8 8) (fld w 7 1) e⟩,
      ⟨[(0, 7, 0x11)], fun w e => .vialuBfe (fld w 16 8) (fld w 8 8) (fld w 7 1) e⟩,
      ⟨[(0, 7, 0x12)], fun w e => .vialuBfi (fld w 16 8) (fld w 8 8) (fld w 7 1) e⟩,
      ⟨[(19, 5, 0), (4, 3, 2)], fun w e => .vialuCmp (fld w 16 3) (fld w 8 8) (fld w 7 1) (fld w 0 4) e⟩]
  | 0x17 => [
      ⟨[(0, 7, 0)], fun w e => .viunMov (fld w 16 8) (fld w 8 8) (fld w 7 1) e⟩,
      ⟨[(0, 7, 1)], fun w e => .viunNot (fld w 16 8) (fld w 8 8) (fld w 7 1) e⟩,
      ⟨[(0, 7, 2)], fun w e => .viunNeg (fld w 16 8) (fld w 8 8) (fld w 7 1) e⟩,
      ⟨[(0, 7, 3)], fun w e => .viunAbs (fld w 16 8) (fld w 8 8) (fld w 7 1) e⟩,
      ⟨[(0, 7, 4)], fun w e => .viunPopc (fld w 16 8) (fld w 8 8) (fld w 7 1) e⟩,
      ⟨[(0, 7, 5)], fun w e => .viunClz (fld w 16 8) (fld w 8 8) (fld w 7 1) e⟩,
      ⟨[(0, 7, 6)], fun w e => .viunBrev (fld w 16 8) (fld w 8 8) (fld w 7 1) e⟩]
  | 0x18 => [
      ⟨[(0, 6, 0)], fun w e => .vfunRcp (fld w 16 8) (fld w 8 8) (fld w 6 2) e⟩,
      ⟨[(0, 6, 1)], fun w e => .vfunRsqrt (fld w 16 8) (fld w 8 8) (fld w 6 2) e⟩,
      ⟨[(0, 6, 2)], fun w e => .vfunSqrt (fld w 16 8) (fld w 8 8) (fld w 6 2) e⟩,
      ⟨[(0, 6, 3)], fun w e => .vfunExp2 (fld w 16 8) (fld w 8 8) (fld w 6 2) e⟩,
      ⟨[(0, 6, 4)], fun w e => .vfunLog2 (fld w 16 8) (fld w 8 8) (fld w 6 2) e⟩,
      ⟨[(0, 6, 5)], fun w e => .vfunAbs (fld w 16 8) (fld w 8 8) (fld w 6 2) e⟩,
      ⟨[(0, 6, 6)], fun w e => .vfunNeg (fld w 16 8) (fld w 8 8) (fld w 6 2) e⟩,
      ⟨[(0, 6, 7)], fun w e => .vfunMov (fld w 16 8) (fld w 8 8) (fld w 6 2) e⟩]
  | 0x19 => [⟨[], fun w e => .vcvt (fld w 16 8) (fld w 8 8) (fld w 4 4) (fld w 0 4) e⟩]
  | 0x1A => [⟨[], fun w e => .vshuf (fld w 16 8) (fld w 8 8) (fld w 0 8) e⟩]
  | 0x1B => [⟨[], fun w e => .vshufBu (fld w 16 8) (fld w 8 8) (fld w 0 8) e⟩]
  | 0x1C => [
      ⟨[(0, 8, 0)], fun w e => .vredAdd (fld w 16 8) (fld w 8 8) e⟩,
      ⟨[(0, 8, 0x10)], fun w e => .vredMins (fld w 16 8) (fld w 8 8) e⟩,
      ⟨[(0, 8, 0x20)], fun w e => .vredMaxs (fld w 16 8) (fld w 8 8) e⟩,
      ⟨[(0, 8, 0x30)], fun w e => .vredMinu (fld w 16 8) (fld w 8 8) e⟩,
      ⟨[(0, 8, 0x40)], fun w e => .vredMaxu (fld w 16 8) (fld w 8 8) e⟩,
      ⟨[(0, 8, 0x50)], fun w e => .vredAnd (fld w 16 8) (fld w 8 8) e⟩,
      ⟨[(0, 8, 0x60)], fun w e => .vredOr (fld w 16 8) (fld w 8 8) e⟩,
      ⟨[(0, 8, 0x70)], fun w e => .vredXor (fld w 16 8) (fld w 8 8) e⟩,
      ⟨[(0, 8, 0x80)], fun w e => .vredFaddF32 (fld w 16 8) (fld w 8 8) e⟩,
      ⟨[(0, 8, 0x90)], fun w e => .vredFminF32 (fld w 16 8) (fld w 8 8) e⟩,
      ⟨[(0, 8, 0xa0)], fun w e => .vredFmaxF32 (fld w 16 8) (fld w 8 8) e⟩]
  | 0x1D => [
      ⟨[(0, 8, 0)], fun w e => .vrdiB32 (fld w 16 8) (fld w 8 8) e⟩,
      ⟨[(0, 8, 1)], fun w e => .vrdiB64 (fld w 16 8) (fld w 8 8) e⟩]
  | 0x1E => [
      ⟨[(0, 8, 0)], fun w e => .vwriB32 (fld w 16 8) (fld w 8 8) e⟩,
      ⟨[(0, 8, 1)], fun w e => .vwriB64 (fld w 16 8) (fld w 8 8) e⟩]
  | 0x20 => [⟨[], fun w e => .uadd (fld w 16 8) (fld w 8 8) (fld w 0 8) e⟩]
  | 0x21 => [⟨[], fun w e => .usub (fld w 16 8) (fld w 8 8) (fld w 0 8) e⟩]
  | 0x22 => [⟨[], fun w e => .umul (fld w 16 8) (fld w 8 8) (fld w 0 8) e⟩]
  | 0x23 => [⟨[], fun w e => .umulhs (fld w 16 8) (fld w 8 8) (fld w 0 8) e⟩]
  | 0x24 => [⟨[], fun w e => .umulhu (fld w 16 8) (fld w 8 8) (fld w 0 8) e⟩]
  | 0x25 => [⟨[], fun w e => .udivs (fld w 16 8) (fld w 8 8) (fld w 0 8) e⟩]
  | 0x26 => [⟨[], fun w e => .udivu (fld w 16 8) (fld w 8 8) (fld w 0 8) e⟩]
  | 0x27 => [⟨[], fun w e => .urems (fld w 16 8) (fld w 8 8) (fld w 0 8) e⟩]
  | 0x28 => [⟨[], fun w e => .uremu (fld w 16 8) (fld w 8 8) (fld w 0 8) e⟩]
  | 0x29 => [⟨[], fun w e => .uand (fld w 16 8) (fld w 8 8) (fld w 0 8) e⟩]
  | 0x2A => [⟨[], fun w e => .uor (fld w 16 8) (fld w 8 8) (fld w 0 8) e⟩]
  | 0x2B => [⟨[], fun w e => .uxor (fld w 16 8) (fld w 8 8) (fld w 0 8) e⟩]
  | 0x2C => [⟨[], fun w e => .ushl (fld w 16 8) (fld w 8 8) (fld w 0 8) e⟩]
  | 0x2D => [⟨[], fun w e => .ushr (fld w 16 8) (fld w 8 8) (fld w 0 8) e⟩]
  | 0x2E => [⟨[], fun w e => .usar (fld w 16 8) (fld w 8 8) (fld w 0 8) e⟩]
  | 0x2F => [
      ⟨[(0, 8, 0)], fun w e => .ualuMov (fld w 16 8) (fld w 8 8) e⟩,
      ⟨[(0, 8, 1)], fun w e => .ualuNot (fld w 16 8) (fld w 8 8) e⟩,
      ⟨[(0, 8, 2)], fun w e => .ualuNeg (fld w 16 8) (fld w 8 8) e⟩,
      ⟨[(0, 8, 3)], fun w e => .ualuAbs (fld w 16 8) (fld w 8 8) e⟩,
      ⟨[(0, 8, 4)], fun w e => .ualuPopc (fld w 16 8) (fld w 8 8) e⟩,
      ⟨[(0, 8, 5)], fun w e => .ualuClz (fld w 16 8) (fld w 8 8) e⟩,
      ⟨[(0, 8, 6)], fun w e => .ualuBrev (fld w 16 8) (fld w 8 8) e⟩,
      ⟨[(0, 8, 7)], fun w e => .ualuMins (fld w 16 8) (fld w 8 8) e⟩,
      ⟨[(0, 8, 8)], fun w e => .ualuMaxs (fld w 16 8) (fld w 8 8) e⟩,
      ⟨[(0, 8, 9)], fun w e => .ualuMinu (fld w 16 8) (fld w 8 8) e⟩,
      ⟨[(0, 8, 0xa)], fun w e => .ualuMaxu (fld w 16 8) (fld w 8 8) e⟩,
      ⟨[(0, 8, 0xb)], fun w e => .ualuAndn (fld w 16 8) (fld w 8 8) e⟩]
  | 0x30 => [⟨[], fun w e => .movi (fld w 16 8) (fld w 0 16) e⟩]
  | 0x31 => [⟨[], fun w e => .movhi (fld w 16 8) (fld w 0 16) e⟩]
  | 0x32 => [⟨[], fun w e => .addi (fld w 16 8) (fld w 0 16) e⟩]
  | 0x33 => [⟨[], fun w e => .ucmp (fld w 19 5) (fld w 16 3) (fld w 8 8) (fld w 0 8) e⟩]
  | 0x34 => [⟨[], fun w e => .ucmpi (fld w 19 5) (fld w 16 3) (fld w 8 8) (fld w 0 8) e⟩]
  | 0x35 => [⟨[], fun w e => .usel (fld w 16 8) (fld w 8 8) (fld w 0 8) e⟩]
  | 0x36 => [⟨[], fun w e => .ushli (fld w 16 8) (fld w 8 8) (fld w 0 8) e⟩]
  | 0x37 => [⟨[], fun w e => .ushri (fld w 16 8) (fld w 8 8) (fld w 0 8) e⟩]
  | 0x38 => [⟨[], fun w e => .usari (fld w 16 8) (fld w 8 8) (fld w 0 8) e⟩]
  | 0x39 => [⟨[], fun w e => .uandi (fld w 16 8) (fld w 8 8) (fld w 0 8) e⟩]
  | 0x3A => [
      ⟨[(19, 5, 0), (11, 5, 0), (5, 3, 0), (0, 2, 0)], fun w e => .upredAnd (fld w 16 3) (fld w 8 3) (fld w 2 3) e⟩,
      ⟨[(19, 5, 0), (11, 5, 0), (5, 3, 1), (0, 2, 0)], fun w e => .upredOr (fld w 16 3) (fld w 8 3) (fld w 2 3) e⟩,
      ⟨[(19, 5, 0), (11, 5, 0), (5, 3, 2), (0, 2, 0)], fun w e => .upredXor (fld w 16 3) (fld w 8 3) (fld w 2 3) e⟩,
      ⟨[(19, 5, 0), (11, 5, 0), (0, 8, 0x60)], fun w e => .upredNot (fld w 16 3) (fld w 8 3) e⟩,
      ⟨[(19, 5, 0), (11, 5, 0), (0, 8, 0x80)], fun w e => .upredMov (fld w 16 3) (fld w 8 3) e⟩]
  | 0x3C => [⟨[], fun w e => .ldcB32 (fld w 16 8) (fld w 0 16) e⟩]
  | 0x3D => [⟨[], fun w e => .ldcB64 (fld w 16 8) (fld w 0 16) e⟩]
  | 0x3E => [
      ⟨[(16, 8, 0), (0, 8, 0)], fun w e => .setfmt (fld w 8 8) e⟩,
      ⟨[(0, 16, 1)], fun w e => .getfmt (fld w 16 8) e⟩,
      ⟨[(0, 16, 2)], fun w e => .getst (fld w 16 8) e⟩,
      ⟨[(16, 8, 0), (0, 8, 3)], fun w e => .setst (fld w 8 8) e⟩]
  | 0x40 => [⟨[], fun w e => .ldB8 (fld w 16 8) (fld w 8 8) (fld w 0 8) e⟩]
  | 0x41 => [⟨[], fun w e => .ldB32 (fld w 16 8) (fld w 8 8) (fld w 0 8) e⟩]
  | 0x42 => [⟨[], fun w e => .ldB16 (fld w 16 8) (fld w 8 8) (fld w 0 8) e⟩]
  | 0x43 => [⟨[], fun w e => .ldB64 (fld w 16 8) (fld w 8 8) (fld w 0 8) e⟩]
  | 0x44 => [⟨[], fun w e => .ldB128 (fld w 16 8) (fld w 8 8) (fld w 0 8) e⟩]
  | 0x45 => [⟨[], fun w e => .ldS8 (fld w 16 8) (fld w 8 8) (fld w 0 8) e⟩]
  | 0x46 => [⟨[], fun w e => .ldS16 (fld w 16 8) (fld w 8 8) (fld w 0 8) e⟩]
  | 0x47 => [⟨[], fun w e => .uldB32 (fld w 16 8) (fld w 8 8) (fld w 0 8) e⟩]
  | 0x48 => [⟨[], fun w e => .stB8 (fld w 16 8) (fld w 8 8) (fld w 0 8) e⟩]
  | 0x49 => [⟨[], fun w e => .stB32 (fld w 16 8) (fld w 8 8) (fld w 0 8) e⟩]
  | 0x4A => [⟨[], fun w e => .stB16 (fld w 16 8) (fld w 8 8) (fld w 0 8) e⟩]
  | 0x4B => [⟨[], fun w e => .stB64 (fld w 16 8) (fld w 8 8) (fld w 0 8) e⟩]
  | 0x4C => [⟨[], fun w e => .stB128 (fld w 16 8) (fld w 8 8) (fld w 0 8) e⟩]
  | 0x4D => [⟨[], fun w e => .ustB32 (fld w 16 8) (fld w 8 8) (fld w 0 8) e⟩]
  | 0x4E => [⟨[], fun w e => .uldB64 (fld w 16 8) (fld w 8 8) (fld w 0 8) e⟩]
  | 0x4F => [⟨[], fun w e => .ustB64 (fld w 16 8) (fld w 8 8) (fld w 0 8) e⟩]
  | 0x50 => [⟨[], fun w e => .atomB32 (fld w 16 8) (fld w 8 8) (fld w 0 8) e⟩]
  | 0x51 => [⟨[], fun w e => .atomB64 (fld w 16 8) (fld w 8 8) (fld w 0 8) e⟩]
  | 0x52 => [⟨[], fun w e => .fatom (fld w 16 8) (fld w 8 8) (fld w 0 8) e⟩]
  | 0x53 => [⟨[], fun w e => .uatomB32 (fld w 16 8) (fld w 8 8) (fld w 0 8) e⟩]
  | 0x54 => [⟨[(8, 16, 0), (0, 2, 0)], fun w _ => .fence (fld w 5 3) (fld w 2 3)⟩]
  | 0x55 => [
      ⟨[(16, 8, 0), (2, 6, 0)], fun w e => .prefetchL1 (fld w 8 8) (fld w 0 2) e⟩,
      ⟨[(16, 8, 1), (2, 6, 0)], fun w e => .prefetchVc (fld w 8 8) (fld w 0 2) e⟩]
  | 0x56 => [⟨[], fun w e => .fld (fld w 16 8) (fld w 8 8) (fld w 0 8) e⟩]
  | 0x57 => [⟨[], fun w e => .fst (fld w 16 8) (fld w 8 8) (fld w 0 8) e⟩]
  | 0x58 => [
      ⟨[(0, 8, 0)], fun w _ => .fbirth (fld w 16 8) (fld w 8 8)⟩,
      ⟨[(0, 8, 1)], fun w _ => .frenew (fld w 16 8) (fld w 8 8)⟩,
      ⟨[(0, 8, 2)], fun w _ => .flife (fld w 16 8) (fld w 8 8)⟩]
  | 0x59 => [
      ⟨[(0, 8, 0)], fun w _ => .tshape (fld w 16 8) (fld w 8 8)⟩,
      ⟨[(0, 8, 1)], fun w _ => .tzero (fld w 16 8) (fld w 8 8)⟩]
  | 0x5A => [⟨[], fun w _ => .tld (fld w 16 8) (fld w 8 8) (fld w 0 8)⟩]
  | 0x5B => [⟨[], fun w _ => .tst (fld w 16 8) (fld w 8 8) (fld w 0 8)⟩]
  | 0x5C => [⟨[(0, 3, 0)], fun w _ => .tfetch (fld w 16 8) (fld w 8 8) (fld w 7 1) (fld w 4 3) (fld w 3 1)⟩]
  | 0x5D => [⟨[], fun w e => .uldB128 (fld w 16 8) (fld w 8 8) (fld w 0 8) e⟩]
  | 0x5E => [⟨[], fun w e => .ustB128 (fld w 16 8) (fld w 8 8) (fld w 0 8) e⟩]
  | 0x60 => [⟨[(0, 24, 0)], fun _ _ => .nop⟩]
  | 0x61 => [⟨[(20, 4, 0)], fun w _ => .bra (fld w 19 1) (fld w 16 3) (fld w 0 16)⟩]
  | 0x62 => [⟨[], fun w _ => .call (fld w 16 8) (fld w 0 16)⟩]
  | 0x63 => [⟨[(0, 24, 0)], fun _ _ => .endTeam⟩]
  | 0x64 => [
      ⟨[(0, 8, 0)], fun w _ => .jmp (fld w 16 8) (fld w 8 8)⟩,
      ⟨[(16, 8, 0), (0, 8, 1)], fun w _ => .ret (fld w 8 8)⟩]
  | 0x65 => [⟨[(20, 4, 0)], fun w e => .brv (fld w 19 1) (fld w 16 3) (fld w 0 16) e⟩]
  | 0x66 => [⟨[(0, 24, 0)], fun _ _ => .join⟩]
  | 0x67 => [
      ⟨[(19, 5, 0), (11, 5, 0), (0, 8, 0)], fun w _ => .qredAny (fld w 16 3) (fld w 8 3)⟩,
      ⟨[(19, 5, 0), (11, 5, 0), (0, 8, 1)], fun w _ => .qredAll (fld w 16 3) (fld w 8 3)⟩]
  | 0x68 => [⟨[(0, 8, 0)], fun w _ => .waitc (fld w 16 8) (fld w 8 8)⟩]
  | 0x69 => [⟨[(0, 24, 0)], fun _ _ => .yield⟩]
  | 0x6A => [⟨[(16, 8, 0)], fun w _ => .trap (fld w 0 16)⟩]
  | 0x6B => [⟨[(0, 2, 1)], fun w _ => .waita (fld w 16 8) (fld w 8 8) (fld w 2 6)⟩]
  | 0x6C => [⟨[(0, 2, 1)], fun w _ => .wakea (fld w 16 8) (fld w 8 8) (fld w 2 6)⟩]
  | 0x6D => [
      ⟨[(0, 8, 0)], fun w _ => .barinit (fld w 16 8) (fld w 8 8)⟩,
      ⟨[(0, 8, 1)], fun w _ => .bararm (fld w 16 8) (fld w 8 8)⟩,
      ⟨[(0, 8, 2)], fun w _ => .barwait (fld w 16 8) (fld w 8 8)⟩]
  | 0x6E => [
      ⟨[(0, 24, 0)], fun _ _ => .pbar⟩,
      ⟨[(0, 24, 1)], fun _ _ => .dbar⟩,
      ⟨[(0, 24, 2)], fun _ _ => .wbar⟩]
  | 0x6F => [⟨[(0, 24, 0)], fun _ _ => .eret⟩]
  | 0x70 => [⟨[], fun w _ => .csrr (fld w 16 8) (fld w 0 16)⟩]
  | 0x71 => [⟨[], fun w _ => .csrw (fld w 16 8) (fld w 0 16)⟩]
  | 0x72 => [
      ⟨[(16, 8, 0), (0, 8, 0)], fun w _ => .snap (fld w 8 8)⟩,
      ⟨[(0, 24, 1)], fun _ _ => .halt⟩]
  | 0x73 => [⟨[], fun w e => .tmma (fld w 16 8) (fld w 8 8) (fld w 0 8) e⟩]
  | 0x74 => [⟨[], fun w e => .tmmaf (fld w 16 8) (fld w 8 8) (fld w 0 8) e⟩]
  | 0x75 => [⟨[], fun w _ => .copy (fld w 16 8) (fld w 8 8) (fld w 7 1) (fld w 6 1) (fld w 3 3) (fld w 2 1) (fld w 1 1) (fld w 0 1)⟩]
  | 0x76 => [⟨[], fun w _ => .copyg (fld w 16 8) (fld w 8 8) (fld w 7 1) (fld w 6 1) (fld w 3 3) (fld w 2 1) (fld w 1 1) (fld w 0 1)⟩]
  | 0x77 => [⟨[], fun w _ => .copyb (fld w 16 8) (fld w 8 8) (fld w 7 1) (fld w 4 3) (fld w 0 4)⟩]
  | 0x78 => [
      ⟨[(0, 8, 0)], fun w _ => .iredM (fld w 16 8) (fld w 8 8)⟩,
      ⟨[(0, 8, 1)], fun w _ => .iredC (fld w 16 8) (fld w 8 8)⟩]
  | 0x79 => [⟨[(0, 4, 0)], fun w _ => .sow (fld w 16 8) (fld w 8 8) (fld w 7 1) (fld w 4 3)⟩]
  | 0x7A => [
      ⟨[(0, 8, 0)], fun w _ => .vclean (fld w 16 8) (fld w 8 8)⟩,
      ⟨[(0, 8, 1)], fun w _ => .vinval (fld w 16 8) (fld w 8 8)⟩,
      ⟨[(0, 8, 2)], fun w _ => .vcflush (fld w 16 8) (fld w 8 8)⟩,
      ⟨[(0, 8, 3)], fun w _ => .vcquery (fld w 16 8) (fld w 8 8)⟩]
  | 0x7B => [
      ⟨[(0, 8, 0)], fun w _ => .vcdef (fld w 16 8) (fld w 8 8)⟩,
      ⟨[(0, 8, 1)], fun w _ => .vcresize (fld w 16 8) (fld w 8 8)⟩]
  | 0x7C => [
      ⟨[(0, 8, 0)], fun w _ => .rgset (fld w 16 8) (fld w 8 8)⟩,
      ⟨[(0, 8, 1)], fun w _ => .ptinv (fld w 16 8) (fld w 8 8)⟩,
      ⟨[(0, 8, 2)], fun w _ => .replay (fld w 16 8) (fld w 8 8)⟩]
  | _ => []

/-- The loam instruction set, by opcode [31:26] (R299, R300). -/
def loamRows (op : Nat) : List Row :=
  match op with
  | 0x00 => [⟨[(1, 5, 0)], fun w _ => .loamVadd (fld w 21 5) (fld w 16 5) (fld w 11 5) (fld w 9 2) (fld w 6 3) (fld w 0 1)⟩]
  | 0x01 => [⟨[(1, 5, 0)], fun w _ => .loamVsub (fld w 21 5) (fld w 16 5) (fld w 11 5) (fld w 9 2) (fld w 6 3) (fld w 0 1)⟩]
  | 0x02 => [⟨[(1, 5, 0)], fun w _ => .loamVmul (fld w 21 5) (fld w 16 5) (fld w 11 5) (fld w 9 2) (fld w 6 3) (fld w 0 1)⟩]
  | 0x03 => [⟨[(1, 5, 0)], fun w _ => .loamVfma (fld w 21 5) (fld w 16 5) (fld w 11 5) (fld w 9 2) (fld w 6 3) (fld w 0 1)⟩]
  | 0x04 => [⟨[(1, 5, 0)], fun w _ => .loamVmin (fld w 21 5) (fld w 16 5) (fld w 11 5) (fld w 9 2) (fld w 6 3) (fld w 0 1)⟩]
  | 0x05 => [⟨[(1, 5, 0)], fun w _ => .loamVmax (fld w 21 5) (fld w 16 5) (fld w 11 5) (fld w 9 2) (fld w 6 3) (fld w 0 1)⟩]
  | 0x06 => [⟨[(11, 5, 0), (0, 3, 0)], fun w _ => .loamVcvt (fld w 21 5) (fld w 16 5) (fld w 9 2) (fld w 6 3) (fld w 3 3)⟩]
  | 0x07 => [
      ⟨[(11, 5, 0), (0, 6, 0)], fun w _ => .loamVredAdd (fld w 21 5) (fld w 16 5) (fld w 9 2) (fld w 6 3)⟩,
      ⟨[(11, 5, 0), (0, 6, 1)], fun w _ => .loamVredMin (fld w 21 5) (fld w 16 5) (fld w 9 2) (fld w 6 3)⟩,
      ⟨[(11, 5, 0), (0, 6, 2)], fun w _ => .loamVredMax (fld w 21 5) (fld w 16 5) (fld w 9 2) (fld w 6 3)⟩]
  | 0x08 => [⟨[(1, 2, 0)], fun w _ => .loamVcmp (fld w 21 5) (fld w 16 5) (fld w 11 5) (fld w 9 2) (fld w 6 3) (fld w 3 3) (fld w 0 1)⟩]
  | 0x09 => [⟨[(1, 8, 0)], fun w _ => .loamVsel (fld w 21 5) (fld w 16 5) (fld w 11 5) (fld w 9 2) (fld w 0 1)⟩]
  | 0x0A => [
      ⟨[(11, 5, 0), (0, 9, 0)], fun w _ => .loamVmovx (fld w 21 5) (fld w 16 5) (fld w 9 2)⟩,
      ⟨[(11, 10, 0), (0, 9, 1)], fun w _ => .loamVlane (fld w 21 5) (fld w 9 2)⟩]
  | 0x0B => [
      ⟨[(0, 11, 0)], fun w _ => .loamKand (fld w 21 5) (fld w 16 5) (fld w 11 5)⟩,
      ⟨[(0, 11, 1)], fun w _ => .loamKor (fld w 21 5) (fld w 16 5) (fld w 11 5)⟩,
      ⟨[(0, 11, 2)], fun w _ => .loamKxor (fld w 21 5) (fld w 16 5) (fld w 11 5)⟩,
      ⟨[(0, 11, 3)], fun w _ => .loamKandn (fld w 21 5) (fld w 16 5) (fld w 11 5)⟩,
      ⟨[(0, 16, 4)], fun w _ => .loamKnot (fld w 21 5) (fld w 16 5)⟩,
      ⟨[(0, 16, 5)], fun w _ => .loamKfromx (fld w 21 5) (fld w 16 5)⟩,
      ⟨[(0, 16, 6)], fun w _ => .loamKtox (fld w 21 5) (fld w 16 5)⟩]
  | 0x10 => [
      ⟨[(0, 11, 0)], fun w _ => .loamSaluAdd (fld w 21 5) (fld w 16 5) (fld w 11 5)⟩,
      ⟨[(0, 11, 1)], fun w _ => .loamSaluSub (fld w 21 5) (fld w 16 5) (fld w 11 5)⟩,
      ⟨[(0, 11, 2)], fun w _ => .loamSaluMul (fld w 21 5) (fld w 16 5) (fld w 11 5)⟩,
      ⟨[(0, 11, 3)], fun w _ => .loamSaluAnd (fld w 21 5) (fld w 16 5) (fld w 11 5)⟩,
      ⟨[(0, 11, 4)], fun w _ => .loamSaluOr (fld w 21 5) (fld w 16 5) (fld w 11 5)⟩,
      ⟨[(0, 11, 5)], fun w _ => .loamSaluXor (fld w 21 5) (fld w 16 5) (fld w 11 5)⟩,
      ⟨[(0, 11, 6)], fun w _ => .loamSaluShl (fld w 21 5) (fld w 16 5) (fld w 11 5)⟩,
      ⟨[(0, 11, 7)], fun w _ => .loamSaluShr (fld w 21 5) (fld w 16 5) (fld w 11 5)⟩,
      ⟨[(0, 11, 8)], fun w _ => .loamSaluSar (fld w 21 5) (fld w 16 5) (fld w 11 5)⟩,
      ⟨[(0, 11, 9)], fun w _ => .loamSaluMin (fld w 21 5) (fld w 16 5) (fld w 11 5)⟩,
      ⟨[(0, 11, 0xa)], fun w _ => .loamSaluMax (fld w 21 5) (fld w 16 5) (fld w 11 5)⟩,
      ⟨[(0, 11, 0xb)], fun w _ => .loamSaluSlt (fld w 21 5) (fld w 16 5) (fld w 11 5)⟩]
  | 0x11 => [⟨[], fun w _ => .loamSaddi (fld w 21 5) (fld w 16 5) (fld w 0 16)⟩]
  | 0x12 => [⟨[], fun w _ => .loamMovi (fld w 21 5) (fld w 0 21)⟩]
  | 0x13 => [⟨[(16, 5, 0)], fun w _ => .loamLdk (fld w 21 5) (fld w 0 16)⟩]
  | 0x20 => [⟨[(11, 5, 0)], fun w _ => .loamVld (fld w 21 5) (fld w 16 5) (fld w 9 2) (fld w 0 9)⟩]
  | 0x21 => [⟨[(11, 5, 0)], fun w _ => .loamVst (fld w 21 5) (fld w 16 5) (fld w 9 2) (fld w 0 9)⟩]
  | 0x22 => [⟨[(2, 7, 0)], fun w _ => .loamVgather (fld w 21 5) (fld w 16 5) (fld w 11 5) (fld w 9 2) (fld w 0 2)⟩]
  | 0x23 => [⟨[(11, 5, 0)], fun w _ => .loamBld (fld w 21 5) (fld w 16 5) (fld w 9 2) (fld w 0 9)⟩]
  | 0x24 => [⟨[(11, 5, 0)], fun w _ => .loamBst (fld w 21 5) (fld w 16 5) (fld w 9 2) (fld w 0 9)⟩]
  | 0x25 => [⟨[], fun w _ => .loamSld (fld w 21 5) (fld w 16 5) (fld w 0 16)⟩]
  | 0x26 => [⟨[], fun w _ => .loamSst (fld w 21 5) (fld w 16 5) (fld w 0 16)⟩]
  | 0x30 => [⟨[(21, 5, 0)], fun w _ => .loamBr (fld w 0 21)⟩]
  | 0x31 => [⟨[], fun w _ => .loamBcc (fld w 21 5) (fld w 16 5) (fld w 0 16)⟩]
  | 0x32 => [⟨[(21, 5, 0)], fun w _ => .loamLoop (fld w 16 5) (fld w 0 16)⟩]
  | 0x38 => [⟨[(0, 26, 0)], fun _ _ => .loamSync⟩]
  | 0x39 => [⟨[(0, 26, 0)], fun _ _ => .loamYield⟩]
  | 0x3A => [⟨[(0, 26, 0)], fun _ _ => .loamDone⟩]
  | _ => []

/-- The major opcode of a word (R53). -/
def opcode (w : Word) : Nat := (fld w 24 7).toNat

/-- The chain bit of a word (R53). -/
def chain (w : Word) : Bool := w.getLsbD 31

/-- Whether a word is an E word (R54). -/
def isE (w : Word) : Bool := opcode w == 0x7F

/-- Whether an opcode takes an E word, optional or required (R55, R68 to R71). -/
def takesE (op : Nat) : Bool :=
  (decide (op < 0x60) && !([0x54, 0x58, 0x59, 0x5A, 0x5B, 0x5C].contains op)) || [0x65, 0x73, 0x74].contains op

/-- The instruction of a word of the main set with the E word that belongs to it; a word that names none is named so (R72). -/
def decodeMain (w : Word) (e : EPay) : Instr := (pick (mainRows (opcode w)) w e).getD (.unassignedOpcode w)

/-- The instruction of a loam word (R300). -/
def decodeLoam (w : Word) : Instr := (pick (loamRows (fld w 26 6).toNat) w none).getD (.loamUnassignedOpcode w)

/-- The first instruction of a list of words: a word whose opcode takes an E word, with the chain bit set, takes the
E word after it (R55). -/
def decode (ws : List Word) : Option Instr :=
  match ws with
  | [] => none
  | [w] => some (decodeMain w none)
  | w :: x :: _ => some (decodeMain w (if takesE (opcode w) && chain w && isE x then some (fld x 0 24) else none))

/-- A word from its opcode and its three bytes (R54). -/
def mkW (op : BitVec 7) (d a b : BitVec 8) : Word := 0#1 ++ op ++ d ++ a ++ b

/-- A word of the loam set from its opcode and the fields below it (R299). -/
def mkL (op : BitVec 6) (r : BitVec 26) : Word := op ++ r

/-- The word of an instruction, the chain bit clear; an event has none. -/
def encodeWord (i : Instr) : Option Word :=
  match i with
  | .vadd d a b _ => some (mkW 0x00 d a b)
  | .vaddBu d a b _ => some (mkW 0x01 d a b)
  | .vsub d a b _ => some (mkW 0x02 d a b)
  | .vsubBu d a b _ => some (mkW 0x03 d a b)
  | .vmul d a b _ => some (mkW 0x04 d a b)
  | .vmulBu d a b _ => some (mkW 0x05 d a b)
  | .vmin d a b _ => some (mkW 0x06 d a b)
  | .vminBu d a b _ => some (mkW 0x07 d a b)
  | .vfma d a b _ => some (mkW 0x08 d a b)
  | .vfmaBu d a b _ => some (mkW 0x09 d a b)
  | .vmax d a b _ => some (mkW 0x0A d a b)
  | .vmaxBu d a b _ => some (mkW 0x0B d a b)
  | .vfcmp k p a b _ => some (mkW 0x0C (k ++ p) a b)
  | .vfcmpBu k p a b _ => some (mkW 0x0D (k ++ p) a b)
  | .vdot2 d a b _ => some (mkW 0x0E d a b)
  | .vdot2Bu d a b _ => some (mkW 0x0F d a b)
  | .viadd d a b _ => some (mkW 0x10 d a b)
  | .viaddBu d a b _ => some (mkW 0x11 d a b)
  | .visub d a b _ => some (mkW 0x12 d a b)
  | .visubBu d a b _ => some (mkW 0x13 d a b)
  | .vimul d a b _ => some (mkW 0x14 d a b)
  | .vimulBu d a b _ => some (mkW 0x15 d a b)
  | .vialuAnd d a u _ => some (mkW 0x16 d a (u ++ 0#7))
  | .vialuOr d a u _ => some (mkW 0x16 d a (u ++ 1#7))
  | .vialuXor d a u _ => some (mkW 0x16 d a (u ++ 2#7))
  | .vialuAndn d a u _ => some (mkW 0x16 d a (u ++ 3#7))
  | .vialuShl d a u _ => some (mkW 0x16 d a (u ++ 4#7))
  | .vialuShr d a u _ => some (mkW 0x16 d a (u ++ 5#7))
  | .vialuSar d a u _ => some (mkW 0x16 d a (u ++ 6#7))
  | .vialuMins d a u _ => some (mkW 0x16 d a (u ++ 7#7))
  | .vialuMaxs d a u _ => some (mkW 0x16 d a (u ++ 8#7))
  | .vialuMinu d a u _ => some (mkW 0x16 d a (u ++ 9#7))
  | .vialuMaxu d a u _ => some (mkW 0x16 d a (u ++ 0xa#7))
  | .vialuMulhs d a u _ => some (mkW 0x16 d a (u ++ 0xb#7))
  | .vialuMulhu d a u _ => some (mkW 0x16 d a (u ++ 0xc#7))
  | .vialuDivs d a u _ => some (mkW 0x16 d a (u ++ 0xd#7))
  | .vialuDivu d a u _ => some (mkW 0x16 d a (u ++ 0xe#7))
  | .vialuRems d a u _ => some (mkW 0x16 d a (u ++ 0xf#7))
  | .vialuRemu d a u _ => some (mkW 0x16 d a (u ++ 0x10#7))
  | .vialuBfe d a u _ => some (mkW 0x16 d a (u ++ 0x11#7))
  | .vialuBfi d a u _ => some (mkW 0x16 d a (u ++ 0x12#7))
  | .vialuCmp p a u k _ => some (mkW 0x16 (0#5 ++ p) a (u ++ 2#3 ++ k))
  | .viunMov d a u _ => some (mkW 0x17 d a (u ++ 0#7))
  | .viunNot d a u _ => some (mkW 0x17 d a (u ++ 1#7))
  | .viunNeg d a u _ => some (mkW 0x17 d a (u ++ 2#7))
  | .viunAbs d a u _ => some (mkW 0x17 d a (u ++ 3#7))
  | .viunPopc d a u _ => some (mkW 0x17 d a (u ++ 4#7))
  | .viunClz d a u _ => some (mkW 0x17 d a (u ++ 5#7))
  | .viunBrev d a u _ => some (mkW 0x17 d a (u ++ 6#7))
  | .vfunRcp d a t _ => some (mkW 0x18 d a (t ++ 0#6))
  | .vfunRsqrt d a t _ => some (mkW 0x18 d a (t ++ 1#6))
  | .vfunSqrt d a t _ => some (mkW 0x18 d a (t ++ 2#6))
  | .vfunExp2 d a t _ => some (mkW 0x18 d a (t ++ 3#6))
  | .vfunLog2 d a t _ => some (mkW 0x18 d a (t ++ 4#6))
  | .vfunAbs d a t _ => some (mkW 0x18 d a (t ++ 5#6))
  | .vfunNeg d a t _ => some (mkW 0x18 d a (t ++ 6#6))
  | .vfunMov d a t _ => some (mkW 0x18 d a (t ++ 7#6))
  | .vcvt d a y x _ => some (mkW 0x19 d a (y ++ x))
  | .vshuf d a b _ => some (mkW 0x1A d a b)
  | .vshufBu d a b _ => some (mkW 0x1B d a b)
  | .vredAdd d a _ => some (mkW 0x1C d a 0#8)
  | .vredMins d a _ => some (mkW 0x1C d a 0x10#8)
  | .vredMaxs d a _ => some (mkW 0x1C d a 0x20#8)
  | .vredMinu d a _ => some (mkW 0x1C d a 0x30#8)
  | .vredMaxu d a _ => some (mkW 0x1C d a 0x40#8)
  | .vredAnd d a _ => some (mkW 0x1C d a 0x50#8)
  | .vredOr d a _ => some (mkW 0x1C d a 0x60#8)
  | .vredXor d a _ => some (mkW 0x1C d a 0x70#8)
  | .vredFaddF32 d a _ => some (mkW 0x1C d a 0x80#8)
  | .vredFminF32 d a _ => some (mkW 0x1C d a 0x90#8)
  | .vredFmaxF32 d a _ => some (mkW 0x1C d a 0xa0#8)
  | .vrdiB32 d a _ => some (mkW 0x1D d a 0#8)
  | .vrdiB64 d a _ => some (mkW 0x1D d a 1#8)
  | .vwriB32 d a _ => some (mkW 0x1E d a 0#8)
  | .vwriB64 d a _ => some (mkW 0x1E d a 1#8)
  | .uadd d a b _ => some (mkW 0x20 d a b)
  | .usub d a b _ => some (mkW 0x21 d a b)
  | .umul d a b _ => some (mkW 0x22 d a b)
  | .umulhs d a b _ => some (mkW 0x23 d a b)
  | .umulhu d a b _ => some (mkW 0x24 d a b)
  | .udivs d a b _ => some (mkW 0x25 d a b)
  | .udivu d a b _ => some (mkW 0x26 d a b)
  | .urems d a b _ => some (mkW 0x27 d a b)
  | .uremu d a b _ => some (mkW 0x28 d a b)
  | .uand d a b _ => some (mkW 0x29 d a b)
  | .uor d a b _ => some (mkW 0x2A d a b)
  | .uxor d a b _ => some (mkW 0x2B d a b)
  | .ushl d a b _ => some (mkW 0x2C d a b)
  | .ushr d a b _ => some (mkW 0x2D d a b)
  | .usar d a b _ => some (mkW 0x2E d a b)
  | .ualuMov d a _ => some (mkW 0x2F d a 0#8)
  | .ualuNot d a _ => some (mkW 0x2F d a 1#8)
  | .ualuNeg d a _ => some (mkW 0x2F d a 2#8)
  | .ualuAbs d a _ => some (mkW 0x2F d a 3#8)
  | .ualuPopc d a _ => some (mkW 0x2F d a 4#8)
  | .ualuClz d a _ => some (mkW 0x2F d a 5#8)
  | .ualuBrev d a _ => some (mkW 0x2F d a 6#8)
  | .ualuMins d a _ => some (mkW 0x2F d a 7#8)
  | .ualuMaxs d a _ => some (mkW 0x2F d a 8#8)
  | .ualuMinu d a _ => some (mkW 0x2F d a 9#8)
  | .ualuMaxu d a _ => some (mkW 0x2F d a 0xa#8)
  | .ualuAndn d a _ => some (mkW 0x2F d a 0xb#8)
  | .movi d i _ => some (mkW 0x30 d (i.extractLsb' 8 8) (i.extractLsb' 0 8))
  | .movhi d i _ => some (mkW 0x31 d (i.extractLsb' 8 8) (i.extractLsb' 0 8))
  | .addi d i _ => some (mkW 0x32 d (i.extractLsb' 8 8) (i.extractLsb' 0 8))
  | .ucmp k p a b _ => some (mkW 0x33 (k ++ p) a b)
  | .ucmpi k p a i _ => some (mkW 0x34 (k ++ p) a i)
  | .usel d a b _ => some (mkW 0x35 d a b)
  | .ushli d a i _ => some (mkW 0x36 d a i)
  | .ushri d a i _ => some (mkW 0x37 d a i)
  | .usari d a i _ => some (mkW 0x38 d a i)
  | .uandi d a i _ => some (mkW 0x39 d a i)
  | .upredAnd d a b _ => some (mkW 0x3A (0#5 ++ d) (0#5 ++ a) (0#3 ++ b ++ 0#2))
  | .upredOr d a b _ => some (mkW 0x3A (0#5 ++ d) (0#5 ++ a) (1#3 ++ b ++ 0#2))
  | .upredXor d a b _ => some (mkW 0x3A (0#5 ++ d) (0#5 ++ a) (2#3 ++ b ++ 0#2))
  | .upredNot d a _ => some (mkW 0x3A (0#5 ++ d) (0#5 ++ a) 0x60#8)
  | .upredMov d a _ => some (mkW 0x3A (0#5 ++ d) (0#5 ++ a) 0x80#8)
  | .ldcB32 d i _ => some (mkW 0x3C d (i.extractLsb' 8 8) (i.extractLsb' 0 8))
  | .ldcB64 d i _ => some (mkW 0x3D d (i.extractLsb' 8 8) (i.extractLsb' 0 8))
  | .setfmt a _ => some (mkW 0x3E 0#8 a 0#8)
  | .getfmt d _ => some (mkW 0x3E d 0#8 1#8)
  | .getst d _ => some (mkW 0x3E d 0#8 2#8)
  | .setst a _ => some (mkW 0x3E 0#8 a 3#8)
  | .ldB8 d a q _ => some (mkW 0x40 d a q)
  | .ldB32 d a q _ => some (mkW 0x41 d a q)
  | .ldB16 d a q _ => some (mkW 0x42 d a q)
  | .ldB64 d a q _ => some (mkW 0x43 d a q)
  | .ldB128 d a q _ => some (mkW 0x44 d a q)
  | .ldS8 d a q _ => some (mkW 0x45 d a q)
  | .ldS16 d a q _ => some (mkW 0x46 d a q)
  | .uldB32 d a q _ => some (mkW 0x47 d a q)
  | .stB8 d a q _ => some (mkW 0x48 d a q)
  | .stB32 d a q _ => some (mkW 0x49 d a q)
  | .stB16 d a q _ => some (mkW 0x4A d a q)
  | .stB64 d a q _ => some (mkW 0x4B d a q)
  | .stB128 d a q _ => some (mkW 0x4C d a q)
  | .ustB32 d a q _ => some (mkW 0x4D d a q)
  | .uldB64 d a q _ => some (mkW 0x4E d a q)
  | .ustB64 d a q _ => some (mkW 0x4F d a q)
  | .atomB32 d a q _ => some (mkW 0x50 d a q)
  | .atomB64 d a q _ => some (mkW 0x51 d a q)
  | .fatom d a q _ => some (mkW 0x52 d a q)
  | .uatomB32 d a q _ => some (mkW 0x53 d a q)
  | .fence o s => some (mkW 0x54 0#8 0#8 (o ++ s ++ 0#2))
  | .prefetchL1 a m _ => some (mkW 0x55 0#8 a (0#6 ++ m))
  | .prefetchVc a m _ => some (mkW 0x55 1#8 a (0#6 ++ m))
  | .fld d a q _ => some (mkW 0x56 d a q)
  | .fst d a q _ => some (mkW 0x57 d a q)
  | .fbirth d a => some (mkW 0x58 d a 0#8)
  | .frenew d a => some (mkW 0x58 d a 1#8)
  | .flife d a => some (mkW 0x58 d a 2#8)
  | .tshape d a => some (mkW 0x59 d a 0#8)
  | .tzero d a => some (mkW 0x59 d a 1#8)
  | .tld d a q => some (mkW 0x5A d a q)
  | .tst d a q => some (mkW 0x5B d a q)
  | .tfetch d a r s l => some (mkW 0x5C d a (r ++ s ++ l ++ 0#3))
  | .uldB128 d a q _ => some (mkW 0x5D d a q)
  | .ustB128 d a q _ => some (mkW 0x5E d a q)
  | .bra n q i => some (mkW 0x61 (0#4 ++ n ++ q) (i.extractLsb' 8 8) (i.extractLsb' 0 8))
  | .call d i => some (mkW 0x62 d (i.extractLsb' 8 8) (i.extractLsb' 0 8))
  | .jmp d a => some (mkW 0x64 d a 0#8)
  | .ret a => some (mkW 0x64 0#8 a 1#8)
  | .brv n q i _ => some (mkW 0x65 (0#4 ++ n ++ q) (i.extractLsb' 8 8) (i.extractLsb' 0 8))
  | .qredAny d a => some (mkW 0x67 (0#5 ++ d) (0#5 ++ a) 0#8)
  | .qredAll d a => some (mkW 0x67 (0#5 ++ d) (0#5 ++ a) 1#8)
  | .waitc d a => some (mkW 0x68 d a 0#8)
  | .trap i => some (mkW 0x6A 0#8 (i.extractLsb' 8 8) (i.extractLsb' 0 8))
  | .waita d a o => some (mkW 0x6B d a (o ++ 1#2))
  | .wakea d a o => some (mkW 0x6C d a (o ++ 1#2))
  | .barinit d a => some (mkW 0x6D d a 0#8)
  | .bararm d a => some (mkW 0x6D d a 1#8)
  | .barwait d a => some (mkW 0x6D d a 2#8)
  | .csrr d i => some (mkW 0x70 d (i.extractLsb' 8 8) (i.extractLsb' 0 8))
  | .csrw d i => some (mkW 0x71 d (i.extractLsb' 8 8) (i.extractLsb' 0 8))
  | .snap a => some (mkW 0x72 0#8 a 0#8)
  | .tmma d a b _ => some (mkW 0x73 d a b)
  | .tmmaf d a b _ => some (mkW 0x74 d a b)
  | .copy d a r e s m n f => some (mkW 0x75 d a (r ++ e ++ s ++ m ++ n ++ f))
  | .copyg d a r e s m n f => some (mkW 0x76 d a (r ++ e ++ s ++ m ++ n ++ f))
  | .copyb d a r s m => some (mkW 0x77 d a (r ++ s ++ m))
  | .iredM d a => some (mkW 0x78 d a 0#8)
  | .iredC d a => some (mkW 0x78 d a 1#8)
  | .sow d a r s => some (mkW 0x79 d a (r ++ s ++ 0#4))
  | .vclean d a => some (mkW 0x7A d a 0#8)
  | .vinval d a => some (mkW 0x7A d a 1#8)
  | .vcflush d a => some (mkW 0x7A d a 2#8)
  | .vcquery d a => some (mkW 0x7A d a 3#8)
  | .vcdef d a => some (mkW 0x7B d a 0#8)
  | .vcresize d a => some (mkW 0x7B d a 1#8)
  | .rgset d a => some (mkW 0x7C d a 0#8)
  | .ptinv d a => some (mkW 0x7C d a 1#8)
  | .replay d a => some (mkW 0x7C d a 2#8)
  | .loamVadd d a b k t x => some (mkL 0x00 (d ++ a ++ b ++ k ++ t ++ 0#5 ++ x))
  | .loamVsub d a b k t x => some (mkL 0x01 (d ++ a ++ b ++ k ++ t ++ 0#5 ++ x))
  | .loamVmul d a b k t x => some (mkL 0x02 (d ++ a ++ b ++ k ++ t ++ 0#5 ++ x))
  | .loamVfma d a b k t x => some (mkL 0x03 (d ++ a ++ b ++ k ++ t ++ 0#5 ++ x))
  | .loamVmin d a b k t x => some (mkL 0x04 (d ++ a ++ b ++ k ++ t ++ 0#5 ++ x))
  | .loamVmax d a b k t x => some (mkL 0x05 (d ++ a ++ b ++ k ++ t ++ 0#5 ++ x))
  | .loamVcvt d a k t s => some (mkL 0x06 (d ++ a ++ 0#5 ++ k ++ t ++ s ++ 0#3))
  | .loamVredAdd d a k t => some (mkL 0x07 (d ++ a ++ 0#5 ++ k ++ t ++ 0#6))
  | .loamVredMin d a k t => some (mkL 0x07 (d ++ a ++ 0#5 ++ k ++ t ++ 1#6))
  | .loamVredMax d a k t => some (mkL 0x07 (d ++ a ++ 0#5 ++ k ++ t ++ 2#6))
  | .loamVcmp d a b k t c x => some (mkL 0x08 (d ++ a ++ b ++ k ++ t ++ c ++ 0#2 ++ x))
  | .loamVsel d a b k x => some (mkL 0x09 (d ++ a ++ b ++ k ++ 0#8 ++ x))
  | .loamVmovx d a k => some (mkL 0x0A (d ++ a ++ 0#5 ++ k ++ 0#9))
  | .loamVlane d k => some (mkL 0x0A (d ++ 0#10 ++ k ++ 1#9))
  | .loamKand d a b => some (mkL 0x0B (d ++ a ++ b ++ 0#11))
  | .loamKor d a b => some (mkL 0x0B (d ++ a ++ b ++ 1#11))
  | .loamKxor d a b => some (mkL 0x0B (d ++ a ++ b ++ 2#11))
  | .loamKandn d a b => some (mkL 0x0B (d ++ a ++ b ++ 3#11))
  | .loamKnot d a => some (mkL 0x0B (d ++ a ++ 4#16))
  | .loamKfromx d a => some (mkL 0x0B (d ++ a ++ 5#16))
  | .loamKtox d a => some (mkL 0x0B (d ++ a ++ 6#16))
  | .loamSaluAdd d a b => some (mkL 0x10 (d ++ a ++ b ++ 0#11))
  | .loamSaluSub d a b => some (mkL 0x10 (d ++ a ++ b ++ 1#11))
  | .loamSaluMul d a b => some (mkL 0x10 (d ++ a ++ b ++ 2#11))
  | .loamSaluAnd d a b => some (mkL 0x10 (d ++ a ++ b ++ 3#11))
  | .loamSaluOr d a b => some (mkL 0x10 (d ++ a ++ b ++ 4#11))
  | .loamSaluXor d a b => some (mkL 0x10 (d ++ a ++ b ++ 5#11))
  | .loamSaluShl d a b => some (mkL 0x10 (d ++ a ++ b ++ 6#11))
  | .loamSaluShr d a b => some (mkL 0x10 (d ++ a ++ b ++ 7#11))
  | .loamSaluSar d a b => some (mkL 0x10 (d ++ a ++ b ++ 8#11))
  | .loamSaluMin d a b => some (mkL 0x10 (d ++ a ++ b ++ 9#11))
  | .loamSaluMax d a b => some (mkL 0x10 (d ++ a ++ b ++ 0xa#11))
  | .loamSaluSlt d a b => some (mkL 0x10 (d ++ a ++ b ++ 0xb#11))
  | .loamSaddi d a i => some (mkL 0x11 (d ++ a ++ i))
  | .loamMovi d i => some (mkL 0x12 (d ++ i))
  | .loamLdk d i => some (mkL 0x13 (d ++ 0#5 ++ i))
  | .loamVld d a k i => some (mkL 0x20 (d ++ a ++ 0#5 ++ k ++ i))
  | .loamVst d a k i => some (mkL 0x21 (d ++ a ++ 0#5 ++ k ++ i))
  | .loamVgather d a b k s => some (mkL 0x22 (d ++ a ++ b ++ k ++ 0#7 ++ s))
  | .loamBld d a k i => some (mkL 0x23 (d ++ a ++ 0#5 ++ k ++ i))
  | .loamBst d a k i => some (mkL 0x24 (d ++ a ++ 0#5 ++ k ++ i))
  | .loamSld d a i => some (mkL 0x25 (d ++ a ++ i))
  | .loamSst d a i => some (mkL 0x26 (d ++ a ++ i))
  | .loamBr i => some (mkL 0x30 (0#5 ++ i))
  | .loamBcc c a i => some (mkL 0x31 (c ++ a ++ i))
  | .loamLoop a i => some (mkL 0x32 (0#5 ++ a ++ i))
  | .unassignedOpcode w => some w
  | .loamUnassignedOpcode w => some w
  | .hostLaunchMessage => none
  | .bindPlot => none
  | .hintFallbackExpiry => none
  | .coresidentFallbackExpiry => none
  | .waitCounterPoll => none
  | .plotSave => none
  | .resumePlot => none
  | .debugResumePlot => none
  | .plotRetire => none
  | .sowingComplete => none
  | .minShareOwed => none
  | .loadResponse => none
  | .storeAck => none
  | .memoryRequestAtHome => none
  | .invalidationArrival => none
  | .invalidationApply => none
  | .invalidationAckAtHome => none
  | .atomicAtHome => none
  | .fleetingAccessAtBank => none
  | .fleetingExpiry => none
  | .tick => none
  | .faultReport => none
  | .faultFilterRetry => none
  | .faultStageRetry => none
  | .faultRecordWrite => none
  | .fqconsWrite => none
  | .gleanDrain => none
  | .refusalResponse => none
  | .remoteTimeoutExpiry => none
  | .responsePreciseTrap => none
  | .inboundAccess => none
  | .inboundMovingTimeout => none
  | .replayMessage => none
  | .controllerAccessMessage => none
  | .attestationRequest => none
  | .matrixEntryStart => none
  | .tmmafOperandFetch => none
  | .matrixCheck => none
  | .copyCommandStart => none
  | .copyCommandCredit => none
  | .barrierCredit => none
  | .tileTransferCredit => none
  | .iredCommandCredit => none
  | .netbarPhaseComplete => none
  | .waitaCompare => none
  | .vcSweepStep => none
  | .vcSweepEnd => none
  | .columnFence => none
  | .channelFence => none
  | .memoryFence => none
  | .powerGood => none
  | .bootWindowClose => none
  | .quadPiTick => none
  | .ratioRaise => none
  | .reservationRequest => none
  | .reservationGrant => none
  | .budgetWrite => none
  | .retentionWindowWrite => none
  | .controllerRegisterWrite => none
  | .portTrainingFailure => none
  | .debuggerSnapshotTrip => none
  | .snapshotLatch => none
  | .snapshotClear => none
  | .debugMemoryRead => none
  | .debugFleetingRead => none
  | .selfRefreshEntry => none
  | .loamDispatch => none
  | .loamBind => none
  | .loamResume => none
  | .nop => some (mkW 0x60 0#8 0#8 0#8)
  | .endTeam => some (mkW 0x63 0#8 0#8 0#8)
  | .join => some (mkW 0x66 0#8 0#8 0#8)
  | .yield => some (mkW 0x69 0#8 0#8 0#8)
  | .pbar => some (mkW 0x6E 0#8 0#8 0#8)
  | .dbar => some (mkW 0x6E 0#8 0#8 1#8)
  | .wbar => some (mkW 0x6E 0#8 0#8 2#8)
  | .eret => some (mkW 0x6F 0#8 0#8 0#8)
  | .halt => some (mkW 0x72 0#8 0#8 1#8)
  | .loamSync => some (mkL 0x38 (0#26))
  | .loamYield => some (mkL 0x39 (0#26))
  | .loamDone => some (mkL 0x3A (0#26))
  | .fixedLatencyWrite => none
  | .interlockedWrite => none
  | .tzeroCredit => none
  | .vcmComplete => none
  | .tableInstructionStatus => none
  | .launchStatus => none
  | .loamAccessComplete => none

/-- The E word payload of an instruction. -/
def encodeE (i : Instr) : EPay :=
  match i with
  | .vadd _ _ _ e => e
  | .vaddBu _ _ _ e => e
  | .vsub _ _ _ e => e
  | .vsubBu _ _ _ e => e
  | .vmul _ _ _ e => e
  | .vmulBu _ _ _ e => e
  | .vmin _ _ _ e => e
  | .vminBu _ _ _ e => e
  | .vfma _ _ _ e => e
  | .vfmaBu _ _ _ e => e
  | .vmax _ _ _ e => e
  | .vmaxBu _ _ _ e => e
  | .vfcmp _ _ _ _ e => e
  | .vfcmpBu _ _ _ _ e => e
  | .vdot2 _ _ _ e => e
  | .vdot2Bu _ _ _ e => e
  | .viadd _ _ _ e => e
  | .viaddBu _ _ _ e => e
  | .visub _ _ _ e => e
  | .visubBu _ _ _ e => e
  | .vimul _ _ _ e => e
  | .vimulBu _ _ _ e => e
  | .vialuAnd _ _ _ e => e
  | .vialuOr _ _ _ e => e
  | .vialuXor _ _ _ e => e
  | .vialuAndn _ _ _ e => e
  | .vialuShl _ _ _ e => e
  | .vialuShr _ _ _ e => e
  | .vialuSar _ _ _ e => e
  | .vialuMins _ _ _ e => e
  | .vialuMaxs _ _ _ e => e
  | .vialuMinu _ _ _ e => e
  | .vialuMaxu _ _ _ e => e
  | .vialuMulhs _ _ _ e => e
  | .vialuMulhu _ _ _ e => e
  | .vialuDivs _ _ _ e => e
  | .vialuDivu _ _ _ e => e
  | .vialuRems _ _ _ e => e
  | .vialuRemu _ _ _ e => e
  | .vialuBfe _ _ _ e => e
  | .vialuBfi _ _ _ e => e
  | .vialuCmp _ _ _ _ e => e
  | .viunMov _ _ _ e => e
  | .viunNot _ _ _ e => e
  | .viunNeg _ _ _ e => e
  | .viunAbs _ _ _ e => e
  | .viunPopc _ _ _ e => e
  | .viunClz _ _ _ e => e
  | .viunBrev _ _ _ e => e
  | .vfunRcp _ _ _ e => e
  | .vfunRsqrt _ _ _ e => e
  | .vfunSqrt _ _ _ e => e
  | .vfunExp2 _ _ _ e => e
  | .vfunLog2 _ _ _ e => e
  | .vfunAbs _ _ _ e => e
  | .vfunNeg _ _ _ e => e
  | .vfunMov _ _ _ e => e
  | .vcvt _ _ _ _ e => e
  | .vshuf _ _ _ e => e
  | .vshufBu _ _ _ e => e
  | .vredAdd _ _ e => e
  | .vredMins _ _ e => e
  | .vredMaxs _ _ e => e
  | .vredMinu _ _ e => e
  | .vredMaxu _ _ e => e
  | .vredAnd _ _ e => e
  | .vredOr _ _ e => e
  | .vredXor _ _ e => e
  | .vredFaddF32 _ _ e => e
  | .vredFminF32 _ _ e => e
  | .vredFmaxF32 _ _ e => e
  | .vrdiB32 _ _ e => e
  | .vrdiB64 _ _ e => e
  | .vwriB32 _ _ e => e
  | .vwriB64 _ _ e => e
  | .uadd _ _ _ e => e
  | .usub _ _ _ e => e
  | .umul _ _ _ e => e
  | .umulhs _ _ _ e => e
  | .umulhu _ _ _ e => e
  | .udivs _ _ _ e => e
  | .udivu _ _ _ e => e
  | .urems _ _ _ e => e
  | .uremu _ _ _ e => e
  | .uand _ _ _ e => e
  | .uor _ _ _ e => e
  | .uxor _ _ _ e => e
  | .ushl _ _ _ e => e
  | .ushr _ _ _ e => e
  | .usar _ _ _ e => e
  | .ualuMov _ _ e => e
  | .ualuNot _ _ e => e
  | .ualuNeg _ _ e => e
  | .ualuAbs _ _ e => e
  | .ualuPopc _ _ e => e
  | .ualuClz _ _ e => e
  | .ualuBrev _ _ e => e
  | .ualuMins _ _ e => e
  | .ualuMaxs _ _ e => e
  | .ualuMinu _ _ e => e
  | .ualuMaxu _ _ e => e
  | .ualuAndn _ _ e => e
  | .movi _ _ e => e
  | .movhi _ _ e => e
  | .addi _ _ e => e
  | .ucmp _ _ _ _ e => e
  | .ucmpi _ _ _ _ e => e
  | .usel _ _ _ e => e
  | .ushli _ _ _ e => e
  | .ushri _ _ _ e => e
  | .usari _ _ _ e => e
  | .uandi _ _ _ e => e
  | .upredAnd _ _ _ e => e
  | .upredOr _ _ _ e => e
  | .upredXor _ _ _ e => e
  | .upredNot _ _ e => e
  | .upredMov _ _ e => e
  | .ldcB32 _ _ e => e
  | .ldcB64 _ _ e => e
  | .setfmt _ e => e
  | .getfmt _ e => e
  | .getst _ e => e
  | .setst _ e => e
  | .ldB8 _ _ _ e => e
  | .ldB32 _ _ _ e => e
  | .ldB16 _ _ _ e => e
  | .ldB64 _ _ _ e => e
  | .ldB128 _ _ _ e => e
  | .ldS8 _ _ _ e => e
  | .ldS16 _ _ _ e => e
  | .uldB32 _ _ _ e => e
  | .stB8 _ _ _ e => e
  | .stB32 _ _ _ e => e
  | .stB16 _ _ _ e => e
  | .stB64 _ _ _ e => e
  | .stB128 _ _ _ e => e
  | .ustB32 _ _ _ e => e
  | .uldB64 _ _ _ e => e
  | .ustB64 _ _ _ e => e
  | .atomB32 _ _ _ e => e
  | .atomB64 _ _ _ e => e
  | .fatom _ _ _ e => e
  | .uatomB32 _ _ _ e => e
  | .fence _ _ => none
  | .prefetchL1 _ _ e => e
  | .prefetchVc _ _ e => e
  | .fld _ _ _ e => e
  | .fst _ _ _ e => e
  | .fbirth _ _ => none
  | .frenew _ _ => none
  | .flife _ _ => none
  | .tshape _ _ => none
  | .tzero _ _ => none
  | .tld _ _ _ => none
  | .tst _ _ _ => none
  | .tfetch _ _ _ _ _ => none
  | .uldB128 _ _ _ e => e
  | .ustB128 _ _ _ e => e
  | .bra _ _ _ => none
  | .call _ _ => none
  | .jmp _ _ => none
  | .ret _ => none
  | .brv _ _ _ e => e
  | .qredAny _ _ => none
  | .qredAll _ _ => none
  | .waitc _ _ => none
  | .trap _ => none
  | .waita _ _ _ => none
  | .wakea _ _ _ => none
  | .barinit _ _ => none
  | .bararm _ _ => none
  | .barwait _ _ => none
  | .csrr _ _ => none
  | .csrw _ _ => none
  | .snap _ => none
  | .tmma _ _ _ e => e
  | .tmmaf _ _ _ e => e
  | .copy _ _ _ _ _ _ _ _ => none
  | .copyg _ _ _ _ _ _ _ _ => none
  | .copyb _ _ _ _ _ => none
  | .iredM _ _ => none
  | .iredC _ _ => none
  | .sow _ _ _ _ => none
  | .vclean _ _ => none
  | .vinval _ _ => none
  | .vcflush _ _ => none
  | .vcquery _ _ => none
  | .vcdef _ _ => none
  | .vcresize _ _ => none
  | .rgset _ _ => none
  | .ptinv _ _ => none
  | .replay _ _ => none
  | .loamVadd _ _ _ _ _ _ => none
  | .loamVsub _ _ _ _ _ _ => none
  | .loamVmul _ _ _ _ _ _ => none
  | .loamVfma _ _ _ _ _ _ => none
  | .loamVmin _ _ _ _ _ _ => none
  | .loamVmax _ _ _ _ _ _ => none
  | .loamVcvt _ _ _ _ _ => none
  | .loamVredAdd _ _ _ _ => none
  | .loamVredMin _ _ _ _ => none
  | .loamVredMax _ _ _ _ => none
  | .loamVcmp _ _ _ _ _ _ _ => none
  | .loamVsel _ _ _ _ _ => none
  | .loamVmovx _ _ _ => none
  | .loamVlane _ _ => none
  | .loamKand _ _ _ => none
  | .loamKor _ _ _ => none
  | .loamKxor _ _ _ => none
  | .loamKandn _ _ _ => none
  | .loamKnot _ _ => none
  | .loamKfromx _ _ => none
  | .loamKtox _ _ => none
  | .loamSaluAdd _ _ _ => none
  | .loamSaluSub _ _ _ => none
  | .loamSaluMul _ _ _ => none
  | .loamSaluAnd _ _ _ => none
  | .loamSaluOr _ _ _ => none
  | .loamSaluXor _ _ _ => none
  | .loamSaluShl _ _ _ => none
  | .loamSaluShr _ _ _ => none
  | .loamSaluSar _ _ _ => none
  | .loamSaluMin _ _ _ => none
  | .loamSaluMax _ _ _ => none
  | .loamSaluSlt _ _ _ => none
  | .loamSaddi _ _ _ => none
  | .loamMovi _ _ => none
  | .loamLdk _ _ => none
  | .loamVld _ _ _ _ => none
  | .loamVst _ _ _ _ => none
  | .loamVgather _ _ _ _ _ => none
  | .loamBld _ _ _ _ => none
  | .loamBst _ _ _ _ => none
  | .loamSld _ _ _ => none
  | .loamSst _ _ _ => none
  | .loamBr _ => none
  | .loamBcc _ _ _ => none
  | .loamLoop _ _ => none
  | .unassignedOpcode _ => none
  | .loamUnassignedOpcode _ => none
  | .hostLaunchMessage => none
  | .bindPlot => none
  | .hintFallbackExpiry => none
  | .coresidentFallbackExpiry => none
  | .waitCounterPoll => none
  | .plotSave => none
  | .resumePlot => none
  | .debugResumePlot => none
  | .plotRetire => none
  | .sowingComplete => none
  | .minShareOwed => none
  | .loadResponse => none
  | .storeAck => none
  | .memoryRequestAtHome => none
  | .invalidationArrival => none
  | .invalidationApply => none
  | .invalidationAckAtHome => none
  | .atomicAtHome => none
  | .fleetingAccessAtBank => none
  | .fleetingExpiry => none
  | .tick => none
  | .faultReport => none
  | .faultFilterRetry => none
  | .faultStageRetry => none
  | .faultRecordWrite => none
  | .fqconsWrite => none
  | .gleanDrain => none
  | .refusalResponse => none
  | .remoteTimeoutExpiry => none
  | .responsePreciseTrap => none
  | .inboundAccess => none
  | .inboundMovingTimeout => none
  | .replayMessage => none
  | .controllerAccessMessage => none
  | .attestationRequest => none
  | .matrixEntryStart => none
  | .tmmafOperandFetch => none
  | .matrixCheck => none
  | .copyCommandStart => none
  | .copyCommandCredit => none
  | .barrierCredit => none
  | .tileTransferCredit => none
  | .iredCommandCredit => none
  | .netbarPhaseComplete => none
  | .waitaCompare => none
  | .vcSweepStep => none
  | .vcSweepEnd => none
  | .columnFence => none
  | .channelFence => none
  | .memoryFence => none
  | .powerGood => none
  | .bootWindowClose => none
  | .quadPiTick => none
  | .ratioRaise => none
  | .reservationRequest => none
  | .reservationGrant => none
  | .budgetWrite => none
  | .retentionWindowWrite => none
  | .controllerRegisterWrite => none
  | .portTrainingFailure => none
  | .debuggerSnapshotTrip => none
  | .snapshotLatch => none
  | .snapshotClear => none
  | .debugMemoryRead => none
  | .debugFleetingRead => none
  | .selfRefreshEntry => none
  | .loamDispatch => none
  | .loamBind => none
  | .loamResume => none
  | .nop => none
  | .endTeam => none
  | .join => none
  | .yield => none
  | .pbar => none
  | .dbar => none
  | .wbar => none
  | .eret => none
  | .halt => none
  | .loamSync => none
  | .loamYield => none
  | .loamDone => none
  | .fixedLatencyWrite => none
  | .interlockedWrite => none
  | .tzeroCredit => none
  | .vcmComplete => none
  | .tableInstructionStatus => none
  | .launchStatus => none
  | .loamAccessComplete => none

/-- The words of an instruction of the main set as a group of its own: one word, or a chained word and its E word (R55).
A loam instruction is one word. -/
def encode (i : Instr) : List Word :=
  match encodeWord i with
  | none => []
  | some w => match encodeE i with
    | none => [w]
    | some p => [w ||| 0x80000000#32, 0#1 ++ 0x7F#7 ++ p]

/-- The instruction the decoder reads from bits numbered as the table numbers them: the first word in bits 31 to 0,
an E word above it. A main word and a loam word may be the same 32 bits, since a core fetches only its own set. A single word
with bit 31 set is no whole instruction of the main set (R55), so it is read as a loam word where it is one; any other word is
read as a loam word where it names no instruction of the main set (log entry 11). -/
def decodeTableWord (nbits w : Nat) : Option Instr :=
  let ws := [BitVec.ofNat 32 w, BitVec.ofNat 32 (w / 2 ^ 32)]
  let loam := decodeLoam (BitVec.ofNat 32 w)
  let isLoam := match loam with | .loamUnassignedOpcode _ => false | _ => true
  if decide (nbits ≤ 32) && (BitVec.ofNat 32 w).getLsbD 31 && isLoam then some loam
  else match decode ws with
  | some (.unassignedOpcode x) => some (if isLoam then loam else .unassignedOpcode x)
  | r => r

end Sys2Proof
end

