-- ==== Sys2Proof/WellFormed.lean ====
section
/-! DEFINITION. Which terms of Instr stand for something. Every field has exactly the width its encoding gives it, so only the
two constructors for words without a meaning can be ill-formed: a word there must name no instruction. What an encoding may
hold and still trap (R55 to R58, R72) is the meaning's business, not a matter of form. -/
namespace Sys2Proof

/-- Whether a word names no instruction of the main set. -/
def namesNone (w : Word) : Bool := (pick (mainRows (opcode w)) w none).isNone

/-- Whether a word names no loam instruction. -/
def namesNoneLoam (w : Word) : Bool := (pick (loamRows (fld w 26 6).toNat) w none).isNone

/-- The form that a term must have. -/
def Instr.wellFormed (i : Instr) : Bool :=
  match i with
  | .unassignedOpcode w => namesNone w
  | .loamUnassignedOpcode w => namesNoneLoam w
  | _ => true

/-- An event: a step that no instruction word names. -/
def Instr.isEvent (i : Instr) : Bool := (encodeWord i).isNone

/-- A loam instruction: the loam decoder reads its word as it. -/
def Instr.isLoam (i : Instr) : Bool :=
  match encodeWord i with
  | none => false
  | some w => decodeLoam w == i

end Sys2Proof
end

