-- ==== Sys2Proof/Machine/Fetch.lean ====
section
/-! DEFINITION. Fetching an issue group: the words that the chain bits tie together, what a fetch can meet, which E word belongs
to which word, the pipes, and the rules of groups (R50 to R61, R170, R320, R322). -/
namespace Sys2Proof.Machine

/-! ## Fetching words (R50 to R52, R170, R174, R322) -/

/-- What the fetch of one word gives: its packet's control word and the word; a trap with its code, TVAL and, where it is not
the group's first word, TEPC; a page that makes the team wait, by IA and kind; or a packet on another node or in a far frame that has not come. -/
inductive Fetched where
  | word (ctl w : Nat)
  | trap (code tval : Nat) (tepc : Option Nat)
  | wait (ia kind : Nat)
  | away (ia : Nat)

/-- The fetch of the word at a VA. -/
def fetchAt (s : State) (tk va : Nat) : Fetched :=
  match translate s tk va with
  | none => .trap 0x11 va none
  | some ia =>
    let code := iaCode s (domOf (s.team tk).core) false ia
    let outside : Fetched := if !((s.team tk).fetchSent.any fun f => f.1 == ia / 16 && !f.2.lost) then .away ia else .word (Tbl.getD s.cur.arg.code (va / 16 * 16) 0) (Tbl.getD s.cur.arg.code va 0)
    if code != 0 then .trap code va none
    else if iaNode ia != 0 then outside
    else match (pageOf s (iaHome ia) ia s.cur.arg.flag).2 with
      | .fault k => .wait ia k
      | .far p => if permExec p then outside else .trap 0x12 va (some va)
      | .local_ _ key p =>
        if permExec p then .word (homePeek s (iaHome ia) (key - va % 16) 4) (homePeek s (iaHome ia) key 4)
        else .trap 0x12 va (some va)

/-- A word of a group as fetched. -/
structure FWord where
  addr : Nat
  word : Word
  stall : Nat
  yield : Bool

/-- A group as fetched: its words and the reason codes of the rules it breaks; or what stopped the fetch. -/
inductive GFetch where
  | ok (ws : List FWord) (bad : List Nat)
  | trap (code tval : Nat) (tepc : Option Nat)
  | wait (ia kind : Nat)
  | away (ia : Nat)

/-- The words from a VA on, at most n of them (R51, R52, R59). -/
def fetchFrom (s : State) (tk : Nat) : Nat → Nat → Bool → GFetch
  | 0, _, _ => .ok [] [2]
  | n + 1, va, first =>
    if va % 16 = 0 || va % 4 != 0 then .trap 0x04 va none
    else match fetchAt s tk va with
      | .trap c v e => .trap c v e
      | .wait ia k => .wait ia k
      | .away ia => .away ia
      | .word ctl w =>
        let kind := nb ctl 30 2
        if kind = 1 || kind = 2 || (kind = 0 && ctl % 4096 != 0) then .trap 0x03 ctl none
        else if kind = 3 then (if first then .trap 0x04 va none else .ok [] [5])   -- a handler's first word (R317)
        else
          let j := va % 16 / 4 - 1
          let f : FWord := ⟨va, BitVec.ofNat 32 w, nb ctl (25 - 5 * j) 5, nb ctl (14 - j) 1 == 1⟩
          let bad := if !first && f.stall != 0 then [3] else []
          if !chain f.word then .ok [f] bad
          else match fetchFrom s tk n (if j = 2 then va + 8 else va + 4) false with
            | .ok ws b => .ok (f :: ws) (bad ++ b)
            | r => r

/-! ## The words of a group (R55, R59 to R61) -/

/-- One instruction of a group: its word, its address, its place, and what it is. -/
structure GWord where
  addr : Nat
  word : Word
  off : Nat
  instr : Instr

/-- What the reads of a group's packets do at their homes: a virtual cache that the page names without a definition is counted (R282), their
layers wake (R349), and the reply of another domain's home installs the page's hint (R178). -/
def fetchTouch (s : State) (tk : Nat) (ws : List FWord) : State :=
  let dom := domOf (s.team tk).core
  ((ws.map fun w => w.addr / 16 * 16).eraseDups).foldl (fun s va => match translate s tk va with
    | none => s
    | some ia =>
      let home := iaHome ia
      if iaNode ia != 0 then s
      else match pageOf s home ia s.cur.arg.flag with
        | (u, .local_ vc key _) =>
          let u := peekTouch (countUndef u dom (dom != home) vc) home ia key
          if dom = home then u else putHint u dom ia vc
        | _ => s) s

/-- The instructions of a group: an E word belongs to the word before it if that takes one; any other E word names none. -/
def parseGroup : List FWord → Nat → List GWord
  | [], _ => []
  | [x], n => [⟨x.addr, x.word, n, decodeMain x.word none⟩]
  | x :: y :: r, n =>
    if takesE (opcode x.word) && isE y.word then ⟨x.addr, x.word, n, decodeMain x.word (some (fld y.word 0 24))⟩ :: parseGroup r (n + 2)
    else ⟨x.addr, x.word, n, decodeMain x.word none⟩ :: parseGroup (y :: r) (n + 1)

/-- The pipe of a word; a word whose function names no instruction has the pipe of its opcode. -/
def GWord.pipe (g : GWord) : Option PipeReq :=
  match g.instr with
  | .unassignedOpcode w => (mainRows (opcode w)).head?.map fun r => (form (r.build w none)).pipe
  | i => some (form i).pipe

/-- Whether some pipe takes two words (rule 1 of R59). -/
def pipesClash (ps : List PipeReq) : Bool :=
  let fixed := ps.filter (· != .V01)
  let taken := (if fixed.contains .V0 then 1 else 0) + (if fixed.contains .V1 then 1 else 0)
  fixed.eraseDups.length != fixed.length || decide (2 < taken + (ps.length - fixed.length))

/-- Whether the word at a place of a group runs on V1: V0 is taken by a word fixed to it, or by an earlier word (R60). -/
def onV1 (gs : List GWord) (n : Nat) : Bool :=
  gs.any (fun g => g.pipe == some .V0) || gs.any fun g => decide (g.off < n) && g.pipe == some .V01

/-- Whether two words write one register (rule 4 of R59). -/
def writesClash : List (List (Nat × Nat)) → Bool
  | [] => false
  | ws :: r => (ws.any fun w => r.any fun v => v.contains w) || writesClash r

/-- The reason codes of the rules that a group breaks (R59). -/
def groupReasons (bad : List Nat) (gs : List GWord) : List Nat :=
  (bad ++ (if pipesClash (gs.filterMap GWord.pipe) then [1] else [])
    ++ (if writesClash (gs.map fun (g : GWord) => (form g.instr).ops.flatMap Opd.writes) then [4] else [])).eraseDups

/-! ## What a group costs (R27, R63, R90) -/

/-- The cycles of the passes of a VRDI or VWRI: all of them, and the start of the last. -/
def indCycles (t : Team) (e : EPay) (a n cyc : Nat) (ks : List Nat) : Nat × Nat :=
  (indPasses t e a n ks cyc).foldl (fun r p => (r.1 + indCost n p.sel, r.1)) (0, 0)

/-- The cycles that a word takes at a rate of passes: all of them, and the start of the last pass. A word beside a VRDI or VWRI issues its passes
at the group's rate, whatever the passes of that one take: R27 and R148 say only that the group is longer (log entry 25). -/
def wordCycles (t : Team) (cyc cpp : Nat) (i : Instr) : Nat × Nat :=
  let ks := (form i).passes t
  match i with
  | .vrdiB32 _ a e => indCycles t e a.toNat 1 cyc ks
  | .vrdiB64 _ a e => indCycles t e a.toNat 2 cyc ks
  | .vwriB32 _ a e => indCycles t e a.toNat 1 cyc ks
  | .vwriB64 _ a e => indCycles t e a.toNat 2 cyc ks
  | _ => (cpp * ks.length, cpp * (ks.length - 1))

/-- The largest pass count among the vector words of a group. -/
def groupPasses (t : Team) (gs : List GWord) : Nat :=
  (gs.filter fun g => (form g.instr).sweep).foldl (fun n g => max n ((form g.instr).passes t).length) 0

/-- The breakpoint register that matches an address (R320). -/
def breakAt (s : State) (t : Team) (va : Nat) : Option Nat :=
  if t.priv then none
  else (List.range 4).find? fun i =>
    let b := (Tbl.getD (s.core t.core).bkpt i 0).toNat
    nb b 63 1 == 1 && b % 2 ^ 57 == va

end Sys2Proof.Machine
end

