-- ==== Sys2Proof/Machine/Arbiter.lean ====
section
/-! DEFINITION. The current reservations of a quad (R342): who asks for units, when one is granted, and how long it is held. -/
namespace Sys2Proof.Machine

def resvUsed (s : State) (q : Quad) : Nat := q.resv.foldl (fun a r => if r.holds s then a + r.units else a) 0

/-- A grant reaches its requester: the run of a matrix entry starts, so that its units are held from there (R342). -/
def grantTo (s : State) (w : Requester) : State :=
  match w with
  | .matrix core id => matStart (s.modCore core fun c => { c with fifo := c.fifo.map fun e => if e.id == id then { e with granted := true } else e }) core
  | .copy _ id => match Tbl.find? s.cmds id with
    | some m => setCmd s { m with left := 4096 }
    | none => s
  | .vector _ => s

/-- The largest pass count of a ready team's next group, as far as its fetch reaches it. -/
def nextPasses (s : State) (tk : Nat) : Nat :=
  match startOf s tk with
  | .at_ va => (match fetchFrom s tk 4 va true with | .ok ws _ => groupPasses (s.team tk) (parseGroup ws 0) | _ => 0)
  | _ => 0

/-- The team, the core and the units of a request that may be made now: that of a matrix entry which could start otherwise (log entry 25), that of a vector group whose largest pass count is 8
or more, a copy command's for its next chunk. -/
def resvAsk (s : State) (w : Requester) : Option (Nat × Nat × Nat) :=
  match w with
  | .matrix core id => match (matReady s core).filter fun e => e.1.id == id && e.1.draws && !e.1.granted with
    | some e => some (e.1.tk, core, 4 - (s.core core).subF.length)
    | none => none
  | .copy core id => match Tbl.find? s.cmds id with
    | some m => if m.core == core && m.chunked && m.started && m.left == 0 && !m.work.isEmpty then some (m.tk, core, 1) else none
    | none => none
  | .vector tk => match Tbl.find? s.teams tk with
    | some t => if t.st = .ready && decide (8 ≤ nextPasses s tk) then some (tk, t.core, 1) else none
    | none => none

/-- Whether the team of a request is owed its minimum share now (R42). -/
def Resv.owed (s : State) (r : Resv) : Bool :=
  let t := s.team r.tk
  t.owed || (t.st == .ready && decide (t.since + 255 ≤ (s.core r.core).cyc))

/-- The waiting request that is served next: owed teams first, then class order, then arrival. -/
def resvNext (s : State) (q : Quad) : Option Resv :=
  (q.resv.filter (!·.granted)).foldl (fun r x => match r with
    | none => some x
    | some y =>
      let before := if x.owed s != y.owed s then x.owed s else if x.cls != y.cls then decide (x.cls < y.cls) else decide (x.seq < y.seq)
      some (if before then x else y)) none

/-- The next waiting request is granted, if the capacity left holds it. -/
def resvGrant (s : State) (quad : Nat) : State :=
  let s := pruneResv s quad
  let q := s.quad quad
  match resvNext s q with
  | none => s
  | some r =>
    if q.cap < resvUsed s q + r.units then s
    else grantTo (s.modQuad quad fun q => { q with resv := q.resv.map fun x => if x.seq == r.seq then { x with granted := true } else x }) r.who

/-- A request arrives: it is granted at once if it goes before every one that waits and the capacity holds it, and counts as waiting otherwise. -/
def resvRequest (s : State) (w : Requester) : State :=
  match resvAsk s w with
  | none => s
  | some (tk, core, units) =>
    let quad := quadOf core
    let s := pruneResv s quad
    if (s.quad quad).resv.any fun r => r.who == w && r.till.isNone then s
    else
      let (n, s) := s.newId
      let r : Resv := { who := w, units := units, tk := tk, core := core, cls := (s.plot (pidOf tk)).cls, seq := n, granted := false }
      let fits := decide (resvUsed s (s.quad quad) + units ≤ (s.quad quad).cap)
      let s := s.modQuad quad fun q => { q with resv := q.resv ++ [r] }
      if fits && (resvNext s (s.quad quad)).any (·.seq == n) then resvGrant s quad else s.modQuad quad fun q => { q with qresw := q.qresw + 1 }

/-- R342: A matrix entry, wide vector group or copy chunk asks the quad arbiter for reservation units. Reads who, and for a vector group flag and code as an issue does. -/
def execReservationRequest (s : State) : Host.Outcome State Fault Refusal :=
  ev (fun x s => resvRequest s x.who) s

/-- R342: A waiting reservation request is granted in class order and then arrival order. Reads a, the quad. -/
def execReservationGrant (s : State) : Host.Outcome State Fault Refusal :=
  ev (fun x s => resvGrant s x.a) s

end Sys2Proof.Machine
end

