-- ==== Sys2Proof/Machine/LoadStore.lean ====
section
/-! DEFINITION. The memory and fleeting instructions, and LDC (R118, R193 to R204). -/
namespace Sys2Proof.Machine

/-- A byte of the constant block of the current team's sowing, at an offset: the block lies at the header's CONST, read through the sowing's
ranges (R118, R234); at or beyond its end it is zero. A byte of another node or of a far frame, and one whose page cannot be read, of which
the spec says nothing, comes with the turn (log entries 14 and 15). -/
def constByte (s : State) (off : Nat) : Byte :=
  let w := s.sow (sidOf s.cur.tk)
  let va := (constAt w.hdr + off) % 2 ^ 64
  if w.clen ≤ off then 0
  else match ((firstRange w.rangeList va).bind (·.ia va)).map (guestIa s (domOf s.ct.core)) with
  | none => outsideByte s va
  | some ia =>
    if iaNode ia != 0 || decide (72 ≤ iaHome ia) then outsideByte s va
    else match (pageOf s (iaHome ia) ia false).2 with
      | .local_ _ key _ => homeByte s (iaHome ia) key
      | _ => outsideByte s va

/-- LDC of n registers (R118). -/
def ldcInstr (i : Instr) (n : Nat) (d : BitVec 8) (off : BitVec 16) (e : EPay) (s : State) : Host.Outcome State Fault Refusal :=
  let f := form i
  issue f (fun _ => if off.toNat % (4 * n) != 0 then .trap 0x07 off.toNat else .go)
    (fun s => uniExec f e (fun _ =>
      uniRes d.toNat n (ofBytes ((List.range (4 * n)).map fun j => constByte s (off.toNat + j)))) s) s

/-- R118: Reads 32 bits of the constant block. -/
def execLdcB32 (d : BitVec 8) (i : BitVec 16) (e : EPay) (s : State) : Host.Outcome State Fault Refusal :=
  ldcInstr (.ldcB32 d i e) 1 d i e s

/-- R118: Reads 64 bits of the constant block into a pair. -/
def execLdcB64 (d : BitVec 8) (i : BitVec 16) (e : EPay) (s : State) : Host.Outcome State Fault Refusal :=
  ldcInstr (.ldcB64 d i e) 2 d i e s

/-- R193: Loads a zero-extended byte per lane. -/
def execLdB8 (d : BitVec 8) (a : BitVec 8) (q : BitVec 8) (e : EPay) (s : State) : Host.Outcome State Fault Refusal :=
  loadInstr (.ldB8 d a q e) false 1 false d a q e s

/-- R193: Loads a zero-extended halfword per lane. -/
def execLdB16 (d : BitVec 8) (a : BitVec 8) (q : BitVec 8) (e : EPay) (s : State) : Host.Outcome State Fault Refusal :=
  loadInstr (.ldB16 d a q e) false 2 false d a q e s

/-- R193: Loads 32 bits per lane. -/
def execLdB32 (d : BitVec 8) (a : BitVec 8) (q : BitVec 8) (e : EPay) (s : State) : Host.Outcome State Fault Refusal :=
  loadInstr (.ldB32 d a q e) false 4 false d a q e s

/-- R193: Loads a sign-extended byte per lane. -/
def execLdS8 (d : BitVec 8) (a : BitVec 8) (q : BitVec 8) (e : EPay) (s : State) : Host.Outcome State Fault Refusal :=
  loadInstr (.ldS8 d a q e) false 1 true d a q e s

/-- R193: Loads a sign-extended halfword per lane. -/
def execLdS16 (d : BitVec 8) (a : BitVec 8) (q : BitVec 8) (e : EPay) (s : State) : Host.Outcome State Fault Refusal :=
  loadInstr (.ldS16 d a q e) false 2 true d a q e s

/-- R193: Loads 64 bits per lane. -/
def execLdB64 (d : BitVec 8) (a : BitVec 8) (q : BitVec 8) (e : EPay) (s : State) : Host.Outcome State Fault Refusal :=
  loadInstr (.ldB64 d a q e) false 8 false d a q e s

/-- R193: Loads 128 bits per lane. -/
def execLdB128 (d : BitVec 8) (a : BitVec 8) (q : BitVec 8) (e : EPay) (s : State) : Host.Outcome State Fault Refusal :=
  loadInstr (.ldB128 d a q e) false 16 false d a q e s

/-- R193: Uniform 32-bit load. -/
def execUldB32 (d : BitVec 8) (a : BitVec 8) (q : BitVec 8) (e : EPay) (s : State) : Host.Outcome State Fault Refusal :=
  loadInstr (.uldB32 d a q e) true 4 false d a q e s

/-- R193: Uniform 64-bit load. -/
def execUldB64 (d : BitVec 8) (a : BitVec 8) (q : BitVec 8) (e : EPay) (s : State) : Host.Outcome State Fault Refusal :=
  loadInstr (.uldB64 d a q e) true 8 false d a q e s

/-- R193: Uniform 128-bit load. -/
def execUldB128 (d : BitVec 8) (a : BitVec 8) (q : BitVec 8) (e : EPay) (s : State) : Host.Outcome State Fault Refusal :=
  loadInstr (.uldB128 d a q e) true 16 false d a q e s

/-- R193: Stores a byte per lane. -/
def execStB8 (d : BitVec 8) (a : BitVec 8) (q : BitVec 8) (e : EPay) (s : State) : Host.Outcome State Fault Refusal :=
  storeInstr (.stB8 d a q e) false 1 d a q e s

/-- R193: Stores a halfword per lane. -/
def execStB16 (d : BitVec 8) (a : BitVec 8) (q : BitVec 8) (e : EPay) (s : State) : Host.Outcome State Fault Refusal :=
  storeInstr (.stB16 d a q e) false 2 d a q e s

/-- R193: Stores 32 bits per lane. -/
def execStB32 (d : BitVec 8) (a : BitVec 8) (q : BitVec 8) (e : EPay) (s : State) : Host.Outcome State Fault Refusal :=
  storeInstr (.stB32 d a q e) false 4 d a q e s

/-- R193: Stores 64 bits per lane. -/
def execStB64 (d : BitVec 8) (a : BitVec 8) (q : BitVec 8) (e : EPay) (s : State) : Host.Outcome State Fault Refusal :=
  storeInstr (.stB64 d a q e) false 8 d a q e s

/-- R193: Stores 128 bits per lane. -/
def execStB128 (d : BitVec 8) (a : BitVec 8) (q : BitVec 8) (e : EPay) (s : State) : Host.Outcome State Fault Refusal :=
  storeInstr (.stB128 d a q e) false 16 d a q e s

/-- R193: Uniform 32-bit store. -/
def execUstB32 (d : BitVec 8) (a : BitVec 8) (q : BitVec 8) (e : EPay) (s : State) : Host.Outcome State Fault Refusal :=
  storeInstr (.ustB32 d a q e) true 4 d a q e s

/-- R193: Uniform 64-bit store. -/
def execUstB64 (d : BitVec 8) (a : BitVec 8) (q : BitVec 8) (e : EPay) (s : State) : Host.Outcome State Fault Refusal :=
  storeInstr (.ustB64 d a q e) true 8 d a q e s

/-- R193: Uniform 128-bit store. -/
def execUstB128 (d : BitVec 8) (a : BitVec 8) (q : BitVec 8) (e : EPay) (s : State) : Host.Outcome State Fault Refusal :=
  storeInstr (.ustB128 d a q e) true 16 d a q e s

/-- R197: 32-bit atomic read-modify-write per lane; it requires an E word. -/
def execAtomB32 (d : BitVec 8) (a : BitVec 8) (q : BitVec 8) (e : EPay) (s : State) : Host.Outcome State Fault Refusal :=
  atomInstr (.atomB32 d a q e) false false 4 (.atom (eAux e)) d a q e s

/-- R197: 64-bit atomic per lane; it requires an E word. -/
def execAtomB64 (d : BitVec 8) (a : BitVec 8) (q : BitVec 8) (e : EPay) (s : State) : Host.Outcome State Fault Refusal :=
  atomInstr (.atomB64 d a q e) false false 8 (.atom (eAux e)) d a q e s

/-- R197: Uniform 32-bit atomic; it requires an E word. -/
def execUatomB32 (d : BitVec 8) (a : BitVec 8) (q : BitVec 8) (e : EPay) (s : State) : Host.Outcome State Fault Refusal :=
  atomInstr (.uatomB32 d a q e) true false 4 (.atom (eAux e)) d a q e s

/-- R198: Floating-point atomic at the home unit; it requires an E word. -/
def execFatom (d : BitVec 8) (a : BitVec 8) (q : BitVec 8) (e : EPay) (s : State) : Host.Outcome State Fault Refusal :=
  atomInstr (.fatom d a q e) false true (4 * fatomRegs e) (.fatom (eAux e)) d a q e s

/-- R200: An acquire or release fence at a scope. -/
def execFence (o : BitVec 3) (sc : BitVec 3) (s : State) : Host.Outcome State Fault Refusal :=
  fenceInstr (.fence o sc) o sc s

/-- R201: Prefetches the line into L1 and the level below. -/
def execPrefetchL1 (a : BitVec 8) (m : BitVec 2) (e : EPay) (s : State) : Host.Outcome State Fault Refusal :=
  prefetchInstr (.prefetchL1 a m e) true a m e s

/-- R201: Prefetches the line into the virtual cache only. -/
def execPrefetchVc (a : BitVec 8) (m : BitVec 2) (e : EPay) (s : State) : Host.Outcome State Fault Refusal :=
  prefetchInstr (.prefetchVc a m e) false a m e s

/-- R202: Fleeting load with a liveness word. -/
def execFld (d : BitVec 8) (a : BitVec 8) (q : BitVec 8) (e : EPay) (s : State) : Host.Outcome State Fault Refusal :=
  fleetInstr (.fld d a q e) false d a q e s

/-- R202: Fleeting store with a liveness word. -/
def execFst (d : BitVec 8) (a : BitVec 8) (q : BitVec 8) (e : EPay) (s : State) : Host.Outcome State Fault Refusal :=
  fleetInstr (.fst d a q e) true d a q e s

/-- R204: Zeroes a fleeting tile and births it at the perform tick. -/
def execFbirth (d : BitVec 8) (a : BitVec 8) (s : State) : Host.Outcome State Fault Refusal :=
  fctlInstr (.fbirth d a) .fbirth d a s

/-- R204: Restamps a live tile's birth. -/
def execFrenew (d : BitVec 8) (a : BitVec 8) (s : State) : Host.Outcome State Fault Refusal :=
  fctlInstr (.frenew d a) .frenew d a s

/-- R204: Returns a tile's remaining life. -/
def execFlife (d : BitVec 8) (a : BitVec 8) (s : State) : Host.Outcome State Fault Refusal :=
  fctlInstr (.flife d a) .flife d a s

end Sys2Proof.Machine
end

