-- ==== Sys2Proof/Machine/System.lean ====
section
/-! DEFINITION. The system boundary: words without a meaning, the tick and its edge, boot and attestation, power, the controllers'
registers, snapshots, the debugger's reads (R6, R71, R181, R182, R237, R252, R280 to R284, R335 to R350). -/
namespace Sys2Proof.Machine

/-! ## Words and bytes of what a controller reports -/

/-- The domain that a number names in the topology table of a domain: physical, or, for its guest, of the guest (R351). -/
def namedDom (s : State) (d e : Nat) (guest : Bool) : Option Nat :=
  let g := (s.dom d).guest
  if !guest || g = 0 then (if e < 72 then some e else none)
  else (List.range 72).find? fun p => (s.dom p).guest == g && (s.dom p).guestNo == e

/-- A topology header word: EPOCH and LEAD (R252). LEAD reads 0 while there is no lead domain, of which the spec says nothing (log entry 5). -/
def topoHeader (s : State) (d : Nat) (guest : Bool) : Nat :=
  let g := (s.dom d).guest
  let lead := s.lead.getD 0
  s.epoch % 2 ^ 32 * 2 ^ 32 + if !guest || g = 0 then lead
    else if (s.dom lead).guest = g then (s.dom lead).guestNo else Config.guestLead g % 128

/-- The number of columns of a domain that are not fenced. -/
def liveColumns (d : Dom) : Nat := 12 - popc d.colF.toNat 12

/-- The fenced columns that a reader sees: a guest does not see those whose quads others carry for it (R352). -/
def Dom.shown (m : Dom) (guest : Bool) : BitVec 12 :=
  if guest && m.guest != 0 then m.subst.foldl (fun a c => a &&& ~~~(BitVec.twoPow 12 c.1)) m.colF else m.colF

/-- A domain row (R252). CORES counts the live cores of every domain whose controller booted, one recorded down among them (R11). -/
def domRow (s : State) (d : Nat) (guest : Bool := false) : Nat :=
  let m := { s.dom d with colF := (s.dom d).shown guest }
  (if m.live then 2 ^ 63 else 0) + (if m.lineMemF then 2 ^ 62 else 0) + m.colF.toNat * 2 ^ 48
    + (if m.booted then 4 * liveColumns m else 0) * 2 ^ 40 + m.chF.toNat * 2 ^ 28

/-- The byte of a core (R252). -/
def coreByte (s : State) (n : Nat) (guest : Bool := false) : Nat :=
  let m := s.dom (domOf n)
  (if m.booted && !(m.shown guest).getLsbD (n % 48 / 4) then 128 else 0) + posOf s n

/-- Word w of a cache definition record (R255). -/
def vcWord (d : Nat) (r : VcRec) (w : Nat) : Nat :=
  let bank (b : BitVec 144) (k : Nat) : Nat := nb b.toNat (64 * k) 64
  match w with
  | 0 => r.st * 2 ^ 62 + (if r.remote then 2 ^ 61 else 0) + r.line * 2 ^ 59 + r.policy * 2 ^ 57 + r.ways.toNat * 2 ^ 49
      + r.pline * 2 ^ 47 + r.pways.toNat * 2 ^ 39 + d * 2 ^ 32 + r.sweep
  | 1 | 2 | 3 => bank r.banks (w - 1)
  | 4 | 5 | 6 => bank r.pbanks (w - 4)
  | 7 => r.gen
  | _ => 0

/-- Word w of a wait-table entry (R248). -/
def waitWord (e : WaitE) (idx w : Nat) : Nat :=
  match w with
  | 0 => if e.gen = 0 then 0 else ((e.record idx).getD 0 0).toNat   -- an entry never allocated reads 0
  | 1 => (if e.v then 2 ^ 63 else 0) + e.st * 2 ^ 61 + e.page % 2 ^ 42 * 2 ^ 16
  | 2 => nb e.doms.toNat 0 64
  | 3 => nb e.doms.toNat 64 8
  | 4 => e.tick
  | _ => 0

/-- A waiter's slot in a watch entry. -/
def watchSlot (s : State) (acc : Nat) : Nat := ((Tbl.find? s.accs acc).map (·.wslot)).getD 0

/-- Word w of a glean-log entry (R239). -/
def gleanWord (s : State) (core : Nat) (g : GleanE) (w : Nat) : Nat :=
  match w with
  | 0 => 2 ^ 63 + (if g.ready then 2 ^ 62 else 0) + teamSlot s core g.tk * 2 ^ 55 + g.ord % 8 * 2 ^ 52 + g.scope % 8 * 2 ^ 49 + g.tok % 2 ^ 32
  | 1 => g.block % 2 ^ 52 * 2 ^ 6
  | 2 => g.be.toNat
  | w + 3 => if w < 8 then nb g.data (64 * w) 64 else 0

/-- Word w of the n-th watch entry in use (R250). -/
def watchWord (s : State) (d n w : Nat) : Nat :=
  let l := (s.dom d).watch
  match l[n]? with
  | none => 0
  | some e =>
    let age := ((l.take n).filter fun x => x.block % 512 == e.block % 512).length
    let slots := (e.waiters.zipIdx.map fun x => watchSlot s x.1 * 2 ^ (24 * x.2)).sum
    if w = 0 then 2 ^ 63 + e.waiters.length * 2 ^ 58 + e.block % 2 ^ 52 * 2 ^ 6 + age
    else if w ≤ 6 then nb slots (64 * (w - 1)) 64 else 0

/-- The counters of a domain and of a quad (R282). -/
def domCounters (d : Dom) : List Nat := [d.undefvc.toNat, d.fqovf.toNat, d.wtfull.toNat, d.watchev.toNat]
def quadCounters (q : Quad) : List Nat := [half (q.energy / 16) 0, half (q.energy / 16) 1, q.qthrot.toNat, q.qresw.toNat, q.ratio]
def coreCounters (c : Core) : List Nat := (List.range 40).map (coreCounter c)

/-- Field n of a snapshot set: its status as SNAPSTAT shows it, TAG, TICK, then the copies (R283, R285). -/
def snapField (x : Snap) (n : Nat) : Nat :=
  match n with
  | 0 => (if x.valid then 2 ^ 31 else 0) + 2 ^ 8 * x.src + x.miss
  | 1 => x.tag
  | 2 => x.tick
  | n + 3 => x.copies.getD n 0

/-- The snapshot set of block b of a domain. -/
def snapOf (s : State) (d b : Nat) : Snap :=
  if b < 48 then (s.core (48 * d + b)).snap else if b < 60 then (s.quad (12 * d + (b - 48))).snap else (s.dom d).snap

/-! ## Snapshots (R283, R284) -/

/-- Whether a trip is to be latched by now: at the first tick edge at least two ticks, modulo 2^40, after it. -/
def latchDue (s : State) : Bool := match s.trip with | t :: _ => decide (2 ≤ (s.tick + 2 ^ 40 - t.tick) % 2 ^ 40) | [] => false

/-- A set meets a trip. -/
def Snap.latch (x : Snap) (t : Trip) (tick : Nat) (cs : List Nat) : Snap :=
  if x.valid then { x with miss := min 255 (x.miss + 1) }
  else { x with valid := true, src := t.src, tag := if t.src = 1 then t.tag else 0, tick := tick, copies := cs }

/-- Every block that is not fenced or down meets the oldest trip. -/
def latchAll (s : State) : State :=
  match s.trip with
  | [] => s
  | t :: r =>
    if !latchDue s then s
    else
      let ds := (List.range 72).filter fun d => (s.dom d).live
      let qs := ds.flatMap fun d => ((List.range 12).filter (quadLive s d)).map (12 * d + ·)
      let cs := qs.flatMap fun q => (List.range 4).map (4 * q + ·)
      let s := { s with trip := r }
      let s := cs.foldl (fun s c => s.modCore c fun x => { x with snap := x.snap.latch t s.tick (coreCounters x) }) s
      let s := qs.foldl (fun s q => s.modQuad q fun x => { x with snap := x.snap.latch t s.tick (quadCounters x) }) s
      ds.foldl (fun s d => s.modDom d fun x => { x with snap := x.snap.latch t s.tick (domCounters x) }) s

/-- VALID of a set cleared. -/
def snapClearOf (s : State) (b : Block) : State :=
  match b with
  | .core c => s.modCore c fun x => { x with snap := { x.snap with valid := false } }
  | .quad q => s.modQuad q fun x => { x with snap := { x.snap with valid := false } }
  | .dom d => s.modDom d fun x => { x with snap := { x.snap with valid := false } }

/-! ## The tick (R280, R181, R281, R282) -/

/-- The top of a converter ratio, in MHz (R340). -/
def ratioTop (r : Nat) : Nat := if r = 0 then 1300 else if r = 1 then 1700 else 2000
/-- The lowest ratio whose top reaches a frequency; above 2,000 MHz it is C. -/
def ratioFor (f : Nat) : Nat := if f ≤ 1300 then 0 else if f ≤ 1700 then 1 else 2
/-- The clock of a quad: its frequency, or the top of its ratio while a raise waits (R341). -/
def Quad.clock (q : Quad) : Nat := if q.ratio < ratioFor q.f then ratioTop q.ratio else q.f

/-- A tile whose window has long passed is marked expired, so that the wrap of TICK revives none (R181). -/
def ageTile (w now : Nat) (t : Tile) : Tile := if !t.exp && decide (w + 2 ^ 20 ≤ (now + 2 ^ 40 - t.birth) % 2 ^ 40) then { t with exp := true } else t

/-- Whether a quad's PI controller has not yet acted at the last tick edge (R341). -/
def piDue (s : State) : Bool :=
  (List.range 72).any fun d => (s.dom d).booted && (List.range 12).any fun q => (s.quad (12 * d + q)).piAt != s.tick

/-- The tick edge: TICK advances everywhere, unless a snapshot is still to be latched at this edge, or a quad's PI controller still to act. The
counters of a fenced core stand (R352). -/
def tickEdge (s : State) : State :=
  if latchDue s || piDue s then s
  else
    let now := (s.tick + 1) % 2 ^ 40
    let next (p : Nat × Core) : Nat := if coreGone s p.1 then p.2.cyc else max p.2.cyc (p.2.cbase + (s.quad (quadOf p.1)).clock)
    let s := noteHeads (s.cores.foldl (fun u p => passCycles u p.1 (next p - p.2.cyc)) s)
    let coreTick (p : Nat × Core) : Nat × Core := (p.1, { p.2 with cyc := next p, cbase := next p })
    let domTick (d : Dom) : Dom :=
      { d with fqovf := if fqFull d then d.fqovf + 1 else d.fqovf, wtfull := if (waitFree d).isNone then d.wtfull + 1 else d.wtfull }
    { s with
      tick := now
      cores := s.cores.map coreTick
      doms := Tbl.mapV domTick s.doms
      tiles := s.tiles.map fun p => (p.1, ageTile (s.dom (p.1 / 73728)).w now p.2) }

/-! ## Boot (R335 to R337, R364, R252) -/

def bytesLE (v n : Nat) : List Byte := (List.range n).map fun i => BitVec.ofNat 8 (v / 2 ^ (8 * i))
/-- A field of the image's header. -/
def hdrField (h : List Byte) (off n : Nat) : Nat := ofBytes ((h.drop off).take n)
def digestBytes (x : BitVec 384) : List Byte := bytesLE x.toNat 48

/-- Whether an image verifies (R335, R336): the sizes of its fields, its version, its digest, its keys, its signatures. -/
def imageOk (i : BootImage) : Bool :=
  i.hdr.length == 64 && hdrField i.hdr 0 4 == 0x54574231 && decide (Config.minVersion ≤ hdrField i.hdr 4 4)
    && hdrField i.hdr 8 8 == i.body.length && i.body.length % 4096 == 0
    && i.sigA.length == 384 && i.sigB.length == 16224 && i.keyA.length == 384 && i.keyB.length == 48
    && (i.hdr.drop 16).take 48 == digestBytes (Config.sha384 i.body)
    && i.digA == digestBytes (Config.sha384 i.keyA) && i.digB == digestBytes (Config.sha384 i.keyB)
    && i.digA == digestBytes Config.fusedKeyA && i.digB == digestBytes Config.fusedKeyB
    && Config.rsaVerifies i.keyA i.hdr i.sigA && Config.slhVerifies i.keyB i.hdr i.sigB

/-- MEAS := SHA-384(MEAS and the value) (R337). -/
def extend (m : BitVec 384) (v : List Byte) : BitVec 384 := Config.sha384 (digestBytes m ++ v)

/-- The band map as MEAS2 takes it (R337, R339): the header, then the entries, low byte first. -/
def bandBytes : List Byte := bytesLE Config.bandHeader 4 ++ (List.range 72).flatMap fun d => bytesLE (Config.bandEntry d) 4

/-- The banks of the live columns. -/
def liveBanks (d : Dom) : BitVec 144 := ((List.range 144).filter (bankLive d)).foldl (fun a b => a ||| BitVec.twoPow 144 b) 0

/-- The domain's row as bytes, and its core bytes, as MEAS3 takes them. -/
def topoBytes (s : State) (d : Nat) : List Byte :=
  bytesLE (domRow s d) 8 ++ (List.range 48).map fun c => BitVec.ofNat 8 (coreByte s (48 * d + c))

/-- Steps 1 to 5 of a domain's boot. us and vs are the columns and channels that its tests find failed, or that are fenced at
shipment; flag says that the upper bus failed. Nothing boots once the window of 5 s is over. -/
def boot (x : Input) (s : State) : State :=
  let d := x.a
  let m := s.dom d
  if 72 ≤ d || m.booted || m.halted || s.windowClosed || 5000000 ≤ s.tick then s
  else if !imageOk x.img then s.modDom d fun m => { m with halted := true }
  else
    let col : BitVec 12 := x.us.foldl (fun a c => a ||| BitVec.twoPow 12 c) m.colF
    let ch : BitVec 12 := x.vs.foldl (fun a c => a ||| BitVec.twoPow 12 c) m.chF
    let s := s.modDom d fun m =>
      let m := { m with booted := true, colF := col, chF := ch, lineMemF := m.lineMemF || x.flag }
      let m := { m with live := decide (44 ≤ 4 * liveColumns m) }
      let r : VcRec := { st := 1, remote := false, line := 1, policy := 0, ways := 1, banks := liveBanks m }
      { claim m false 0 r.g.strips with vcs := Tbl.set m.vcs 0 r }
    let s := (List.range 48).foldl (fun s c => s.modCore (48 * d + c) id) s   -- its cores run from here on
    let s := (List.range 12).foldl (fun s q => s.modQuad (12 * d + q) fun q => { q with piAt := s.tick, u := 500, ePrev := 0, f := 500, ratio := 0, raises := [] }) s
    let ms : List (Nat × List Byte) := [
      (0, digestBytes (Config.sha384 Config.bootRom)), (1, x.img.hdr),
      (2, bytesLE Config.partid.toNat 4 ++ Config.fuseBlock ++ bandBytes), (3, topoBytes s d)]
    s.modDom d fun m => { m with meas := ms.foldl (fun t p => Tbl.set t p.1 (extend 0 p.2)) m.meas }

/-- The neighbour of a domain in a direction: 0 N, 1 E, 2 S, 3 W (R4). Which way on the grid N and S point the spec does not say: the model
takes N as row y - 1 and S as row y + 1 (log entry 25). -/
def neighbour (d dir : Nat) : Option Nat :=
  match dir with
  | 0 => if d < 8 then none else some (d - 8)
  | 1 => if d % 8 = 7 then none else some (d + 1)
  | 2 => if 64 ≤ d then none else some (d + 8)
  | _ => if d % 8 = 0 then none else some (d - 1)

/-- Whether the bytes of a route table lead from d to e in n hops through live domains (R252). -/
def leads (s : State) (bytes : Nat → Nat → Nat) (e : Nat) : Nat → Nat → Bool
  | 0, d => d == e && (s.dom d).live
  | n + 1, d => (s.dom d).live && d != e && match neighbour d (nb (bytes d e) 4 2) with
    | some d' => leads s bytes e n d'
    | none => false

/-- The route byte that firmware records: the one given, where its route exists. -/
def routeEntry (s : State) (bytes : Nat → Nat → Nat) (d e : Nat) : Nat :=
  if nb (bytes d e) 7 1 = 1 && nb (bytes d e) 6 1 = 0 && leads s bytes e (nb (bytes d e) 0 4) d then bytes d e else 0

/-- The PORTS of a node row without the ports that are out of service (R344). -/
def portsIn (s : State) (v : Nat) : Nat := s.ports.foldl (fun a p => if a.testBit p then a - 2 ^ p else a) (v % 2 ^ 64)

/-- The boot window closes: the lead domain is chosen, and its controller fills the route bytes (us, byte 72 d + e) and the node
rows (vs, word w of node n at 2 n + w) and starts the dispatcher. -/
def closeWindow (x : Input) (s : State) : State :=
  if s.windowClosed || s.tick < 5000000 then s
  else
    let bytes (d e : Nat) : Nat := x.us.getD (72 * d + e) 0
    let s := { s with windowClosed := true, epoch := (s.epoch + 1) % 2 ^ 32, lead := (List.range 72).find? fun d => (s.dom d).booted }
    if s.lead.isNone then s
    else
      let row (n w : Nat) : DWord := BitVec.ofNat 64 (if w = 1 then portsIn s (x.vs.getD (2 * n + 1) 0) else x.vs.getD (2 * n) 0)
      let pairs := (List.range 72).flatMap fun d => (List.range 72).map fun e => (d, e)
      { s with
        routes := pairs.foldl (fun t p => Tbl.put t (72 * p.1 + p.2) (BitVec.ofNat 8 (routeEntry s bytes p.1 p.2)) 0) s.routes
        nodes := (List.range 64).foldl (fun t n => Tbl.put (Tbl.put t (2 * n) (row n 0) 0) (2 * n + 1) (row n 1) 0) s.nodes }

/-! ## Attestation (R338) -/

/-- The answer to a request: a status (1 not ready), or the report and its two signatures and certificates. -/
def attest (x : Input) (s : State) : State :=
  reply s x (
    if s.lead.isNone then [1]
    else
      let body := [x.c % 2 ^ 384, Config.partid.toNat, s.epoch] ++ ((List.range 72).flatMap fun d =>
        (if (s.dom d).live then 1 else 0) :: (List.range 4).map fun n => (Tbl.getD (s.dom d).meas n 0).toNat) ++ [s.tick]
      [0] ++ body ++ [ofBytes (Config.rsaSign body), ofBytes (Config.slhSign body), ofBytes Config.certificates])

/-! ## Power (R341, R343) -/

/-- Whether a class-0 plot is bound in a quad: it is until it is saved or retires, also while it is pre-empted or stopped. -/
def classZeroIn (s : State) (q : Nat) : Bool := s.plots.any fun p => p.2.resident && p.2.cls == 0 && 12 * p.2.dom + p.2.quad == q

/-- Whether a raise is due: its tick, modulo 2^40, has come. -/
def raiseDue (tick : Nat) (r : Nat × Nat) : Bool := decide ((tick + 2 ^ 40 - r.2) % 2 ^ 40 < 2 ^ 39)

/-- The ratio after the raises that are due (R341). -/
def Quad.raised (q : Quad) (tick : Nat) : Quad :=
  { q with ratio := (q.raises.filter (raiseDue tick)).foldl (fun a r => max a r.1) q.ratio, raises := q.raises.filter fun r => !raiseDue tick r }

/-- How many of the first n cycles some run covers. -/
def busyCycles (runs : List (Nat × Nat)) (n : Nat) : Nat :=
  ((sortBy (fun (a b : Nat × Nat) => decide (a.1 ≤ b.1)) runs).foldl (fun (t r : Nat × Nat) =>
    let hi := min r.2 n
    (t.1 + (hi - max t.2 r.1), max t.2 hi)) (0, 0)).1

/-- The boost ceiling from the busy cycles of the last 64 ticks (R343). -/
def boostCeiling (h : List (Nat × Nat)) (fx : Nat) : Nat :=
  let busy := (h.map (·.1)).sum
  let all := (h.map (·.2)).sum
  min (if all ≤ 4 * busy then 2100 else 2300) (10 * fx)

/-- One action of a quad's PI controller on the power estimate p of the past tick. -/
def Quad.pi (q : Quad) (p floor fx tick : Nat) : Quad :=
  let n := q.clock
  let hist := ((busyCycles q.mruns n, n) :: q.mbusy).take 64
  let q := q.raised tick
  let e : Int := (q.budget : Int) - (p : Int)
  let u : Int := q.u + (q.kp : Int) * (e - q.ePrev) + (q.ki : Int) * e
  let u : Int := min (max u (floor : Int)) (q.ceil : Int)
  let f := 25 * (u.toNat / 25)
  let need := ratioFor f
  let raises := q.raises.filter fun r => decide (r.1 ≤ need)
  let q := { q with
    u := u, ePrev := e, f := f, piAt := tick
    ratio := min q.ratio need
    raises := if need ≤ q.ratio then [] else if raises.any fun r => decide (need ≤ r.1) then raises else raises ++ [(need, (tick + 2) % 2 ^ 40)]
    energy := (q.energy + p) % 2 ^ 68
    ceil := boostCeiling hist fx, mbusy := hist
    mruns := (q.mruns.filter fun (r : Nat × Nat) => decide (n < r.2)).map fun (r : Nat × Nat) => (r.1 - n, r.2 - n) }
  { q with qthrot := if q.clock < ratioTop q.ratio then q.qthrot + 1 else q.qthrot }

/-- A write of a quad's budget register; the capacity is what firmware derives from it (log entry 16). -/
def Quad.setBudget (q : Quad) (v : Nat) : Quad := { q with ki := nb v 24 8, kp := nb v 16 8, budget := nb v 0 16 }

/-! ## The controllers' registers (R237, R345, R348) -/

/-- The retention window, bits [19:0] of its register, is only lowered (R182). -/
def setRetention (s : State) (d v : Nat) : State := s.modDom d fun m => if v % 2 ^ 20 ≤ m.w then { m with w := v % 2 ^ 20 } else m

/-- A code address register: bits above 56 read zero. -/
def pcReg (v : Nat) : DWord := BitVec.ofNat 64 (v % 2 ^ 57)

/-- A word without the bits that its layout gives as zero. -/
def keepBits (v mask : Nat) : DWord := BitVec.ofNat 64 (v &&& mask)

/-- A write of a register of domain d: bits that a layout gives as zero stay zero, and a code that never occurs is not taken. -/
def regWrite (s : State) (d : Nat) (r : CtlReg) (v : Nat) : State :=
  match r with
  | .ptroot => s.modDom d fun m => { m with ptroot := BitVec.ofNat 64 v }
  | .fqbase => s.modDom d fun m => { m with fqbase := BitVec.ofNat 64 (v % 2 ^ 58) }
  | .fqsize => s.modDom d fun m => { m with fqsize := v % 32 }
  | .fqcons => consAct { a := d, c := v } s
  | .chanMap m w => if 4 ≤ m || 2 ≤ w then s else s.modDom d fun x => { x with maps := Tbl.set x.maps (2 * m + w) (keepBits v (if w = 0 then 0xF000FFFFFFFFFFFF else 0xFFFFFCFFFFFFFFFF)) }
  | .pctxbase => s.modDom d fun m => { m with pctx := BitVec.ofNat 64 v }
  | .lctxbase => s.modDom d fun m => { m with lctx := BitVec.ofNat 64 v }
  | .tvec c => if pcBad (pcReg v) then s else s.modCore (48 * d + c % 48) fun x => { x with tvec := pcReg v }
  | .srg c w => s.modCore (48 * d + c % 48) fun x => { x with srg := Tbl.set x.srg (w % 3) (keepBits v (match w % 3 with | 0 => 2 ^ 63 + (2 ^ 36 - 1) | 1 => 2 ^ 36 - 1 | _ => 2 ^ 37 - 1)) }
  | .nb c k =>
    if 4 ≤ v % 16 && v % 16 ≤ 12 then s
    else s.modCore (48 * d + c % 48) fun x => { x with nb := Tbl.put x.nb (k % 4) (BitVec.ofNat 32 (v % 16)) 0 }
  | .pos c => { s with pos := Tbl.set s.pos (48 * d + c % 48) (BitVec.ofNat 2 v) }
  | .bkpt c i => s.modCore (48 * d + c % 48) fun x => { x with bkpt := Tbl.put x.bkpt (i % 4) (BitVec.ofNat 64 (v % 2 ^ 57 + nb v 63 1 * 2 ^ 63)) 0 }
  | .wpt c i => s.modCore (48 * d + c % 48) fun x => { x with wpt := Tbl.put x.wpt (i % 2) (BitVec.ofNat 64 v) 0 }
  | .guest => s.modDom d fun m => { m with guest := v }
  | .guestNo => s.modDom d fun m => { m with guestNo := v }
  | .guestNodes => s.modDom d fun m => { m with guestNodes := BitVec.ofNat 64 v }
  | .nodeRow n w =>
    if 64 ≤ n || 2 ≤ w then s
    else { s with nodes := Tbl.put s.nodes (2 * n + w) (BitVec.ofNat 64 (if w = 1 then portsIn s v else v)) 0 }
  | .route e => if 72 ≤ d || 72 ≤ e then s else { s with routes := Tbl.put s.routes (72 * d + e) (if nb v 7 1 = 1 then BitVec.ofNat 8 (v &&& 0xBF) else 0) 0 }
  | .retention => setRetention s d v
  | .subst q => s.modDom d fun m => { m with subst := if v = 0 then Tbl.erase m.subst (q % 12) else Tbl.set m.subst (q % 12) (v - 1) }
  | .budget q => s.modQuad (12 * d + q % 12) fun x => x.setBudget v
  | .snapClear c => snapClearOf s (.core (48 * d + c % 48))
  | .slot .. | .wait .. | .watch .. | .vcRec .. | .owner _ | .range .. | .pte .. | .bandHeader | .bandEntry _ | .topoHeader | .domRow _ | .coreByte _ | .fqprod
  | .meas .. | .counter _ | .quadCounter .. | .snapField .. | .hint .. | .filter .. | .glean .. => s

/-- What a read of a register or table of domain d gives. The topology table is read as the part's or, within the guest of the domain, as the
virtualised copy of R351. -/
def regRead (s : State) (d : Nat) (guest : Bool) (r : CtlReg) : Nat :=
  let m := s.dom d
  let core (c : Nat) := s.core (48 * d + c % 48)
  match r with
  | .ptroot => m.ptroot.toNat
  | .fqbase => m.fqbase.toNat
  | .fqsize => m.fqsize
  | .fqcons => m.fqcons.toNat
  | .fqprod => m.fqprod.toNat
  | .chanMap k w => mapWord m k w
  | .pctxbase => m.pctx.toNat
  | .lctxbase => m.lctx.toNat
  | .tvec c => (core c).tvec.toNat
  | .srg c w => (Tbl.getD (core c).srg (w % 3) 0).toNat
  | .nb c k => (Tbl.getD (core c).nb (k % 4) 0).toNat
  | .pos c => posOf s (48 * d + c % 48)
  | .bkpt c i => (Tbl.getD (core c).bkpt (i % 4) 0).toNat
  | .wpt c i => (Tbl.getD (core c).wpt (i % 2) 0).toNat
  | .guest => m.guest
  | .guestNo => m.guestNo
  | .guestNodes => m.guestNodes.toNat
  | .nodeRow n w => if !guest || nodeIn s d n then nodeWord s n w else 0
  | .route e => match namedDom s d e guest with | some p => routeByte s d p | none => 0
  | .retention => m.w
  | .subst q => ((Tbl.find? m.subst (q % 12)).map (· + 1)).getD 0
  | .budget q => let x := s.quad (12 * d + q % 12); x.ki % 256 * 2 ^ 24 + x.kp % 256 * 2 ^ 16 + x.budget % 65536
  | .snapClear c => if (core c).snap.valid then 1 else 0
  | .slot q n w => ((Tbl.getD (s.quad (12 * d + q % 12)).slots n []).getD w 0).toNat
  | .wait n w => waitWord (Tbl.getD m.wait n {}) n w
  | .watch n w => watchWord s d n w
  | .vcRec id w => vcWord d (Tbl.getD m.vcs id {}) w
  | .owner st => (Tbl.getD m.owner st 0).toNat
  | .range sid n w =>
    let g := Tbl.getD (s.sow sid).ranges n {}
    (match w with | 0 => g.w0 | 1 => g.w1 | 2 => g.w2 | _ => g.w3).toNat
  | .pte off k => match (readTables s d off).1[k]? with | some key => homePeek s d key 8 | none => 0
  | .bandHeader => Config.bandHeader
  | .bandEntry e => if e < 72 then Config.bandEntry e else 0
  | .topoHeader => topoHeader s d guest
  | .domRow e => match namedDom s d e guest with | some p => domRow s p guest | none => 0
  | .coreByte n => match namedDom s d (n / 48) guest with | some p => coreByte s (48 * p + n % 48) guest | none => 0
  | .meas n w => nb (Tbl.getD m.meas n 0).toNat (64 * w) 64
  | .counter n => (domCounters m).getD n 0
  | .quadCounter q n => (quadCounters (s.quad (12 * d + q % 12))).getD n 0
  | .snapField b n => snapField (snapOf s d b) n
  | .hint n k => match m.hints[n]? with | some h => if k = 0 then h.1 * 2 ^ 16 else h.2 | none => 0
  | .filter c n k => match (core c).filt[n]? with | some f => (match k with | 0 => f.page * 2 ^ 16 | 1 => f.tok | _ => f.union) | none => 0
  | .glean c n w => match (core c).glean[n]? with | some g => gleanWord s (48 * d + c % 48) g w | none => 0

/-- What a read of a table that stands in DRAM does there (R349). -/
def regTouch (s : State) (d : Nat) (r : CtlReg) : State :=
  match r with
  | .pte off k => match (readTables s d off).1[k]? with | some key => touchMiss s d key | none => s
  | _ => s

/-- A controller access message: a write with its status, or a read with its data. A domain whose controller has not booted does
not answer. -/
def ctlMessage (x : Input) (s : State) : State :=
  if !(s.dom x.a).booted then s
  else match x.wr with
    | some v => reply (regWrite s x.a x.reg v) x [0]
    | none => reply (regTouch s x.a x.reg) x [0, regRead s x.a x.flag x.reg]

/-- A port leaves service: it goes from the PORTS of every node row (R344), and the messages in flight on it are lost (R346). -/
def portFails (s : State) (p : Nat) : State :=
  if 64 ≤ p then s
  else
    let s := { s with ports := if s.ports.contains p then s.ports else s.ports ++ [p] }
    { s with
      nodes := (List.range 64).foldl (fun t n => Tbl.put t (2 * n + 1) (BitVec.ofNat 64 (portsIn s (nodeWord s n 1))) 0) s.nodes
      accs := Tbl.mapV (fun (a : Acc) => { a with lanes := a.lanes.map fun l => { l with sent := Sent.fail p l.sent } }) s.accs
      cmds := Tbl.mapV (fun (m : Cmd) => { m with sent := Sent.fail p m.sent }) s.cmds
      cores := Tbl.mapV (fun (c : Core) => { c with glean := c.glean.map fun g => { g with sent := Sent.fail p g.sent } }) s.cores
      reqs := Tbl.mapV (fun (r : Req) => { r with sent := Sent.fail p r.sent }) s.reqs
      teams := Tbl.mapV (fun (t : Team) => { t with fetchSent := t.fetchSent.filterMap fun f => (Sent.fail p (some f.2)).map (f.1, ·) }) s.teams }

/-! ## The debugger's reads (R348 to R350) -/

/-- n bytes from an IA on, as loads of .domain at their home read them (R348), one 1 KiB unit after another since each lies in a channel of its
own (R185): the state and the bytes, or the answer that ends the read: 1 and the kind of the fault; 2 and what a far frame's host gives. -/
def debugBytes (tc : Bool) (ext : Nat) : Nat → State → Nat → Nat → State × (List Nat ⊕ Nat)
  | 0, s, _, _ => (s, .inr 0)
  | fuel + 1, s, ia, n =>
    let home := iaHome ia
    let k := min n (1024 - ia % 1024)
    if n = 0 then (s, .inr 0)
    else if fleetBase ≤ iaOff ia then (s, .inl [1, 1])
    else match pageOf s home ia tc with
      | (s, .fault k) => (s, .inl [1, k])
      | (s, .far p) => (s, .inl (if permRead p then [2, ext] else [1, 5]))
      | (s, .local_ vc key p) =>
        if !permRead p then (s, .inl [1, 5])
        else
          let s := touchMiss (dirTouch (countUndef s home false vc) home (ia / 256)) home key
          match debugBytes tc ext fuel s (ia + k) (n - k) with
          | (t, .inl r) => (t, .inl r)
          | (t, .inr v) => (t, .inr (homePeek s home key k + 2 ^ (8 * k) * v))

/-- The debugger's read of memory, through the home's controller, with nothing allocated: 0 and the bytes, or why not. An IA of another node is
read there, and its answer is the event's. A home without a booted controller does not answer. -/
def debugRead (x : Input) (s : State) : State :=
  if iaNode x.a != 0 then reply s x [2, x.ext]
  else if 72 ≤ iaHome x.a then reply s x [1, 1]
  else if !(s.dom (iaHome x.a)).booted then s
  else match debugBytes x.flag x.ext (x.b / 1024 + 2) s x.a x.b with
    | (s, .inr v) => reply s x [0, v]
    | (s, .inl r) => reply s x r

/-- A fleeting tile as its bank holds it: BIRTH, EXP, the perform tick, its life at that tick, the bytes. -/
def debugTile (x : Input) (s : State) : State :=
  let t := tileAt s x.a x.b
  reply s x [t.birth, if t.exp then 1 else 0, s.tick, if tileLive s x.a x.b then 1 else 0, Mem.read s.fleet (4096 * tileKey x.a x.b) 4096]

/-- Whether firmware may place a layer in self-refresh (R349): no class-0 work queued, or bound in the domain, at its quads or its loam cores. -/
def mayRefresh (s : State) (d ch : Nat) : Bool :=
  decide (1000 ≤ (s.tick + 2 ^ 40 - Tbl.getD (s.dom d).acctick ch 0) % 2 ^ 40)
    && !(s.plots.any fun p => p.2.resident && p.2.cls == 0 && p.2.dom == d)
    && !(s.lplots.any fun p => p.2.cls == 0 && p.2.lk / 12 == d) && (Tbl.getD s.queues 0 []).isEmpty
    && (s.loam (12 * d + ch)).queue.isEmpty

def selfRefresh (x : Input) (s : State) : State :=
  if 72 ≤ x.a || 12 ≤ x.b || !mayRefresh s x.a x.b then s
  else s.modDom x.a fun m => { m with srefresh := m.srefresh ||| BitVec.twoPow 12 x.b }


/-- R72: A word is issued whose encoding names no instruction: an unassigned major opcode, an unlisted function value, or an E word that begins a group. It raises ILLEGAL_INSTR. -/
def execUnassignedOpcode (w : Word) (s : State) : Host.Outcome State Fault Refusal :=
  issue (form (.unassignedOpcode w)) noCheck id s

/-- R280: The wafer tick counter advances by one microsecond in every block. -/
def execTick (s : State) : Host.Outcome State Fault Refusal :=
  ev (fun _ s => tickEdge s) s

/-- R335: At power-good each domain controller verifies the boot image, extends measurements, tests and fences its resources and joins the wafer. Reads a, the domain; img; us and vs, the columns and channels to be fenced; flag, whether the upper bus failed. -/
def execPowerGood (s : State) : Host.Outcome State Fault Refusal :=
  ev boot s

/-- R335: 5 s after power-good, domains that did not complete are recorded down, and the lead domain is chosen and starts the dispatcher. Reads us, the route bytes, and vs, the node rows, that firmware records. -/
def execBootWindowClose (s : State) : Host.Outcome State Fault Refusal :=
  ev closeWindow s

/-- R341: At each tick edge the quad PI controller updates u, the frequency and the ratio, and adds to QENERGY and QTHROT. Reads a, the quad, and b, the power estimate P. -/
def execQuadPiTick (s : State) : Host.Outcome State Fault Refusal :=
  ev (fun x s =>
    if !(s.dom (x.a / 12)).booted || 864 ≤ x.a || (s.quad x.a).piAt = s.tick then s
    else s.modQuad x.a fun q => q.pi x.b (if classZeroIn s x.a then 1300 else 500) (Config.bandFX (x.a / 12)) s.tick) s

/-- R341: A raise of the converter ratio takes effect 2 µs after it was decided. Reads a, the quad. -/
def execRatioRaise (s : State) : Host.Outcome State Fault Refusal :=
  ev (fun x s => if 864 ≤ x.a then s else s.modQuad x.a fun q => q.raised s.tick) s

/-- R341: Firmware writes BUDGET, KP or KI, and the next tick uses the new values with u and e_prev kept. Reads a, the quad; c, the register; b, the capacity. -/
def execBudgetWrite (s : State) : Host.Outcome State Fault Refusal :=
  ev (fun x s => if 864 ≤ x.a then s else s.modQuad x.a fun q => { q.setBudget x.c with cap := x.b }) s

/-- R182: Firmware lowers the retention window W; a write that would raise it is ignored. Reads a, the domain, and c, the value. -/
def execRetentionWindowWrite (s : State) : Host.Outcome State Fault Refusal :=
  ev (fun x s => if 72 ≤ x.a then s else setRetention s x.a x.c) s

/-- R237: Firmware or system software writes a controller register or table that has no behaviour of its own. Reads a, the domain; reg; c, the value. -/
def execControllerRegisterWrite (s : State) : Host.Outcome State Fault Refusal :=
  ev (fun x s => if 72 ≤ x.a then s else regWrite s x.a x.reg x.c) s

/-- R345: A controller access message reads or writes a controller register or table. Reads node, dest and tag; a, the domain; reg; wr, the value of a write; flag, whether a read is made within the domain's guest. -/
def execControllerAccessMessage (s : State) : Host.Outcome State Fault Refusal :=
  ev (message ctlMessage) s

/-- R338: Given a nonce, the lead controller builds a doubly signed attestation report, or answers not ready. Reads node, dest and tag, and c, the nonce. -/
def execAttestationRequest (s : State) : Host.Outcome State Fault Refusal :=
  ev (message attest) s

/-- R344: A Selup port with a lane that fails training leaves service and is removed from the PORTS of every node row. Reads a, the port. -/
def execPortTrainingFailure (s : State) : Host.Outcome State Fault Refusal :=
  ev (fun x s => portFails s x.a) s

/-- R284: The debugger pulls the wafer-wide trip line. -/
def execDebuggerSnapshotTrip (s : State) : Host.Outcome State Fault Refusal :=
  ev (fun _ s => { s with trip := s.trip ++ [⟨2, 0, s.tick⟩] }) s

/-- R284: At the first tick edge at least two ticks after a trip, each block with an invalid set latches its counters; a valid set counts a miss. -/
def execSnapshotLatch (s : State) : Host.Outcome State Fault Refusal :=
  ev (fun _ s => latchAll s) s

/-- R283: The domain controller clears VALID of a snapshot set. Reads block. -/
def execSnapshotClear (s : State) : Host.Outcome State Fault Refusal :=
  ev (fun x s => snapClearOf s x.block) s

/-- R348: The debugger reads memory at the home as a load at .domain, with no allocation. Reads a, the IA; b, the number of bytes; flag, whether the walker answers from its copy; ext, what a far frame or another node answers. -/
def execDebugMemoryRead (s : State) : Host.Outcome State Fault Refusal :=
  ev debugRead s

/-- R350: The debugger reads a fleeting tile at its bank at one perform tick without changing its life. Reads a, the domain, and b, the tile. -/
def execDebugFleetingRead (s : State) : Host.Outcome State Fault Refusal :=
  ev debugTile s

/-- R349: After 1 ms with no access and no blocking work, firmware places a DRAM layer in self-refresh. Reads a, the domain, and b, the channel. -/
def execSelfRefreshEntry (s : State) : Host.Outcome State Fault Refusal :=
  ev selfRefresh s

end Sys2Proof.Machine
end

