-- ==== Sys2Proof/Machine/Uniform.lean ====
section
/-! DEFINITION. The uniform instructions that compute in registers: integer operations, immediates, compares, select,
predicate logic, FMT and TSTAT (R110 to R117, R119). -/
namespace Sys2Proof.Machine

/-- `op Dst, SrcA, SrcB` at the width of the E type (R112); the operation takes the width and its operands. -/
def u3 (i : Instr) (d a b : BitVec 8) (e : EPay) (op : Nat → Nat → Nat → Nat) (s : State) : Host.Outcome State Fault Refusal :=
  let f := form i
  let n := eRegs e
  issue f noCheck (uniExec f e fun t => uniRes d.toNat n (op (32 * n) (t.rdU a.toNat n) (t.rdU b.toNat n))) s

/-- A unary UALU operation (R113). -/
def u2 (i : Instr) (d a : BitVec 8) (e : EPay) (op : Nat → Nat → Nat) (s : State) : Host.Outcome State Fault Refusal :=
  let f := form i
  let n := eRegs e
  issue f noCheck (uniExec f e fun t => uniRes d.toNat n (op (32 * n) (t.rdU a.toNat n))) s

/-- A binary UALU operation: D op A, or A op X with an E word (R74, R113). -/
def u2x (i : Instr) (d a : BitVec 8) (e : EPay) (op : Nat → Nat → Nat → Nat) (s : State) : Host.Outcome State Fault Refusal :=
  let f := form i
  let n := eRegs e
  issue f noCheck (uniExec f e fun t =>
    let (x, y) := if e.isNone then (t.rdU d.toNat n, t.rdU a.toNat n) else (t.rdU a.toNat n, t.rdU (eXop e) n)
    uniRes d.toNat n (op (32 * n) x y)) s

/-- A format D instruction: the operation takes the width, the old D and imm16 (R114). -/
def uimm (i : Instr) (d : BitVec 8) (k : BitVec 16) (e : EPay) (op : Nat → Nat → Nat → Nat) (s : State) : Host.Outcome State Fault Refusal :=
  let f := form i
  let n := eRegs e
  issue f noCheck (uniExec f e fun t => uniRes d.toNat n (op (32 * n) (t.rdU d.toNat n) k.toNat)) s

/-- A format C instruction: the operation takes the width, A and imm8 (R114). -/
def uimm8 (i : Instr) (d a k : BitVec 8) (e : EPay) (op : Nat → Nat → Nat → Nat) (s : State) : Host.Outcome State Fault Refusal :=
  let f := form i
  let n := eRegs e
  issue f noCheck (uniExec f e fun t => uniRes d.toNat n (op (32 * n) (t.rdU a.toNat n) k.toNat)) s

/-- A compare: it writes a uniform predicate and leaves lat.u (R115). -/
def ucompare (i : Instr) (k : BitVec 5) (p : BitVec 3) (a : BitVec 8) (e : EPay) (second : Team → Nat → Nat → Nat) (s : State) :
    Host.Outcome State Fault Refusal :=
  let f := form i
  let n := eRegs e
  issue f noCheck (uniExec f e fun t =>
    [(.q p.toNat, if icond (32 * n) k.toNat (t.rdU a.toNat n) (second t n (32 * n)) then 1 else 0)]) s

/-- The second operand of UCMPI: imm8 signed under the signed conditions and zero-extended under the unsigned (R115). -/
def ucmpImm (k : Nat) (i : BitVec 8) (w : Nat) : Nat := if k < 6 then ux w i.toInt else i.toNat

/-- Predicate logic (R117). -/
def upred (i : Instr) (d : BitVec 3) (e : EPay) (r : Team → Bool) (s : State) : Host.Outcome State Fault Refusal :=
  let f := form i
  issue f noCheck (uniExec f e fun t => [(.q d.toNat, if r t then 1 else 0)]) s

/-- A write of FMT or TSTAT that later groups see (R119): it lands one cycle on, so after every word of its group. -/
def ufmtW (i : Instr) (a : BitVec 8) (e : EPay) (sl : Slot) (s : State) : Host.Outcome State Fault Refusal :=
  let f := form i
  issue f noCheck (fun s =>
    let t := s.ct.view s.cur.cyc
    if t.guardQ e then s.modCt fun t' => { t' with
      -- it lands before the flags of its own group, so that those are ORed into it (R84)
      pend := t'.pend.filter (fun p => decide (p.grp < t'.grp))
        ++ { grp := t'.grp, due := some (s.cur.cyc + 1), ws := [(sl, t.rdU a.toNat 1)] }
        :: t'.pend.filter fun p => !decide (p.grp < t'.grp) }
    else s) s

/-- R112: Uniform add. -/
def execUadd (d : BitVec 8) (a : BitVec 8) (b : BitVec 8) (e : EPay) (s : State) : Host.Outcome State Fault Refusal :=
  u3 (.uadd d a b e) d a b e (fun _ a b => a + b) s

/-- R112: Uniform subtract. -/
def execUsub (d : BitVec 8) (a : BitVec 8) (b : BitVec 8) (e : EPay) (s : State) : Host.Outcome State Fault Refusal :=
  u3 (.usub d a b e) d a b e (fun w a b => a + (2 ^ w - b)) s

/-- R112: Uniform multiply, low half. -/
def execUmul (d : BitVec 8) (a : BitVec 8) (b : BitVec 8) (e : EPay) (s : State) : Host.Outcome State Fault Refusal :=
  u3 (.umul d a b e) d a b e (fun _ a b => a * b) s

/-- R112: Signed high half of the product. -/
def execUmulhs (d : BitVec 8) (a : BitVec 8) (b : BitVec 8) (e : EPay) (s : State) : Host.Outcome State Fault Refusal :=
  u3 (.umulhs d a b e) d a b e (fun w a b => mulhS w a b) s

/-- R112: Unsigned high half of the product. -/
def execUmulhu (d : BitVec 8) (a : BitVec 8) (b : BitVec 8) (e : EPay) (s : State) : Host.Outcome State Fault Refusal :=
  u3 (.umulhu d a b e) d a b e (fun w a b => mulhU w a b) s

/-- R112: Signed divide; interlocked. -/
def execUdivs (d : BitVec 8) (a : BitVec 8) (b : BitVec 8) (e : EPay) (s : State) : Host.Outcome State Fault Refusal :=
  u3 (.udivs d a b e) d a b e (fun w a b => divS w a b) s

/-- R112: Unsigned divide; interlocked. -/
def execUdivu (d : BitVec 8) (a : BitVec 8) (b : BitVec 8) (e : EPay) (s : State) : Host.Outcome State Fault Refusal :=
  u3 (.udivu d a b e) d a b e (fun w a b => divU w a b) s

/-- R112: Signed remainder; interlocked. -/
def execUrems (d : BitVec 8) (a : BitVec 8) (b : BitVec 8) (e : EPay) (s : State) : Host.Outcome State Fault Refusal :=
  u3 (.urems d a b e) d a b e (fun w a b => remS w a b) s

/-- R112: Unsigned remainder; interlocked. -/
def execUremu (d : BitVec 8) (a : BitVec 8) (b : BitVec 8) (e : EPay) (s : State) : Host.Outcome State Fault Refusal :=
  u3 (.uremu d a b e) d a b e (fun w a b => remU w a b) s

/-- R112: Uniform AND. -/
def execUand (d : BitVec 8) (a : BitVec 8) (b : BitVec 8) (e : EPay) (s : State) : Host.Outcome State Fault Refusal :=
  u3 (.uand d a b e) d a b e (fun _ a b => a &&& b) s

/-- R112: Uniform OR. -/
def execUor (d : BitVec 8) (a : BitVec 8) (b : BitVec 8) (e : EPay) (s : State) : Host.Outcome State Fault Refusal :=
  u3 (.uor d a b e) d a b e (fun _ a b => a ||| b) s

/-- R112: Uniform XOR. -/
def execUxor (d : BitVec 8) (a : BitVec 8) (b : BitVec 8) (e : EPay) (s : State) : Host.Outcome State Fault Refusal :=
  u3 (.uxor d a b e) d a b e (fun _ a b => a ^^^ b) s

/-- R112: Uniform shift left. -/
def execUshl (d : BitVec 8) (a : BitVec 8) (b : BitVec 8) (e : EPay) (s : State) : Host.Outcome State Fault Refusal :=
  u3 (.ushl d a b e) d a b e (fun w a b => a * 2 ^ (b % w)) s

/-- R112: Uniform logical shift right. -/
def execUshr (d : BitVec 8) (a : BitVec 8) (b : BitVec 8) (e : EPay) (s : State) : Host.Outcome State Fault Refusal :=
  u3 (.ushr d a b e) d a b e (fun w a b => a / 2 ^ (b % w)) s

/-- R112: Uniform arithmetic shift right. -/
def execUsar (d : BitVec 8) (a : BitVec 8) (b : BitVec 8) (e : EPay) (s : State) : Host.Outcome State Fault Refusal :=
  u3 (.usar d a b e) d a b e (fun w a b => sarU w a (b % w)) s

/-- R113: Uniform move. -/
def execUaluMov (d : BitVec 8) (a : BitVec 8) (e : EPay) (s : State) : Host.Outcome State Fault Refusal :=
  u2 (.ualuMov d a e) d a e (fun _ x => x) s

/-- R113: Uniform NOT. -/
def execUaluNot (d : BitVec 8) (a : BitVec 8) (e : EPay) (s : State) : Host.Outcome State Fault Refusal :=
  u2 (.ualuNot d a e) d a e (fun w x => 2 ^ w - 1 - x) s

/-- R113: Uniform negate. -/
def execUaluNeg (d : BitVec 8) (a : BitVec 8) (e : EPay) (s : State) : Host.Outcome State Fault Refusal :=
  u2 (.ualuNeg d a e) d a e (fun w x => 2 ^ w - x) s

/-- R113: Uniform absolute value. -/
def execUaluAbs (d : BitVec 8) (a : BitVec 8) (e : EPay) (s : State) : Host.Outcome State Fault Refusal :=
  u2 (.ualuAbs d a e) d a e (fun w x => absU w x) s

/-- R113: Uniform population count. -/
def execUaluPopc (d : BitVec 8) (a : BitVec 8) (e : EPay) (s : State) : Host.Outcome State Fault Refusal :=
  u2 (.ualuPopc d a e) d a e (fun w x => popc x w) s

/-- R113: Uniform count of leading zeros. -/
def execUaluClz (d : BitVec 8) (a : BitVec 8) (e : EPay) (s : State) : Host.Outcome State Fault Refusal :=
  u2 (.ualuClz d a e) d a e (fun w x => clz x w) s

/-- R113: Uniform bit reverse. -/
def execUaluBrev (d : BitVec 8) (a : BitVec 8) (e : EPay) (s : State) : Host.Outcome State Fault Refusal :=
  u2 (.ualuBrev d a e) d a e (fun w x => brev x w) s

/-- R113: Uniform signed minimum. -/
def execUaluMins (d : BitVec 8) (a : BitVec 8) (e : EPay) (s : State) : Host.Outcome State Fault Refusal :=
  u2x (.ualuMins d a e) d a e (fun w a b => minS w a b) s

/-- R113: Uniform signed maximum. -/
def execUaluMaxs (d : BitVec 8) (a : BitVec 8) (e : EPay) (s : State) : Host.Outcome State Fault Refusal :=
  u2x (.ualuMaxs d a e) d a e (fun w a b => maxS w a b) s

/-- R113: Uniform unsigned minimum. -/
def execUaluMinu (d : BitVec 8) (a : BitVec 8) (e : EPay) (s : State) : Host.Outcome State Fault Refusal :=
  u2x (.ualuMinu d a e) d a e (fun _ a b => min a b) s

/-- R113: Uniform unsigned maximum. -/
def execUaluMaxu (d : BitVec 8) (a : BitVec 8) (e : EPay) (s : State) : Host.Outcome State Fault Refusal :=
  u2x (.ualuMaxu d a e) d a e (fun _ a b => max a b) s

/-- R113: Uniform AND NOT. -/
def execUaluAndn (d : BitVec 8) (a : BitVec 8) (e : EPay) (s : State) : Host.Outcome State Fault Refusal :=
  u2x (.ualuAndn d a e) d a e (fun w a b => a &&& (2 ^ w - 1 - b)) s

/-- R114: Writes the sign-extended imm16. -/
def execMovi (d : BitVec 8) (i : BitVec 16) (e : EPay) (s : State) : Host.Outcome State Fault Refusal :=
  uimm (.movi d i e) d i e (fun w _ k => ux w (sx 16 k)) s

/-- R114: Sets the upper 16 bits of a uniform register. -/
def execMovhi (d : BitVec 8) (i : BitVec 16) (e : EPay) (s : State) : Host.Outcome State Fault Refusal :=
  uimm (.movhi d i e) d i e (fun _ x k => k * 2 ^ 16 + x % 2 ^ 16) s

/-- R114: Adds the sign-extended imm16 to D. -/
def execAddi (d : BitVec 8) (i : BitVec 16) (e : EPay) (s : State) : Host.Outcome State Fault Refusal :=
  uimm (.addi d i e) d i e (fun w x k => x + ux w (sx 16 k)) s

/-- R114: Shift left by an immediate. -/
def execUshli (d : BitVec 8) (a : BitVec 8) (i : BitVec 8) (e : EPay) (s : State) : Host.Outcome State Fault Refusal :=
  uimm8 (.ushli d a i e) d a i e (fun _ x k => x * 2 ^ k) s

/-- R114: Logical shift right by an immediate. -/
def execUshri (d : BitVec 8) (a : BitVec 8) (i : BitVec 8) (e : EPay) (s : State) : Host.Outcome State Fault Refusal :=
  uimm8 (.ushri d a i e) d a i e (fun _ x k => x / 2 ^ k) s

/-- R114: Arithmetic shift right by an immediate. -/
def execUsari (d : BitVec 8) (a : BitVec 8) (i : BitVec 8) (e : EPay) (s : State) : Host.Outcome State Fault Refusal :=
  uimm8 (.usari d a i e) d a i e (fun w x k => sarU w x k) s

/-- R114: AND with the zero-extended imm8. -/
def execUandi (d : BitVec 8) (a : BitVec 8) (i : BitVec 8) (e : EPay) (s : State) : Host.Outcome State Fault Refusal :=
  uimm8 (.uandi d a i e) d a i e (fun _ x k => x &&& k) s

/-- R115: Uniform integer compare into q. -/
def execUcmp (k : BitVec 5) (p : BitVec 3) (a : BitVec 8) (b : BitVec 8) (e : EPay) (s : State) : Host.Outcome State Fault Refusal :=
  ucompare (.ucmp k p a b e) k p a e (fun t n _ => t.rdU b.toNat n) s

/-- R115: Uniform compare against imm8 into q. -/
def execUcmpi (k : BitVec 5) (p : BitVec 3) (a : BitVec 8) (i : BitVec 8) (e : EPay) (s : State) : Host.Outcome State Fault Refusal :=
  ucompare (.ucmpi k p a i e) k p a e (fun _ _ w => ucmpImm k.toNat i w) s

/-- R116: Selects A or B by its guard; it requires an E word. -/
def execUsel (d : BitVec 8) (a : BitVec 8) (b : BitVec 8) (e : EPay) (s : State) : Host.Outcome State Fault Refusal :=
  let f := form (.usel d a b e)
  let n := eRegs e
  issue f noCheck (fun s =>
    let t := s.ct.view s.cur.cyc
    -- the guard chooses and never withholds the write
    result s f.lat s.cur.cyc (uniRes d.toNat n (t.rdU (if t.guardQ e then a else b).toNat n))) s

/-- R117: qD := qA AND qB. -/
def execUpredAnd (d : BitVec 3) (a : BitVec 3) (b : BitVec 3) (e : EPay) (s : State) : Host.Outcome State Fault Refusal :=
  upred (.upredAnd d a b e) d e (fun t => t.rdQ a.toNat && t.rdQ b.toNat) s

/-- R117: qD := qA OR qB. -/
def execUpredOr (d : BitVec 3) (a : BitVec 3) (b : BitVec 3) (e : EPay) (s : State) : Host.Outcome State Fault Refusal :=
  upred (.upredOr d a b e) d e (fun t => t.rdQ a.toNat || t.rdQ b.toNat) s

/-- R117: qD := qA XOR qB. -/
def execUpredXor (d : BitVec 3) (a : BitVec 3) (b : BitVec 3) (e : EPay) (s : State) : Host.Outcome State Fault Refusal :=
  upred (.upredXor d a b e) d e (fun t => t.rdQ a.toNat != t.rdQ b.toNat) s

/-- R117: qD := NOT qA. -/
def execUpredNot (d : BitVec 3) (a : BitVec 3) (e : EPay) (s : State) : Host.Outcome State Fault Refusal :=
  upred (.upredNot d a e) d e (fun t => !t.rdQ a.toNat) s

/-- R117: qD := qA. -/
def execUpredMov (d : BitVec 3) (a : BitVec 3) (e : EPay) (s : State) : Host.Outcome State Fault Refusal :=
  upred (.upredMov d a e) d e (fun t => t.rdQ a.toNat) s

/-- R119: Writes FMT[4:0]. -/
def execSetfmt (a : BitVec 8) (e : EPay) (s : State) : Host.Outcome State Fault Refusal :=
  ufmtW (.setfmt a e) a e .fmt s

/-- R119: Writes TSTAT[7:0]. -/
def execSetst (a : BitVec 8) (e : EPay) (s : State) : Host.Outcome State Fault Refusal :=
  ufmtW (.setst a e) a e .stat s

/-- R119: Reads FMT into a uniform register. -/
def execGetfmt (d : BitVec 8) (e : EPay) (s : State) : Host.Outcome State Fault Refusal :=
  let f := form (.getfmt d e)
  issue f noCheck (uniExec f e fun t => uniRes d.toNat 1 t.fmt.toNat) s

/-- R119: Reads TSTAT into a uniform register. -/
def execGetst (d : BitVec 8) (e : EPay) (s : State) : Host.Outcome State Fault Refusal :=
  let f := form (.getst d e)
  issue f noCheck (uniExec f e fun t => uniRes d.toNat 1 t.tstat.toNat) s

end Sys2Proof.Machine
end

