-- ==== Sys2Proof/Machine/Dispatch.lean ====
section
/-! DEFINITION. One arm for each instruction and event: a direct call of its meaning. -/
namespace Sys2Proof.Machine

def exec (i : Instr) (s : State) : Host.Outcome State Fault Refusal :=
  match i with
  | .vadd d a b e => Sys2Proof.Machine.execVadd d a b e s
  | .vaddBu d a b e => Sys2Proof.Machine.execVaddBu d a b e s
  | .vsub d a b e => Sys2Proof.Machine.execVsub d a b e s
  | .vsubBu d a b e => Sys2Proof.Machine.execVsubBu d a b e s
  | .vmul d a b e => Sys2Proof.Machine.execVmul d a b e s
  | .vmulBu d a b e => Sys2Proof.Machine.execVmulBu d a b e s
  | .vmin d a b e => Sys2Proof.Machine.execVmin d a b e s
  | .vminBu d a b e => Sys2Proof.Machine.execVminBu d a b e s
  | .vfma d a b e => Sys2Proof.Machine.execVfma d a b e s
  | .vfmaBu d a b e => Sys2Proof.Machine.execVfmaBu d a b e s
  | .vmax d a b e => Sys2Proof.Machine.execVmax d a b e s
  | .vmaxBu d a b e => Sys2Proof.Machine.execVmaxBu d a b e s
  | .vfcmp k p a b e => Sys2Proof.Machine.execVfcmp k p a b e s
  | .vfcmpBu k p a b e => Sys2Proof.Machine.execVfcmpBu k p a b e s
  | .vdot2 d a b e => Sys2Proof.Machine.execVdot2 d a b e s
  | .vdot2Bu d a b e => Sys2Proof.Machine.execVdot2Bu d a b e s
  | .viadd d a b e => Sys2Proof.Machine.execViadd d a b e s
  | .viaddBu d a b e => Sys2Proof.Machine.execViaddBu d a b e s
  | .visub d a b e => Sys2Proof.Machine.execVisub d a b e s
  | .visubBu d a b e => Sys2Proof.Machine.execVisubBu d a b e s
  | .vimul d a b e => Sys2Proof.Machine.execVimul d a b e s
  | .vimulBu d a b e => Sys2Proof.Machine.execVimulBu d a b e s
  | .vialuAnd d a u e => Sys2Proof.Machine.execVialuAnd d a u e s
  | .vialuOr d a u e => Sys2Proof.Machine.execVialuOr d a u e s
  | .vialuXor d a u e => Sys2Proof.Machine.execVialuXor d a u e s
  | .vialuAndn d a u e => Sys2Proof.Machine.execVialuAndn d a u e s
  | .vialuShl d a u e => Sys2Proof.Machine.execVialuShl d a u e s
  | .vialuShr d a u e => Sys2Proof.Machine.execVialuShr d a u e s
  | .vialuSar d a u e => Sys2Proof.Machine.execVialuSar d a u e s
  | .vialuMins d a u e => Sys2Proof.Machine.execVialuMins d a u e s
  | .vialuMaxs d a u e => Sys2Proof.Machine.execVialuMaxs d a u e s
  | .vialuMinu d a u e => Sys2Proof.Machine.execVialuMinu d a u e s
  | .vialuMaxu d a u e => Sys2Proof.Machine.execVialuMaxu d a u e s
  | .vialuMulhs d a u e => Sys2Proof.Machine.execVialuMulhs d a u e s
  | .vialuMulhu d a u e => Sys2Proof.Machine.execVialuMulhu d a u e s
  | .vialuDivs d a u e => Sys2Proof.Machine.execVialuDivs d a u e s
  | .vialuDivu d a u e => Sys2Proof.Machine.execVialuDivu d a u e s
  | .vialuRems d a u e => Sys2Proof.Machine.execVialuRems d a u e s
  | .vialuRemu d a u e => Sys2Proof.Machine.execVialuRemu d a u e s
  | .vialuBfe d a u e => Sys2Proof.Machine.execVialuBfe d a u e s
  | .vialuBfi d a u e => Sys2Proof.Machine.execVialuBfi d a u e s
  | .vialuCmp p a u k e => Sys2Proof.Machine.execVialuCmp p a u k e s
  | .viunMov d a u e => Sys2Proof.Machine.execViunMov d a u e s
  | .viunNot d a u e => Sys2Proof.Machine.execViunNot d a u e s
  | .viunNeg d a u e => Sys2Proof.Machine.execViunNeg d a u e s
  | .viunAbs d a u e => Sys2Proof.Machine.execViunAbs d a u e s
  | .viunPopc d a u e => Sys2Proof.Machine.execViunPopc d a u e s
  | .viunClz d a u e => Sys2Proof.Machine.execViunClz d a u e s
  | .viunBrev d a u e => Sys2Proof.Machine.execViunBrev d a u e s
  | .vfunRcp d a t e => Sys2Proof.Machine.execVfunRcp d a t e s
  | .vfunRsqrt d a t e => Sys2Proof.Machine.execVfunRsqrt d a t e s
  | .vfunSqrt d a t e => Sys2Proof.Machine.execVfunSqrt d a t e s
  | .vfunExp2 d a t e => Sys2Proof.Machine.execVfunExp2 d a t e s
  | .vfunLog2 d a t e => Sys2Proof.Machine.execVfunLog2 d a t e s
  | .vfunAbs d a t e => Sys2Proof.Machine.execVfunAbs d a t e s
  | .vfunNeg d a t e => Sys2Proof.Machine.execVfunNeg d a t e s
  | .vfunMov d a t e => Sys2Proof.Machine.execVfunMov d a t e s
  | .vcvt d a y x e => Sys2Proof.Machine.execVcvt d a y x e s
  | .vshuf d a b e => Sys2Proof.Machine.execVshuf d a b e s
  | .vshufBu d a b e => Sys2Proof.Machine.execVshufBu d a b e s
  | .vredAdd d a e => Sys2Proof.Machine.execVredAdd d a e s
  | .vredMins d a e => Sys2Proof.Machine.execVredMins d a e s
  | .vredMaxs d a e => Sys2Proof.Machine.execVredMaxs d a e s
  | .vredMinu d a e => Sys2Proof.Machine.execVredMinu d a e s
  | .vredMaxu d a e => Sys2Proof.Machine.execVredMaxu d a e s
  | .vredAnd d a e => Sys2Proof.Machine.execVredAnd d a e s
  | .vredOr d a e => Sys2Proof.Machine.execVredOr d a e s
  | .vredXor d a e => Sys2Proof.Machine.execVredXor d a e s
  | .vredFaddF32 d a e => Sys2Proof.Machine.execVredFaddF32 d a e s
  | .vredFminF32 d a e => Sys2Proof.Machine.execVredFminF32 d a e s
  | .vredFmaxF32 d a e => Sys2Proof.Machine.execVredFmaxF32 d a e s
  | .vrdiB32 d a e => Sys2Proof.Machine.execVrdiB32 d a e s
  | .vrdiB64 d a e => Sys2Proof.Machine.execVrdiB64 d a e s
  | .vwriB32 d a e => Sys2Proof.Machine.execVwriB32 d a e s
  | .vwriB64 d a e => Sys2Proof.Machine.execVwriB64 d a e s
  | .uadd d a b e => Sys2Proof.Machine.execUadd d a b e s
  | .usub d a b e => Sys2Proof.Machine.execUsub d a b e s
  | .umul d a b e => Sys2Proof.Machine.execUmul d a b e s
  | .umulhs d a b e => Sys2Proof.Machine.execUmulhs d a b e s
  | .umulhu d a b e => Sys2Proof.Machine.execUmulhu d a b e s
  | .udivs d a b e => Sys2Proof.Machine.execUdivs d a b e s
  | .udivu d a b e => Sys2Proof.Machine.execUdivu d a b e s
  | .urems d a b e => Sys2Proof.Machine.execUrems d a b e s
  | .uremu d a b e => Sys2Proof.Machine.execUremu d a b e s
  | .uand d a b e => Sys2Proof.Machine.execUand d a b e s
  | .uor d a b e => Sys2Proof.Machine.execUor d a b e s
  | .uxor d a b e => Sys2Proof.Machine.execUxor d a b e s
  | .ushl d a b e => Sys2Proof.Machine.execUshl d a b e s
  | .ushr d a b e => Sys2Proof.Machine.execUshr d a b e s
  | .usar d a b e => Sys2Proof.Machine.execUsar d a b e s
  | .ualuMov d a e => Sys2Proof.Machine.execUaluMov d a e s
  | .ualuNot d a e => Sys2Proof.Machine.execUaluNot d a e s
  | .ualuNeg d a e => Sys2Proof.Machine.execUaluNeg d a e s
  | .ualuAbs d a e => Sys2Proof.Machine.execUaluAbs d a e s
  | .ualuPopc d a e => Sys2Proof.Machine.execUaluPopc d a e s
  | .ualuClz d a e => Sys2Proof.Machine.execUaluClz d a e s
  | .ualuBrev d a e => Sys2Proof.Machine.execUaluBrev d a e s
  | .ualuMins d a e => Sys2Proof.Machine.execUaluMins d a e s
  | .ualuMaxs d a e => Sys2Proof.Machine.execUaluMaxs d a e s
  | .ualuMinu d a e => Sys2Proof.Machine.execUaluMinu d a e s
  | .ualuMaxu d a e => Sys2Proof.Machine.execUaluMaxu d a e s
  | .ualuAndn d a e => Sys2Proof.Machine.execUaluAndn d a e s
  | .movi d j e => Sys2Proof.Machine.execMovi d j e s
  | .movhi d j e => Sys2Proof.Machine.execMovhi d j e s
  | .addi d j e => Sys2Proof.Machine.execAddi d j e s
  | .ucmp k p a b e => Sys2Proof.Machine.execUcmp k p a b e s
  | .ucmpi k p a j e => Sys2Proof.Machine.execUcmpi k p a j e s
  | .usel d a b e => Sys2Proof.Machine.execUsel d a b e s
  | .ushli d a j e => Sys2Proof.Machine.execUshli d a j e s
  | .ushri d a j e => Sys2Proof.Machine.execUshri d a j e s
  | .usari d a j e => Sys2Proof.Machine.execUsari d a j e s
  | .uandi d a j e => Sys2Proof.Machine.execUandi d a j e s
  | .upredAnd d a b e => Sys2Proof.Machine.execUpredAnd d a b e s
  | .upredOr d a b e => Sys2Proof.Machine.execUpredOr d a b e s
  | .upredXor d a b e => Sys2Proof.Machine.execUpredXor d a b e s
  | .upredNot d a e => Sys2Proof.Machine.execUpredNot d a e s
  | .upredMov d a e => Sys2Proof.Machine.execUpredMov d a e s
  | .ldcB32 d j e => Sys2Proof.Machine.execLdcB32 d j e s
  | .ldcB64 d j e => Sys2Proof.Machine.execLdcB64 d j e s
  | .setfmt a e => Sys2Proof.Machine.execSetfmt a e s
  | .getfmt d e => Sys2Proof.Machine.execGetfmt d e s
  | .getst d e => Sys2Proof.Machine.execGetst d e s
  | .setst a e => Sys2Proof.Machine.execSetst a e s
  | .ldB8 d a q e => Sys2Proof.Machine.execLdB8 d a q e s
  | .ldB32 d a q e => Sys2Proof.Machine.execLdB32 d a q e s
  | .ldB16 d a q e => Sys2Proof.Machine.execLdB16 d a q e s
  | .ldB64 d a q e => Sys2Proof.Machine.execLdB64 d a q e s
  | .ldB128 d a q e => Sys2Proof.Machine.execLdB128 d a q e s
  | .ldS8 d a q e => Sys2Proof.Machine.execLdS8 d a q e s
  | .ldS16 d a q e => Sys2Proof.Machine.execLdS16 d a q e s
  | .uldB32 d a q e => Sys2Proof.Machine.execUldB32 d a q e s
  | .stB8 d a q e => Sys2Proof.Machine.execStB8 d a q e s
  | .stB32 d a q e => Sys2Proof.Machine.execStB32 d a q e s
  | .stB16 d a q e => Sys2Proof.Machine.execStB16 d a q e s
  | .stB64 d a q e => Sys2Proof.Machine.execStB64 d a q e s
  | .stB128 d a q e => Sys2Proof.Machine.execStB128 d a q e s
  | .ustB32 d a q e => Sys2Proof.Machine.execUstB32 d a q e s
  | .uldB64 d a q e => Sys2Proof.Machine.execUldB64 d a q e s
  | .ustB64 d a q e => Sys2Proof.Machine.execUstB64 d a q e s
  | .atomB32 d a q e => Sys2Proof.Machine.execAtomB32 d a q e s
  | .atomB64 d a q e => Sys2Proof.Machine.execAtomB64 d a q e s
  | .fatom d a q e => Sys2Proof.Machine.execFatom d a q e s
  | .uatomB32 d a q e => Sys2Proof.Machine.execUatomB32 d a q e s
  | .fence o sc => Sys2Proof.Machine.execFence o sc s
  | .prefetchL1 a m e => Sys2Proof.Machine.execPrefetchL1 a m e s
  | .prefetchVc a m e => Sys2Proof.Machine.execPrefetchVc a m e s
  | .fld d a q e => Sys2Proof.Machine.execFld d a q e s
  | .fst d a q e => Sys2Proof.Machine.execFst d a q e s
  | .fbirth d a => Sys2Proof.Machine.execFbirth d a s
  | .frenew d a => Sys2Proof.Machine.execFrenew d a s
  | .flife d a => Sys2Proof.Machine.execFlife d a s
  | .tshape d a => Sys2Proof.Machine.execTshape d a s
  | .tzero d a => Sys2Proof.Machine.execTzero d a s
  | .tld d a q => Sys2Proof.Machine.execTld d a q s
  | .tst d a q => Sys2Proof.Machine.execTst d a q s
  | .tfetch d a r sc l => Sys2Proof.Machine.execTfetch d a r sc l s
  | .uldB128 d a q e => Sys2Proof.Machine.execUldB128 d a q e s
  | .ustB128 d a q e => Sys2Proof.Machine.execUstB128 d a q e s
  | .bra n q j => Sys2Proof.Machine.execBra n q j s
  | .call d j => Sys2Proof.Machine.execCall d j s
  | .jmp d a => Sys2Proof.Machine.execJmp d a s
  | .ret a => Sys2Proof.Machine.execRet a s
  | .brv n q j e => Sys2Proof.Machine.execBrv n q j e s
  | .qredAny d a => Sys2Proof.Machine.execQredAny d a s
  | .qredAll d a => Sys2Proof.Machine.execQredAll d a s
  | .waitc d a => Sys2Proof.Machine.execWaitc d a s
  | .trap j => Sys2Proof.Machine.execTrap j s
  | .waita d a o => Sys2Proof.Machine.execWaita d a o s
  | .wakea d a o => Sys2Proof.Machine.execWakea d a o s
  | .barinit d a => Sys2Proof.Machine.execBarinit d a s
  | .bararm d a => Sys2Proof.Machine.execBararm d a s
  | .barwait d a => Sys2Proof.Machine.execBarwait d a s
  | .csrr d j => Sys2Proof.Machine.execCsrr d j s
  | .csrw d j => Sys2Proof.Machine.execCsrw d j s
  | .snap a => Sys2Proof.Machine.execSnap a s
  | .tmma d a b e => Sys2Proof.Machine.execTmma d a b e s
  | .tmmaf d a b e => Sys2Proof.Machine.execTmmaf d a b e s
  | .copy d a r e sc m n f => Sys2Proof.Machine.execCopy d a r e sc m n f s
  | .copyg d a r e sc m n f => Sys2Proof.Machine.execCopyg d a r e sc m n f s
  | .copyb d a r sc m => Sys2Proof.Machine.execCopyb d a r sc m s
  | .iredM d a => Sys2Proof.Machine.execIredM d a s
  | .iredC d a => Sys2Proof.Machine.execIredC d a s
  | .sow d a r sc => Sys2Proof.Machine.execSow d a r sc s
  | .vclean d a => Sys2Proof.Machine.execVclean d a s
  | .vinval d a => Sys2Proof.Machine.execVinval d a s
  | .vcflush d a => Sys2Proof.Machine.execVcflush d a s
  | .vcquery d a => Sys2Proof.Machine.execVcquery d a s
  | .vcdef d a => Sys2Proof.Machine.execVcdef d a s
  | .vcresize d a => Sys2Proof.Machine.execVcresize d a s
  | .rgset d a => Sys2Proof.Machine.execRgset d a s
  | .ptinv d a => Sys2Proof.Machine.execPtinv d a s
  | .replay d a => Sys2Proof.Machine.execReplay d a s
  | .loamVadd d a b k t x => Sys2Proof.Machine.execLoamVadd d a b k t x s
  | .loamVsub d a b k t x => Sys2Proof.Machine.execLoamVsub d a b k t x s
  | .loamVmul d a b k t x => Sys2Proof.Machine.execLoamVmul d a b k t x s
  | .loamVfma d a b k t x => Sys2Proof.Machine.execLoamVfma d a b k t x s
  | .loamVmin d a b k t x => Sys2Proof.Machine.execLoamVmin d a b k t x s
  | .loamVmax d a b k t x => Sys2Proof.Machine.execLoamVmax d a b k t x s
  | .loamVcvt d a k t sc => Sys2Proof.Machine.execLoamVcvt d a k t sc s
  | .loamVredAdd d a k t => Sys2Proof.Machine.execLoamVredAdd d a k t s
  | .loamVredMin d a k t => Sys2Proof.Machine.execLoamVredMin d a k t s
  | .loamVredMax d a k t => Sys2Proof.Machine.execLoamVredMax d a k t s
  | .loamVcmp d a b k t c x => Sys2Proof.Machine.execLoamVcmp d a b k t c x s
  | .loamVsel d a b k x => Sys2Proof.Machine.execLoamVsel d a b k x s
  | .loamVmovx d a k => Sys2Proof.Machine.execLoamVmovx d a k s
  | .loamVlane d k => Sys2Proof.Machine.execLoamVlane d k s
  | .loamKand d a b => Sys2Proof.Machine.execLoamKand d a b s
  | .loamKor d a b => Sys2Proof.Machine.execLoamKor d a b s
  | .loamKxor d a b => Sys2Proof.Machine.execLoamKxor d a b s
  | .loamKandn d a b => Sys2Proof.Machine.execLoamKandn d a b s
  | .loamKnot d a => Sys2Proof.Machine.execLoamKnot d a s
  | .loamKfromx d a => Sys2Proof.Machine.execLoamKfromx d a s
  | .loamKtox d a => Sys2Proof.Machine.execLoamKtox d a s
  | .loamSaluAdd d a b => Sys2Proof.Machine.execLoamSaluAdd d a b s
  | .loamSaluSub d a b => Sys2Proof.Machine.execLoamSaluSub d a b s
  | .loamSaluMul d a b => Sys2Proof.Machine.execLoamSaluMul d a b s
  | .loamSaluAnd d a b => Sys2Proof.Machine.execLoamSaluAnd d a b s
  | .loamSaluOr d a b => Sys2Proof.Machine.execLoamSaluOr d a b s
  | .loamSaluXor d a b => Sys2Proof.Machine.execLoamSaluXor d a b s
  | .loamSaluShl d a b => Sys2Proof.Machine.execLoamSaluShl d a b s
  | .loamSaluShr d a b => Sys2Proof.Machine.execLoamSaluShr d a b s
  | .loamSaluSar d a b => Sys2Proof.Machine.execLoamSaluSar d a b s
  | .loamSaluMin d a b => Sys2Proof.Machine.execLoamSaluMin d a b s
  | .loamSaluMax d a b => Sys2Proof.Machine.execLoamSaluMax d a b s
  | .loamSaluSlt d a b => Sys2Proof.Machine.execLoamSaluSlt d a b s
  | .loamSaddi d a j => Sys2Proof.Machine.execLoamSaddi d a j s
  | .loamMovi d j => Sys2Proof.Machine.execLoamMovi d j s
  | .loamLdk d j => Sys2Proof.Machine.execLoamLdk d j s
  | .loamVld d a k j => Sys2Proof.Machine.execLoamVld d a k j s
  | .loamVst d a k j => Sys2Proof.Machine.execLoamVst d a k j s
  | .loamVgather d a b k sc => Sys2Proof.Machine.execLoamVgather d a b k sc s
  | .loamBld d a k j => Sys2Proof.Machine.execLoamBld d a k j s
  | .loamBst d a k j => Sys2Proof.Machine.execLoamBst d a k j s
  | .loamSld d a j => Sys2Proof.Machine.execLoamSld d a j s
  | .loamSst d a j => Sys2Proof.Machine.execLoamSst d a j s
  | .loamBr j => Sys2Proof.Machine.execLoamBr j s
  | .loamBcc c a j => Sys2Proof.Machine.execLoamBcc c a j s
  | .loamLoop a j => Sys2Proof.Machine.execLoamLoop a j s
  | .unassignedOpcode w => Sys2Proof.Machine.execUnassignedOpcode w s
  | .loamUnassignedOpcode w => Sys2Proof.Machine.execLoamUnassignedOpcode w s
  | .hostLaunchMessage => Sys2Proof.Machine.execHostLaunchMessage s
  | .bindPlot => Sys2Proof.Machine.execBindPlot s
  | .hintFallbackExpiry => Sys2Proof.Machine.execHintFallbackExpiry s
  | .coresidentFallbackExpiry => Sys2Proof.Machine.execCoresidentFallbackExpiry s
  | .waitCounterPoll => Sys2Proof.Machine.execWaitCounterPoll s
  | .plotSave => Sys2Proof.Machine.execPlotSave s
  | .resumePlot => Sys2Proof.Machine.execResumePlot s
  | .debugResumePlot => Sys2Proof.Machine.execDebugResumePlot s
  | .plotRetire => Sys2Proof.Machine.execPlotRetire s
  | .sowingComplete => Sys2Proof.Machine.execSowingComplete s
  | .minShareOwed => Sys2Proof.Machine.execMinShareOwed s
  | .loadResponse => Sys2Proof.Machine.execLoadResponse s
  | .storeAck => Sys2Proof.Machine.execStoreAck s
  | .memoryRequestAtHome => Sys2Proof.Machine.execMemoryRequestAtHome s
  | .invalidationArrival => Sys2Proof.Machine.execInvalidationArrival s
  | .invalidationApply => Sys2Proof.Machine.execInvalidationApply s
  | .invalidationAckAtHome => Sys2Proof.Machine.execInvalidationAckAtHome s
  | .atomicAtHome => Sys2Proof.Machine.execAtomicAtHome s
  | .fleetingAccessAtBank => Sys2Proof.Machine.execFleetingAccessAtBank s
  | .fleetingExpiry => Sys2Proof.Machine.execFleetingExpiry s
  | .tick => Sys2Proof.Machine.execTick s
  | .faultReport => Sys2Proof.Machine.execFaultReport s
  | .faultFilterRetry => Sys2Proof.Machine.execFaultFilterRetry s
  | .faultStageRetry => Sys2Proof.Machine.execFaultStageRetry s
  | .faultRecordWrite => Sys2Proof.Machine.execFaultRecordWrite s
  | .fqconsWrite => Sys2Proof.Machine.execFqconsWrite s
  | .gleanDrain => Sys2Proof.Machine.execGleanDrain s
  | .refusalResponse => Sys2Proof.Machine.execRefusalResponse s
  | .remoteTimeoutExpiry => Sys2Proof.Machine.execRemoteTimeoutExpiry s
  | .responsePreciseTrap => Sys2Proof.Machine.execResponsePreciseTrap s
  | .inboundAccess => Sys2Proof.Machine.execInboundAccess s
  | .inboundMovingTimeout => Sys2Proof.Machine.execInboundMovingTimeout s
  | .replayMessage => Sys2Proof.Machine.execReplayMessage s
  | .controllerAccessMessage => Sys2Proof.Machine.execControllerAccessMessage s
  | .attestationRequest => Sys2Proof.Machine.execAttestationRequest s
  | .matrixEntryStart => Sys2Proof.Machine.execMatrixEntryStart s
  | .tmmafOperandFetch => Sys2Proof.Machine.execTmmafOperandFetch s
  | .matrixCheck => Sys2Proof.Machine.execMatrixCheck s
  | .copyCommandStart => Sys2Proof.Machine.execCopyCommandStart s
  | .copyCommandCredit => Sys2Proof.Machine.execCopyCommandCredit s
  | .barrierCredit => Sys2Proof.Machine.execBarrierCredit s
  | .tileTransferCredit => Sys2Proof.Machine.execTileTransferCredit s
  | .iredCommandCredit => Sys2Proof.Machine.execIredCommandCredit s
  | .netbarPhaseComplete => Sys2Proof.Machine.execNetbarPhaseComplete s
  | .waitaCompare => Sys2Proof.Machine.execWaitaCompare s
  | .vcSweepStep => Sys2Proof.Machine.execVcSweepStep s
  | .vcSweepEnd => Sys2Proof.Machine.execVcSweepEnd s
  | .columnFence => Sys2Proof.Machine.execColumnFence s
  | .channelFence => Sys2Proof.Machine.execChannelFence s
  | .memoryFence => Sys2Proof.Machine.execMemoryFence s
  | .powerGood => Sys2Proof.Machine.execPowerGood s
  | .bootWindowClose => Sys2Proof.Machine.execBootWindowClose s
  | .quadPiTick => Sys2Proof.Machine.execQuadPiTick s
  | .ratioRaise => Sys2Proof.Machine.execRatioRaise s
  | .reservationRequest => Sys2Proof.Machine.execReservationRequest s
  | .reservationGrant => Sys2Proof.Machine.execReservationGrant s
  | .budgetWrite => Sys2Proof.Machine.execBudgetWrite s
  | .retentionWindowWrite => Sys2Proof.Machine.execRetentionWindowWrite s
  | .controllerRegisterWrite => Sys2Proof.Machine.execControllerRegisterWrite s
  | .portTrainingFailure => Sys2Proof.Machine.execPortTrainingFailure s
  | .debuggerSnapshotTrip => Sys2Proof.Machine.execDebuggerSnapshotTrip s
  | .snapshotLatch => Sys2Proof.Machine.execSnapshotLatch s
  | .snapshotClear => Sys2Proof.Machine.execSnapshotClear s
  | .debugMemoryRead => Sys2Proof.Machine.execDebugMemoryRead s
  | .debugFleetingRead => Sys2Proof.Machine.execDebugFleetingRead s
  | .selfRefreshEntry => Sys2Proof.Machine.execSelfRefreshEntry s
  | .loamDispatch => Sys2Proof.Machine.execLoamDispatch s
  | .loamBind => Sys2Proof.Machine.execLoamBind s
  | .loamResume => Sys2Proof.Machine.execLoamResume s
  | .nop => Sys2Proof.Machine.execNop s
  | .endTeam => Sys2Proof.Machine.execEndTeam s
  | .join => Sys2Proof.Machine.execJoin s
  | .yield => Sys2Proof.Machine.execYield s
  | .pbar => Sys2Proof.Machine.execPbar s
  | .dbar => Sys2Proof.Machine.execDbar s
  | .wbar => Sys2Proof.Machine.execWbar s
  | .eret => Sys2Proof.Machine.execEret s
  | .halt => Sys2Proof.Machine.execHalt s
  | .loamSync => Sys2Proof.Machine.execLoamSync s
  | .loamYield => Sys2Proof.Machine.execLoamYield s
  | .loamDone => Sys2Proof.Machine.execLoamDone s
  | .fixedLatencyWrite => Sys2Proof.Machine.execFixedLatencyWrite s
  | .interlockedWrite => Sys2Proof.Machine.execInterlockedWrite s
  | .tzeroCredit => Sys2Proof.Machine.execTzeroCredit s
  | .vcmComplete => Sys2Proof.Machine.execVcmComplete s
  | .tableInstructionStatus => Sys2Proof.Machine.execTableInstructionStatus s
  | .launchStatus => Sys2Proof.Machine.execLaunchStatus s
  | .loamAccessComplete => Sys2Proof.Machine.execLoamAccessComplete s

end Sys2Proof.Machine
end

