-- ==== Sys2Proof/Machine/Group.lean ====
section
/-! DEFINITION. The issue of a group: the arbiter, the checks and the effects of its words, and what ends it (R27, R28, R39 to R42,
R59 to R67, R120, R121, R281, R317, R322, R342). -/
namespace Sys2Proof.Machine

/-- What follows a step that answers a next state. -/
def Answer.bind (o : Host.Outcome State Fault Refusal) (f : State → Host.Outcome State Fault Refusal) : Host.Outcome State Fault Refusal :=
  match o with
  | .next s => f s
  | .fault r => .fault r
  | .refused r => .refused r

/-! ## The checks of a group (R67) -/

/-- The state in which one word of a group is checked or has its effect. -/
def aim (s : State) (gs : List GWord) (g : GWord) (ph : Phase) : State :=
  { s with cur := { s.cur with word := g.word.toNat, addr := g.addr, off := g.off, v1 := onV1 gs g.off, phase := ph } }

/-- The verdict of the checks of one word. -/
def checkWord (s : State) (gs : List GWord) (g : GWord) : Verdict :=
  match exec g.instr (aim s gs g .check) with
  | .next s => s.cur.verd
  | _ => .go

/-- The place of a verdict in the order in which one is taken: R67 first, then a hold, then the checks of the entries, then a
wait (log entry 14). -/
def Verdict.rank (v : Verdict) : Nat :=
  match v with
  | .trap 0x01 _ => 0
  | .trap 0x06 _ => 1
  | .hold => 2
  | .trap 0x05 _ => 3
  | .trap 0x07 _ => 4
  | .trap 0x10 _ => 5
  | .trap 0x11 _ => 6
  | .trap 0x13 _ => 7
  | .trap 0x14 _ => 8
  | .trap 0x08 _ => 9
  | .trap 0x1C _ => 10
  | .trap 0x18 _ => 11
  | .trap _ _ => 12
  | .park _ => 13
  | .go => 14

/-- The verdict on a group: the first in order; of two alike, that of the earlier word. -/
def groupVerdict (s : State) (gs : List GWord) : Verdict :=
  (gs.map (checkWord s gs)).foldl (fun b v => if v.rank < b.rank then v else b) .go

/-! ## The effect of a group (R61, R120, R121) -/

/-- The effects of words in a list. -/
def runWords (all : List GWord) : List GWord → State → Host.Outcome State Fault Refusal
  | [], s => .next s
  | g :: gs, s => Answer.bind (exec g.instr (aim s all g .effect)) (runWords all gs)

/-- The words in the order in which their effects are made (R61, R270): a read of a CSR first, and then a BARWAIT, which must see no change that
their own group makes; then a write of a CSR, which comes before a BARARM; any other word of the U pipe last, since a transfer, a trap or a
change of the mask comes after the group. -/
def effectOrder (gs : List GWord) : List GWord :=
  let early (g : GWord) : Nat := match g.instr with | .csrr .. => 0 | .barwait .. => 1 | .csrw .. => 2 | _ => if g.pipe == some .U then 4 else 3
  (List.range 5).flatMap fun n => gs.filter (early · == n)

/-- The end of a group: the trap of a BARWAIT that met a fault (R274); a BARWAIT that waits on a completion register tests again what a write
of its group has left there; a destination that names no instruction word traps after the group (R52, R120), one whose page faults is checked
once that can be read; a taken transfer delays its destination (R121). t is the cycle in which the last pass issued. -/
def endGroup (s : State) (t : Nat) : State :=
  match s.cur.barFlt with
  | some (a, cw, c) => barTrap s s.cur.tk cw c a
  | none =>
    let s := ccTest s s.cur.tk
    if !s.cur.moved then s
    else if targetBad s s.cur.tk s.ct.pc then afterGroup s (.trap 0x04 s.cur.addr s.ct.pc)
    else s.modCt fun x => { x with
      via := if x.via.isNone && (codeFault s s.cur.tk x.pc).isSome then some (s.cur.addr, false) else x.via
      redir := if x.last.isSome then t + 3 else x.redir }

/-- A group issues. -/
def issueGroup (s : State) (ws : List FWord) (gs : List GWord) : Host.Outcome State Fault Refusal :=
  let tk := s.cur.tk
  let t := s.ct
  let cyc := s.cur.cyc
  let costs := gs.map fun g => wordCycles t cyc s.cur.cpp g.instr
  let occ := costs.foldl (fun m c => max m c.1) 1
  let lastPass := cyc + costs.foldl (fun m c => max m c.2) 0
  let hint := ws.any (·.yield)
  let s := s.modCt fun t => { t with pc := s.cur.link, via := none, entered := false, fetchSent := [], last := some (lastPass + 1), redir := 0, since := cyc, owed := false }
  let s := s.modCore t.core fun c => { c with
    grp := c.grp + 1, busy := Tbl.set c.busy t.part (cyc + occ)
    yielded := if hint then Tbl.set c.yielded t.part (tk + 1) else Tbl.erase c.yielded t.part }
  let s := useResv s (quadOf t.core) (.vector tk) (lastPass + s.cur.cpp)
  Answer.bind (runWords gs (effectOrder gs) s) fun s => .next (endGroup s lastPass)

/-- A trap or a wait that the verdict gives instead. -/
def notIssued (s : State) (v : Verdict) : State := settle s v

/-! ## One attempt to issue (R28, R41, R320, R322, R342) -/

/-- The fetch of a group meets a page that makes the team wait: it enters fault park under the page's token. -/
def fetchWait (s : State) (tk ia kind : Nat) : Option State :=
  match waitMerge s (iaHome ia) ia kind tyExec (domOf (s.team tk).core) true (teamFirst s tk 0) with
  | (s, some tok) => some (faultPark (s.modTeam tk fun t => { t with fetchTok := some (tok + 2 ^ 32 * iaHome ia) }) tk)
  | (_, none) => none

/-- The fetch of a packet leaves for another node or a far frame (R346). One that was lost is sent again once 100 µs have passed: R326 pairs no
trap with a fetch (log entry 25). -/
def fetchAway (s : State) (tk ia : Nat) : Option State :=
  match (s.team tk).fetchSent.find? (·.1 == ia / 16) with
  | some f => if expired s (some f.2) then some (s.modTeam tk fun t => { t with fetchSent := (ia / 16, sendOut s ia 0) :: t.fetchSent.filter (·.1 != ia / 16) }) else none
  | none => some (s.modTeam tk fun t => { t with fetchSent := (ia / 16, sendOut s ia 0) :: t.fetchSent })

/-- Whether a group with a large pass count has the units it needs (R342). -/
def reserved (s : State) (t : Team) (tk : Nat) (gs : List GWord) : Bool :=
  decide (groupPasses t gs < 8) || (s.quad (quadOf t.core)).resv.any fun r => r.who == .vector tk && r.granted && r.till.isNone

/-- The reason a broken group reports: its code, or, of several rules broken, one left free (log entry 18). -/
def reasonOf (s : State) (rs : List Nat) : Nat × State :=
  match rs with
  | [r] => (r, s)
  | _ => (rs.getD (Config.groupReason s.freeN % rs.length) 0, { s with freeN := s.freeN + 1 })

/-- The state in which a team's group is looked at in a cycle: results due are written, its unobserved window elements show a value (R81), and the group has its number. -/
def openGroup (s : State) (tk cyc : Nat) (x : Input) : State :=
  let t := s.team tk
  let s := reveal (land (advance s t.core cyc) tk cyc) tk
  let s := s.modTeam tk fun t => { t with grp := t.grp + 1, tvecWas := none }
  { s with cur := { arg := x, tk := tk, gpc := t.pc, cyc := cyc } }

/-- An attempt of a team to issue the group at its PC; none where the group is held. -/
def attemptAt (s : State) (tk : Nat) : Option (Host.Outcome State Fault Refusal) :=
  let t := s.ct
  match breakAt s t t.pc with
  | some i => some (.next (takeTrap s 0x20 i))
  | none => match fetchFrom s tk 4 t.pc true with
    | .trap c v e => some (.next (trapEntry s tk c v (e.getD t.pc)))
    | .wait ia k => (fetchWait s tk ia k).map .next
    | .away ia => (fetchAway s tk ia).map .next
    | .ok ws bad =>
      let gs := parseGroup ws 0
      let link := match ws.getLast? with | some w => seqAfter s tk w.addr fillerFuel | none => t.pc
      let cpp := gs.foldl (fun m g => max m (form g.instr).cpp) 1
      let s := { fetchTouch s tk ws with cur := { s.cur with link := link, cpp := cpp } }
      match groupReasons bad gs with
      | [] => match groupVerdict s gs with
        | .go => if reserved s t tk gs then some (issueGroup s ws gs) else none
        | .hold => none
        | v => some (.next (notIssued s v))
      | rs => let (r, s) := reasonOf s rs; some (.next (takeTrap s 0x02 r))

/-- An attempt of a team to issue its next group in a cycle; none where the group is held. -/
def attempt (s : State) (tk cyc : Nat) (x : Input) : Option (Host.Outcome State Fault Refusal) :=
  let s := openGroup s tk cyc x
  match startOf s tk with
  | .bad w a => some (.next (trapEntry s tk 0x04 w a))
  | .wait ia k => (fetchWait s tk ia k).map .next
  | .at_ va =>
    let s := s.modCt fun t => { t with pc := va, via := none }
    attemptAt { s with cur := { s.cur with gpc := va } } tk

/-! ## The arbiter (R28, R39, R41, R42) -/

/-- Whether a team competes for issue (R39, R315). -/
def competes (s : State) (core p : Nat) (tk : Nat) (t : Team) : Bool :=
  t.core == core && t.part == p && t.st == .ready && t.fetchTok.isNone && t.traps.all (·.held) && (s.plot (pidOf tk)).st == .bound

/-- The stall count of a team's next group, as far as its fetch reaches a word (R61). -/
def nextStall (s : State) (tk : Nat) (x : Input) : Nat :=
  let s := { s with cur := { s.cur with arg := x } }
  match startOf s tk with
  | .at_ va => (match fetchFrom s tk 4 va true with | .ok (w :: _) _ => w.stall | _ => 0)
  | _ => 0

/-- The first cycle in which a team's next group may issue (R28, R121). -/
def earliest (s : State) (core p : Nat) (tk : Nat) (t : Team) (x : Input) : Nat :=
  let c := s.core core
  let own := match t.last with | some l => max (l + nextStall s tk x) t.redir | none => t.redir
  max (max c.cyc (Tbl.getD c.busy p 0)) own

/-- A team that may issue, with what orders it: the cycle, whether it is owed its share and since when, whether it yields, its
class, when its plot was bound, its number. -/
structure Cand where
  tk : Nat
  cyc : Nat
  owed : Bool
  since : Nat
  yields : Bool
  cls : Nat
  seq : Nat

/-- Whether the arbiter prefers one candidate to another (R41, R42). Plots bound at one moment rank alike, and then the lower team number
goes first; of two such teams of one number, the one of the lower plot number (log entry 25). -/
def Cand.before (a b : Cand) : Bool :=
  if a.cyc != b.cyc then decide (a.cyc < b.cyc)
  else if a.owed != b.owed then a.owed
  else if a.owed && a.since != b.since then decide (a.since < b.since)
  else if a.yields != b.yields then b.yields
  else if a.cls != b.cls then decide (a.cls < b.cls)
  else if a.seq != b.seq then decide (a.seq < b.seq)
  else if a.tk % 16 != b.tk % 16 then decide (a.tk % 16 < b.tk % 16)
  else decide (a.tk ≤ b.tk)

def candOf (s : State) (core p : Nat) (x : Input) (tk : Nat) (t : Team) : Cand :=
  let pl := s.plot (pidOf tk)
  let cyc := earliest s core p tk t x
  ⟨tk, cyc, t.owed || decide (t.since + 255 ≤ cyc), t.since, Tbl.getD (s.core core).yielded p 0 == tk + 1, pl.cls, pl.seq⟩

/-- A candidate put in its place. -/
def insertCand (a : Cand) : List Cand → List Cand
  | [] => [a]
  | b :: r => if a.before b then a :: b :: r else b :: insertCand a r

/-- The candidates of a partition, in the order in which the arbiter would pick them. -/
def candidatesOf (s : State) (core p : Nat) (x : Input) : List Cand :=
  (s.teams.filter fun e => competes s core p e.1 e.2).foldr (fun e l => insertCand (candOf s core p x e.1 e.2) l) []

/-- The first candidate whose group is not held acts; where every group is held, nothing issues. -/
def firstIssue (s : State) (x : Input) : List Cand → Host.Outcome State Fault Refusal
  | [] => .next s
  | c :: r => match attempt s c.tk c.cyc x with
    | some o => o
    | none => firstIssue s x r

/-- One issue of a partition. -/
def partTurn (s : State) (core p : Nat) (x : Input) : Host.Outcome State Fault Refusal :=
  firstIssue s x (candidatesOf s core p x)

/-! ## Loam issue and events -/

/-- One issue of a loam core: the word at the running plot's PC; past the code image the plot stops (R311). -/
def loamTurn (s : State) (lk : Nat) : Host.Outcome State Fault Refusal :=
  match (s.loam lk).run with
  | none => .next s
  | some pid =>
    let p := s.lplot pid
    let s := { s with cur := { lk := lk } }
    if p.len ≤ p.pc then .next (if loamHolds s pid then s else loamStop s pid 2 0 0 false)
    else exec (decodeLoam (BitVec.ofNat 32 (Mem.read p.code p.pc 4))) s

/-- An event happens; only a step that no word names is one. -/
def eventTurn (s : State) (i : Instr) (x : Input) : Host.Outcome State Fault Refusal :=
  if i.isEvent then exec i { s with cur := { arg := x } } else .next s

/-- The turn that comes next, and the state without it: a latch that is due, as a tick edge has made it, before any other; with none given, the
tick edge. -/
def nextTurn (s : State) : Turn × State :=
  if latchDue s then (.event .snapshotLatch {}, s)
  else match s.sched with
    | t :: r => (t, { s with sched := r })
    | [] => (.event .tick {}, s)

def runTurn (t : Turn) (s : State) : Host.Outcome State Fault Refusal :=
  match t with
  | .part core p x => partTurn s core p x
  | .loam lk => loamTurn s lk
  | .event i x => eventTurn s i x

/-! ## Placing an instruction where the next step fetches it -/

/-- A domain whose channel map 0 is as at reset, and whose walker starts at frame 0. -/
def plainDom (d : Dom) : Dom :=
  { d with ptroot := BitVec.ofNat 64 (2 ^ 63), maps := [], lines := [], tcache := [], chF := 0, lineMemF := false }

/-- The number of byte x of a frame under map 0. -/
def frameKey (d : Dom) (frame x : Nat) : Nat := match place d 0 frame x with | some (ch, la) => dramKey 0 ch la | none => 0

/-- The tables of domain 0 for one page: level 1 at frame 0, level 2 in its upper half, level 3 at frame 1, and the page in frame 2
with every permission and no virtual cache (R244, R245). -/
def onePage (m : Mem) (d : Dom) : Mem :=
  let m := Mem.write m (frameKey d 0 0) (2 ^ 63 + 128) 8
  let m := Mem.write m (frameKey d 0 32768) (2 ^ 63 + 256) 8
  Mem.write m (frameKey d 1 0) (2 ^ 63 + 2 ^ 60 + 63 * 2 ^ 52 + 15 * 2 ^ 48 + 2) 8

/-- The words placed for a core: a packet whose control word is 0, and, for two words, the rest of it. -/
def placeCore (s : State) (ws : List Word) : State :=
  let pid := 2 ^ 32 * s.nextSid
  let tk := 16 * pid
  let word (i : Nat) : Nat := (ws.getD i 0).toNat
  let d := plainDom (s.dom 0)
  let hdr := (List.range 16).map fun _ => (0 : Word)
  let t : Team := { pc := 4, mask := 1, regs := 240, unif := 160, tiles := 16, nacc := 8, wsize := 65536 }
  { s with
    sched := .part 0 0 {} :: s.sched
    trip := if latchDue s then [] else s.trip
    dram := Mem.write (onePage s.dram d) (frameKey d 2 0) (2 ^ 32 * (word 0 + 2 ^ 32 * word 1)) 12
    doms := Tbl.set s.doms 0 d
    teams := Tbl.set s.teams tk t
    plots := Tbl.set s.plots pid { sow := s.nextSid, no := 0 }
    sows := Tbl.set s.sows s.nextSid { words := [], hdr := hdr, ranges := [(0, { w0 := BitVec.ofNat 64 (2 ^ 63), w3 := 1 })] } }

/-- The word placed for a loam core: the code of a plot that runs there. -/
def placeLoam (s : State) (w : Word) : State :=
  let pid := 2 ^ 32 * s.nextSid
  { s with
    sched := .loam 0 :: s.sched
    trip := if latchDue s then [] else s.trip
    lplots := Tbl.set s.lplots pid { sow := s.nextSid, lk := 0, cls := 0, lanes := 1, lmem := 0, len := 4, code := Mem.write [] 0 w.toNat 4, bound := true }
    loams := Tbl.set s.loams 0 { queue := [pid], run := some pid }
    sows := Tbl.set s.sows s.nextSid { words := [] } }

end Sys2Proof.Machine
end

