-- ==== Sys2Proof/Machine/Step.lean ====
section
/-! DEFINITION. One step of the machine: the next turn of the schedule; and the placing of an instruction where it is fetched. -/
namespace Sys2Proof.Machine

/-- One step: the turn that comes next (log entry 1). -/
def step (s : State) : Host.Outcome State Fault Refusal := runTurn (nextTurn s).1 (nextTurn s).2

/-- The state in which the next step fetches and runs the instruction that decodeTableWord reads from the same bits: a bound team,
or a running loam plot, whose code holds its words, and the turn in which it issues (log entry 3). -/
def State.withFetchWord (s : State) (nbits w : Nat) : State :=
  match decodeTableWord nbits w with
  | some i => if i.isLoam then placeLoam s (BitVec.ofNat 32 w) else placeCore s [BitVec.ofNat 32 w, BitVec.ofNat 32 (w / 2 ^ 32)]
  | none => s

end Sys2Proof.Machine
end

