-- ==== Sys2Proof/Safety.lean ====
section
/-! DEFINITION. The terms in which statements are made: when a word issues, what the tables of the spec say each operation
computes, and which parts of a state a step leaves alone. Nothing of the machine is defined by these. -/
namespace Sys2Proof.Safety
open Sys2Proof.Machine

/-! ## When a word issues -/

/-- A word of the main set issues normally, taken alone or as a word of a group whose checks have been made: its encoding is legal (R55 to R58, R72), the team may run it, each
operand is legal (R57, R58), no interlocked result it reads is still to come (R64), no register it reads has a write
outstanding that the scoreboard watches (R66), and no fence holds it (R200). -/
structure Clear (i : Instr) (s : State) : Prop where
  issues  : s.cur.phase ≠ .check
  formed  : (form i).ill = false
  mode    : (form i).priv = true → s.ct.priv = true
  legal   : ∀ o ∈ (form i).ops, o.legal s.ct = true
  settled : interlockHold (form i) s = false
  written : underrun (form i) s = false
  ordered : (form i).mem = true → fenceHold s = false

/-- The team of a word as the word's first pass reads it. -/
abbrev now (s : State) : Team := s.ct.view s.cur.cyc

/-! ## The integer operations of the tables, at width w -/

/-- R93: the quotient, truncated toward zero; all ones for a zero divisor. -/
def sdivW {w : Nat} (x y : BitVec w) : BitVec w := if y = 0 then BitVec.allOnes w else BitVec.ofInt w (x.toInt.tdiv y.toInt)
def udivW {w : Nat} (x y : BitVec w) : BitVec w := if y = 0 then BitVec.allOnes w else x / y
/-- R93: the remainder; the dividend for a zero divisor. -/
def sremW {w : Nat} (x y : BitVec w) : BitVec w := if y = 0 then x else BitVec.ofInt w (x.toInt.tmod y.toInt)
def uremW {w : Nat} (x y : BitVec w) : BitVec w := if y = 0 then x else x % y
/-- The high half of the signed product: floor of the product over 2^w. -/
def mulhsW {w : Nat} (x y : BitVec w) : BitVec w := BitVec.ofInt w (x.toInt * y.toInt / 2 ^ w)
def mulhuW {w : Nat} (x y : BitVec w) : BitVec w := BitVec.ofNat w (x.toNat * y.toNat / 2 ^ w)
def minsW {w : Nat} (x y : BitVec w) : BitVec w := if x.sle y then x else y
def maxsW {w : Nat} (x y : BitVec w) : BitVec w := if x.sle y then y else x
def minuW {w : Nat} (x y : BitVec w) : BitVec w := if x ≤ y then x else y
def maxuW {w : Nat} (x y : BitVec w) : BitVec w := if x ≤ y then y else x
def absW {w : Nat} (x : BitVec w) : BitVec w := BitVec.ofInt w x.toInt.natAbs
/-- The number of 1 bits. -/
def popW {w : Nat} (x : BitVec w) : BitVec w := BitVec.ofNat w ((List.range w).countP fun i => x.getLsbD i)
/-- The number of leading 0 bits: w less the place above the highest 1 bit. -/
def clzW {w : Nat} (x : BitVec w) : BitVec w := BitVec.ofNat w (w - (if x.toNat = 0 then 0 else Nat.log2 x.toNat + 1))

/-- The integer conditions of R73. -/
def condW (k : Nat) {w : Nat} (x y : BitVec w) : Bool :=
  match k with
  | 0 => x == y
  | 1 => x != y
  | 2 => x.slt y
  | 3 => x.sle y
  | 4 => y.slt x
  | 5 => y.sle x
  | 6 => x.ult y
  | 7 => x.ule y
  | 8 => y.ult x
  | _ => y.ule x

/-! ## Uniform operations (R112 to R117) -/

/-- A uniform instruction of two sources: its fields, its latency (none: interlocked, R64), and what it computes. -/
structure Binary where
  d   : BitVec 8
  a   : BitVec 8
  b   : BitVec 8
  e   : EPay
  lat : Option Nat
  op  : (w : Nat) → BitVec w → BitVec w → BitVec w

/-- The table of R112. -/
def uniformBinary (i : Instr) : Option Binary :=
  match i with
  | .uadd d a b e => some ⟨d, a, b, e, some 1, fun _ x y => x + y⟩
  | .usub d a b e => some ⟨d, a, b, e, some 1, fun _ x y => x - y⟩
  | .umul d a b e => some ⟨d, a, b, e, some 3, fun _ x y => x * y⟩
  | .umulhs d a b e => some ⟨d, a, b, e, some 3, fun _ x y => mulhsW x y⟩
  | .umulhu d a b e => some ⟨d, a, b, e, some 3, fun _ x y => mulhuW x y⟩
  | .udivs d a b e => some ⟨d, a, b, e, none, fun _ x y => sdivW x y⟩
  | .udivu d a b e => some ⟨d, a, b, e, none, fun _ x y => udivW x y⟩
  | .urems d a b e => some ⟨d, a, b, e, none, fun _ x y => sremW x y⟩
  | .uremu d a b e => some ⟨d, a, b, e, none, fun _ x y => uremW x y⟩
  | .uand d a b e => some ⟨d, a, b, e, some 1, fun _ x y => x &&& y⟩
  | .uor d a b e => some ⟨d, a, b, e, some 1, fun _ x y => x ||| y⟩
  | .uxor d a b e => some ⟨d, a, b, e, some 1, fun _ x y => x ^^^ y⟩
  | .ushl d a b e => some ⟨d, a, b, e, some 1, fun w x y => x <<< (y.toNat % w)⟩
  | .ushr d a b e => some ⟨d, a, b, e, some 1, fun w x y => x >>> (y.toNat % w)⟩
  | .usar d a b e => some ⟨d, a, b, e, some 1, fun w x y => x.sshiftRight (y.toNat % w)⟩
  | _ => none

/-- A UALU instruction of R113: its fields, and one operand (left) or two (right). -/
structure Alu where
  d  : BitVec 8
  a  : BitVec 8
  e  : EPay
  op : ((w : Nat) → BitVec w → BitVec w) ⊕ ((w : Nat) → BitVec w → BitVec w → BitVec w)

/-- The table of R113. -/
def uniformAlu (i : Instr) : Option Alu :=
  match i with
  | .ualuMov d a e => some ⟨d, a, e, .inl fun _ x => x⟩
  | .ualuNot d a e => some ⟨d, a, e, .inl fun _ x => ~~~x⟩
  | .ualuNeg d a e => some ⟨d, a, e, .inl fun _ x => -x⟩
  | .ualuAbs d a e => some ⟨d, a, e, .inl fun _ x => absW x⟩
  | .ualuPopc d a e => some ⟨d, a, e, .inl fun _ x => popW x⟩
  | .ualuClz d a e => some ⟨d, a, e, .inl fun _ x => clzW x⟩
  | .ualuBrev d a e => some ⟨d, a, e, .inl fun _ x => x.reverse⟩
  | .ualuMins d a e => some ⟨d, a, e, .inr fun _ x y => minsW x y⟩
  | .ualuMaxs d a e => some ⟨d, a, e, .inr fun _ x y => maxsW x y⟩
  | .ualuMinu d a e => some ⟨d, a, e, .inr fun _ x y => minuW x y⟩
  | .ualuMaxu d a e => some ⟨d, a, e, .inr fun _ x y => maxuW x y⟩
  | .ualuAndn d a e => some ⟨d, a, e, .inr fun _ x y => x &&& ~~~y⟩
  | _ => none

/-- What a UALU instruction computes at width w from the registers of a team (R74, R113). -/
def aluValue (u : Alu) (t : Team) : BitVec (eWidth u.e) :=
  let src (v : Nat) : BitVec (eWidth u.e) := BitVec.ofNat _ (t.rdU v (eRegs u.e))
  match u.op with
  | .inl f => f _ (src u.a.toNat)
  | .inr f => if u.e.isNone then f _ (src u.d.toNat) (src u.a.toNat) else f _ (src u.a.toNat) (src (eXop u.e))

/-- An immediate instruction of R114: its destination, the register it reads, its E word, and what it computes. -/
structure Immediate where
  d  : BitVec 8
  a  : BitVec 8
  e  : EPay
  op : (w : Nat) → BitVec w → BitVec w

/-- The table of R114. -/
def uniformImmediate (i : Instr) : Option Immediate :=
  match i with
  | .movi d k e => some ⟨d, d, e, fun w _ => k.signExtend w⟩
  | .movhi d k e => some ⟨d, d, e, fun w x => k.zeroExtend w <<< 16 ||| (x.truncate 16).zeroExtend w⟩
  | .addi d k e => some ⟨d, d, e, fun w x => x + k.signExtend w⟩
  | .ushli d a k e => some ⟨d, a, e, fun _ x => x <<< k.toNat⟩
  | .ushri d a k e => some ⟨d, a, e, fun _ x => x >>> k.toNat⟩
  | .usari d a k e => some ⟨d, a, e, fun _ x => x.sshiftRight k.toNat⟩
  | .uandi d a k e => some ⟨d, a, e, fun w x => x &&& k.zeroExtend w⟩
  | _ => none

/-- The uniform predicate that a compare or a predicate operation writes, and its value (R115, R117). -/
structure Decision where
  q     : BitVec 3
  e     : EPay
  value : Team → Bool

/-- The compares of R115 and the predicate logic of R117. -/
def uniformDecision (i : Instr) : Option Decision :=
  let src (t : Team) (v : BitVec 8) (e : EPay) : BitVec (eWidth e) := BitVec.ofNat _ (t.rdU v.toNat (eRegs e))
  match i with
  | .ucmp k p a b e => some ⟨p, e, fun t => condW k.toNat (src t a e) (src t b e)⟩
  | .ucmpi k p a b e => some ⟨p, e, fun t =>
      condW k.toNat (src t a e) (if k.toNat < 6 then b.signExtend _ else b.zeroExtend _)⟩
  | .upredAnd d a b e => some ⟨d, e, fun t => t.rdQ a.toNat && t.rdQ b.toNat⟩
  | .upredOr d a b e => some ⟨d, e, fun t => t.rdQ a.toNat || t.rdQ b.toNat⟩
  | .upredXor d a b e => some ⟨d, e, fun t => t.rdQ a.toNat != t.rdQ b.toNat⟩
  | .upredNot d a e => some ⟨d, e, fun t => !t.rdQ a.toNat⟩
  | .upredMov d a e => some ⟨d, e, fun t => t.rdQ a.toNat⟩
  | _ => none

/-! ## The sweep of a vector word (R26, R27, R135) -/

/-- The passes of a sweep: the lane word of each, and the cycle in which it reads and issues. -/
def passesOf (s : State) (cpp : Nat) : List (Nat × Nat) :=
  (sweepWords s.ct.mask).zipIdx.map fun p => (p.1, s.cur.cyc + max cpp s.cur.cpp * p.2)

/-- The masked and guarded-in lanes of a pass, read from the team as the pass reads it. -/
def servedIn (s : State) (e : EPay) (k c : Nat) : List Nat := (passLanes s.ct.mask k).filter ((s.ct.view c).guardP e)

/-- What a word that computes in registers does: its results are on their way, for the later groups of its team; nothing else
of the machine changes but the performance counters that count passes (R281). -/
structure Issued (s t : State) (new : List PendW) : Prop where
  issued : t.ct.pend = s.ct.pend ++ new
  team   : { t.ct with pend := s.ct.pend } = s.ct
  teams  : ∀ tk, tk ≠ s.cur.tk → t.team tk = s.team tk
  cores  : ∀ c, { t.core c with pmc := (s.core c).pmc } = s.core c
  rest   : { t with teams := s.teams, cores := s.cores } = s

/-- Results of one instruction, with the furrows' registers that it writes in part at the pass that writes them first (R91): a register
of a furrow is written in part where fewer than its 64 positions are. -/
def Parted (t : Team) (bare new : List PendW) : Prop :=
  new.map (fun p => { p with part := [] }) = bare ∧
  ∀ i p, new[i]? = some p → ∀ r, r ∈ p.part ↔
    (∃ w ∈ p.ws, rowOf t w = some r) ∧ (∀ q ∈ new.take i, ∀ w ∈ q.ws, rowOf t w ≠ some r) ∧
      ((new.flatMap (·.ws)).filter fun w => rowOf t w == some r).length < 64

/-- The results of a swept word: the writes of every pass together, read by the later groups from its cycle plus the latency
on; a pass that writes nothing leaves nothing. -/
def sweepOf (s : State) (lat : Option Nat) (cpp : Nat) (e : EPay) (writes : Team → Nat → List (Slot × Nat)) : List PendW :=
  (((passesOf s cpp).map fun p => (p.2, (servedIn s e p.1 p.2).flatMap (writes (s.ct.view p.2)))).filter fun p => !p.2.isEmpty).map
    fun p => { grp := s.ct.grp, due := lat.map (p.1 + ·), ws := p.2 }

/-- A swept word has its whole effect (R135). -/
def Swept (s t : State) (lat : Option Nat) (cpp : Nat) (e : EPay) (writes : Team → Nat → List (Slot × Nat)) : Prop :=
  ∃ new, Parted s.ct (sweepOf s lat cpp e writes) new ∧ Issued s t new

/-- The second operand of a vector word in a lane: a vector source, or a uniform register for every lane. -/
def secondV (t : Team) (uni : Bool) (v n lane : Nat) : Nat := if uni then t.rdU v n else t.rdV v n lane

/-- A vector word with a floating-point result: its destination and the number of its registers, its E word, its latency, the
cycles of a pass, and the pattern and flags that a lane computes from the FMT environment and the team as its pass reads it. -/
structure FloatOp where
  d   : BitVec 8
  n   : Nat
  e   : EPay
  lat : Option Nat
  cpp : Nat
  val : Env → Team → Nat → FR

/-- The type of R134: f32, bf16x2, f16x2 (the halves apart, R95), f64. -/
def inType (ty : Nat) (op : Fmt → Nat → Nat → Nat → FR) (a b d : Nat) : FR :=
  let half (f : Fmt) (h : Nat) : FR := op f (a / 2 ^ (16 * h) % 2 ^ 16) (b / 2 ^ (16 * h) % 2 ^ 16) (d / 2 ^ (16 * h) % 2 ^ 16)
  let both (f : Fmt) : FR := ((half f 0).1 + 2 ^ 16 * (half f 1).1, (half f 0).2 ||| (half f 1).2)
  match ty with
  | 0 => op .f32 a b d
  | 1 => both .bf16
  | 2 => both .f16
  | _ => op .f64 a b d

/-- A word of R136. -/
def arithOp (uni : Bool) (d a b : BitVec 8) (e : EPay) (op : Fmt → Env → Nat → Nat → Nat → FR) : FloatOp :=
  let n := eRegs e
  { d := d, n := n, e := e, lat := some (if eType e = 3 then 8 else 6), cpp := if eType e = 3 then 2 else 1
    val := fun v t l => inType (eType e) (fun f => op f v) (t.rdV a.toNat n l) (secondV t uni b.toNat n l) (t.rdV d.toNat n l) }

/-- A word of R138. -/
def dotOp (uni : Bool) (d a b : BitVec 8) (e : EPay) : FloatOp :=
  { d := d, n := 1, e := e, lat := some 7, cpp := 1
    val := fun v t l => fDot2 (if eType e = 2 then .f16 else .bf16) v (t.rdV a.toNat 1 l) (secondV t uni b.toNat 1 l) (t.rdV d.toNat 1 l) }

/-- A word of R144: `fast` marks the bit operations ABS, NEG and MOV. -/
def funOp (fast : Bool) (d a : BitVec 8) (ty : BitVec 2) (e : EPay) (op : Fmt → Env → Nat → FR) : FloatOp :=
  let n := if ty = 3 then 2 else 1
  { d := d, n := n, e := e, cpp := if ty = 3 then 2 else 1
    lat := if ty = 3 then (if fast then some 8 else none) else some (if fast then 4 else 12)
    val := fun v t l => inType ty.toNat (fun f x _ _ => op f v x) (t.rdV a.toNat n l) 0 0 }

/-- The vector words with a floating-point result (R136, R138, R144, R145). -/
def vectorFloat (i : Instr) : Option FloatOp :=
  match i with
  | .vadd d a b e => some (arithOp false d a b e fun f v x y _ => fAdd f v x y)
  | .vaddBu d a b e => some (arithOp true d a b e fun f v x y _ => fAdd f v x y)
  | .vsub d a b e => some (arithOp false d a b e fun f v x y _ => fSub f v x y)
  | .vsubBu d a b e => some (arithOp true d a b e fun f v x y _ => fSub f v x y)
  | .vmul d a b e => some (arithOp false d a b e fun f v x y _ => fMul f v x y)
  | .vmulBu d a b e => some (arithOp true d a b e fun f v x y _ => fMul f v x y)
  | .vmin d a b e => some (arithOp false d a b e fun f v x y _ => fMinMax false f v x y)
  | .vminBu d a b e => some (arithOp true d a b e fun f v x y _ => fMinMax false f v x y)
  | .vmax d a b e => some (arithOp false d a b e fun f v x y _ => fMinMax true f v x y)
  | .vmaxBu d a b e => some (arithOp true d a b e fun f v x y _ => fMinMax true f v x y)
  | .vfma d a b e => some (arithOp false d a b e fun f v x y z => fFma f v x y z)
  | .vfmaBu d a b e => some (arithOp true d a b e fun f v x y z => fFma f v x y z)
  | .vdot2 d a b e => some (dotOp false d a b e)
  | .vdot2Bu d a b e => some (dotOp true d a b e)
  | .vfunRcp d a t e => some (funOp false d a t e (fFun 0))
  | .vfunRsqrt d a t e => some (funOp false d a t e (fFun 1))
  | .vfunSqrt d a t e => some (funOp false d a t e (fFun 2))
  | .vfunExp2 d a t e => some (funOp false d a t e (fFun 3))
  | .vfunLog2 d a t e => some (funOp false d a t e (fFun 4))
  | .vfunAbs d a t e => some (funOp true d a t e fun f _ x => (x % 2 ^ (f.width - 1), 0))
  | .vfunNeg d a t e => some (funOp true d a t e fun f _ x => (x ^^^ 2 ^ (f.width - 1), 0))
  | .vfunMov d a t e => some (funOp true d a t e fun _ _ x => (x, 0))
  | .vcvt d a y x e => some { d := d, n := cvtRegs y.toNat, e := e, lat := some 6, cpp := 1
                              val := fun v t l => cvt v y.toNat x.toNat (t.rdV a.toNat (cvtRegs x.toNat) l) }
  | _ => none

/-- The field of BFE and BFI (R142). -/
def bfeW {w : Nat} (x s : BitVec w) : BitVec w :=
  let pos := s.toNat % 64
  let len := s.toNat / 256 % 128
  if w ≤ pos ∨ len = 0 then 0 else BitVec.ofNat w (x.toNat / 2 ^ pos % 2 ^ min len (w - pos))
def bfiW {w : Nat} (x s old : BitVec w) : BitVec w :=
  let pos := s.toNat % 64
  let len := s.toNat / 256 % 128
  let n := min len (w - pos)
  if w ≤ pos ∨ len = 0 then old
  else BitVec.ofNat w (old.toNat - old.toNat / 2 ^ pos % 2 ^ n * 2 ^ pos + x.toNat % 2 ^ n * 2 ^ pos)

/-- A vector word with an integer result on V0: its destination, its E word, its latency, and what a lane computes. -/
structure IntOp where
  d   : BitVec 8
  e   : EPay
  lat : Option Nat
  val : Team → Nat → BitVec (eWidth e)

/-- A word of R139. -/
def intOp (lat : Nat) (uni : Bool) (d a b : BitVec 8) (e : EPay) (op : (w : Nat) → BitVec w → BitVec w → BitVec w) : IntOp :=
  { d := d, e := e, lat := some lat
    val := fun t l => op _ (BitVec.ofNat _ (t.rdV a.toNat (eRegs e) l)) (BitVec.ofNat _ (secondV t uni b.toNat (eRegs e) l)) }

/-- A word of R140: D op A, or A op xop with an E word (R74); the operation takes the first, the second and the old D. -/
def aluOp (lat : Option Nat) (d a : BitVec 8) (u : BitVec 1) (e : EPay)
    (op : (w : Nat) → BitVec w → BitVec w → BitVec w → BitVec w) : IntOp :=
  { d := d, e := e, lat := lat
    val := fun t l =>
      let old : BitVec (eWidth e) := BitVec.ofNat _ (t.rdV d.toNat (eRegs e) l)
      let second (v : Nat) : BitVec (eWidth e) := BitVec.ofNat _ (secondV t (u == 1) v (eRegs e) l)
      if e.isNone then op _ old (second a.toNat) old
      else op _ (BitVec.ofNat _ (t.rdV a.toNat (eRegs e) l)) (second (eXop e)) old }

/-- A word of R143. -/
def unOp (d a : BitVec 8) (u : BitVec 1) (e : EPay) (op : (w : Nat) → BitVec w → BitVec w) : IntOp :=
  { d := d, e := e, lat := some 4, val := fun t l => op _ (BitVec.ofNat _ (secondV t (u == 1) a.toNat (eRegs e) l)) }

/-- The vector words with an integer result on V0 (R139, R140, R143). -/
def vectorInteger (i : Instr) : Option IntOp :=
  match i with
  | .viadd d a b e => some (intOp 4 false d a b e fun _ x y => x + y)
  | .viaddBu d a b e => some (intOp 4 true d a b e fun _ x y => x + y)
  | .visub d a b e => some (intOp 4 false d a b e fun _ x y => x - y)
  | .visubBu d a b e => some (intOp 4 true d a b e fun _ x y => x - y)
  | .vimul d a b e => some (intOp 6 false d a b e fun _ x y => x * y)
  | .vimulBu d a b e => some (intOp 6 true d a b e fun _ x y => x * y)
  | .vialuAnd d a u e => some (aluOp (some 4) d a u e fun _ x y _ => x &&& y)
  | .vialuOr d a u e => some (aluOp (some 4) d a u e fun _ x y _ => x ||| y)
  | .vialuXor d a u e => some (aluOp (some 4) d a u e fun _ x y _ => x ^^^ y)
  | .vialuAndn d a u e => some (aluOp (some 4) d a u e fun _ x y _ => x &&& ~~~y)
  | .vialuShl d a u e => some (aluOp (some 4) d a u e fun w x y _ => x <<< (y.toNat % w))
  | .vialuShr d a u e => some (aluOp (some 4) d a u e fun w x y _ => x >>> (y.toNat % w))
  | .vialuSar d a u e => some (aluOp (some 4) d a u e fun w x y _ => x.sshiftRight (y.toNat % w))
  | .vialuMins d a u e => some (aluOp (some 4) d a u e fun _ x y _ => minsW x y)
  | .vialuMaxs d a u e => some (aluOp (some 4) d a u e fun _ x y _ => maxsW x y)
  | .vialuMinu d a u e => some (aluOp (some 4) d a u e fun _ x y _ => minuW x y)
  | .vialuMaxu d a u e => some (aluOp (some 4) d a u e fun _ x y _ => maxuW x y)
  | .vialuMulhs d a u e => some (aluOp (some 6) d a u e fun _ x y _ => mulhsW x y)
  | .vialuMulhu d a u e => some (aluOp (some 6) d a u e fun _ x y _ => mulhuW x y)
  | .vialuDivs d a u e => some (aluOp none d a u e fun _ x y _ => sdivW x y)
  | .vialuDivu d a u e => some (aluOp none d a u e fun _ x y _ => udivW x y)
  | .vialuRems d a u e => some (aluOp none d a u e fun _ x y _ => sremW x y)
  | .vialuRemu d a u e => some (aluOp none d a u e fun _ x y _ => uremW x y)
  | .vialuBfe d a u e => some (aluOp (some 4) d a u e fun _ x y _ => bfeW x y)
  | .vialuBfi d a u e => some (aluOp (some 4) d a u e fun _ x y old => bfiW x y old)
  | .viunMov d a u e => some (unOp d a u e fun _ x => x)
  | .viunNot d a u e => some (unOp d a u e fun _ x => ~~~x)
  | .viunNeg d a u e => some (unOp d a u e fun _ x => -x)
  | .viunAbs d a u e => some (unOp d a u e fun _ x => absW x)
  | .viunPopc d a u e => some (unOp d a u e fun _ x => popW x)
  | .viunClz d a u e => some (unOp d a u e fun _ x => clzW x)
  | .viunBrev d a u e => some (unOp d a u e fun _ x => x.reverse)
  | _ => none

/-- A vector compare: its predicate, its E word, its latency, the cycles of a pass, and the decision and flags of a lane. -/
structure CompareOp where
  p   : BitVec 3
  e   : EPay
  lat : Nat
  cpp : Nat
  val : Env → Team → Nat → Bool × Nat

/-- The compares of R137 and R141. -/
def vectorCompare (i : Instr) : Option CompareOp :=
  let fp (uni : Bool) (k : BitVec 5) (p : BitVec 3) (a b : BitVec 8) (e : EPay) : CompareOp :=
    let n := eRegs e
    { p := p, e := e, lat := if eType e = 3 then 8 else 6, cpp := if eType e = 3 then 2 else 1
      val := fun v t l => fCmp (if eType e = 3 then .f64 else .f32) v k.toNat (t.rdV a.toNat n l) (secondV t uni b.toNat n l) }
  match i with
  | .vfcmp k p a b e => some (fp false k p a b e)
  | .vfcmpBu k p a b e => some (fp true k p a b e)
  | .vialuCmp p a u k e => some { p := p, e := e, lat := 4, cpp := 1, val := fun _ t l =>
      (condW k.toNat (BitVec.ofNat (eWidth e) (t.rdV a.toNat (eRegs e) l)) (BitVec.ofNat (eWidth e) (secondV t (u == 1) (eXop e) (eRegs e) l)), 0) }
  | _ => none

/-- The flags of a result, ORed into TSTAT. -/
def flagWrites (f : Nat) : List (Slot × Nat) := if f = 0 then [] else [(.flags, f)]

/-! ## Shuffle, reduction and indirection (R146 to R149) -/

/-- A register that a pass selects by value can be read (R64, R66). -/
def Readable (s : State) (c : Nat) (sl : Slot) : Prop := sl ∉ interlocked s.ct ∧ (s.ct.chk = true → sl ∉ unwritten s c)

/-- The position that a lane of a VSHUF reads: in its own furrow, by the low six bits of the index. -/
def shuffled (t : Team) (uni : Bool) (b : BitVec 8) (l : Nat) : Nat := 64 * (l / 64) + secondV t uni b.toNat 1 l % 64

/-- comb on values that may be absent; the flags of every comb are gathered (R147). -/
def combine (op : Nat → Nat → FR) (x y : Option Nat × Nat) : Option Nat × Nat :=
  match x.1, y.1 with
  | none, _ => (y.1, x.2 ||| y.2)
  | _, none => (x.1, x.2 ||| y.2)
  | some a, some b => (some (op a b).1, x.2 ||| y.2 ||| (op a b).2)

/-- The tree of R147 over 2^n neighbours from the i-th: step 2^(n-1) combines the two halves. -/
def tree (op : Nat → Nat → FR) (x : Nat → Option Nat) : Nat → Nat → Option Nat × Nat
  | 0, i => (x i, 0)
  | n + 1, i => combine op (tree op x n i) (tree op x n (i + 2 ^ n))

/-- The reduction over the passes: their parts combined in order; the identity if there is none. -/
def reduced (op : Nat → Nat → FR) (ident : Nat) (passes : List (Nat → Option Nat)) : FR :=
  let r := (passes.map fun x => tree op x 5 0).foldl (combine op) (none, 0)
  (r.1.getD ident, r.2)

/-- A VRED: its destination, source and E word, comb in an FMT environment at width w, and the identity; and whether it reads its
source with DAZ and rounds what no comb has made (log entry 25). -/
structure ReduceOp where
  d     : BitVec 8
  a     : BitVec 8
  e     : EPay
  op    : Env → (w : Nat) → Nat → Nat → FR
  ident : Nat → Nat
  fp    : Bool := false
  sum   : Bool := false

/-- A source of a reduction as it is read: DAZ takes a subnormal of f32 as a zero of its sign (R98). -/
def ReduceOp.source (u : ReduceOp) (v : Env) (x : Nat) : Nat :=
  if u.fp = true ∧ v.daz = true ∧ x % 2 ^ 31 < 2 ^ 23 then x / 2 ^ 31 * 2 ^ 31 else x

/-- What a reduction delivers of the pattern it has reduced (R98, R99): the canonical NaN for an f32 NaN, with NV for a signalling one;
a zero with UF and NX for a subnormal sum under FTZ; any other pattern as it stands. -/
def ReduceOp.deliver (u : ReduceOp) (v : Env) (x : Nat) : FR :=
  let m := x % 2 ^ 31
  if u.fp = false then (x, 0)
  else if 0x7F800000 < m then (0x7FC00000, if m < 0x7FC00000 then 16 else 0)
  else if u.sum = true ∧ v.ftz = true ∧ 0 < m ∧ m < 2 ^ 23 then (x / 2 ^ 31 * 2 ^ 31, 3)
  else (x, 0)

/-- comb of an integer operation. -/
def exactly (op : (w : Nat) → BitVec w → BitVec w → BitVec w) : Env → (w : Nat) → Nat → Nat → FR :=
  fun _ w x y => ((op w (BitVec.ofNat w x) (BitVec.ofNat w y)).toNat, 0)

/-- The operations of R147 with their identities. -/
def vectorReduce (i : Instr) : Option ReduceOp :=
  match i with
  | .vredAdd d a e => some ⟨d, a, e, exactly fun _ x y => x + y, fun _ => 0, false, false⟩
  | .vredMins d a e => some ⟨d, a, e, exactly fun _ x y => minsW x y, fun w => 2 ^ (w - 1) - 1, false, false⟩
  | .vredMaxs d a e => some ⟨d, a, e, exactly fun _ x y => maxsW x y, fun w => 2 ^ (w - 1), false, false⟩
  | .vredMinu d a e => some ⟨d, a, e, exactly fun _ x y => minuW x y, fun w => 2 ^ w - 1, false, false⟩
  | .vredMaxu d a e => some ⟨d, a, e, exactly fun _ x y => maxuW x y, fun _ => 0, false, false⟩
  | .vredAnd d a e => some ⟨d, a, e, exactly fun _ x y => x &&& y, fun w => 2 ^ w - 1, false, false⟩
  | .vredOr d a e => some ⟨d, a, e, exactly fun _ x y => x ||| y, fun _ => 0, false, false⟩
  | .vredXor d a e => some ⟨d, a, e, exactly fun _ x y => x ^^^ y, fun _ => 0, false, false⟩
  | .vredFaddF32 d a e => some ⟨d, a, e, fun v _ x y => fAdd .f32 v x y, fun _ => 0, true, true⟩
  | .vredFminF32 d a e => some ⟨d, a, e, fun v _ x y => fMinMax false .f32 v x y, fun _ => 0x7F800000, true, false⟩
  | .vredFmaxF32 d a e => some ⟨d, a, e, fun v _ x y => fMinMax true .f32 v x y, fun _ => 0xFF800000, true, false⟩
  | _ => none

/-- What lane x of lane word k gives to a reduction: its source, if it is in the mask and guarded in. -/
def contributes (s : State) (u : ReduceOp) (k c x : Nat) : Option Nat :=
  if 32 * k + x ∈ servedIn s u.e k c then some (u.source s.ct.env ((s.ct.view c).rdV u.a.toNat (eRegs u.e) (32 * k + x))) else none

/-- A VRDI or VWRI: whether it writes, its fields, and the registers of a value. -/
structure IndirectOp where
  wr : Bool
  d  : BitVec 8
  a  : BitVec 8
  e  : EPay
  n  : Nat

def vectorIndirect (i : Instr) : Option IndirectOp :=
  match i with
  | .vrdiB32 d a e => some ⟨false, d, a, e, 1⟩
  | .vrdiB64 d a e => some ⟨false, d, a, e, 2⟩
  | .vwriB32 d a e => some ⟨true, d, a, e, 1⟩
  | .vwriB64 d a e => some ⟨true, d, a, e, 2⟩
  | _ => none

/-- The writes of a VRDI or VWRI in a lane that selects register n. -/
def indirectWrites (u : IndirectOp) (t : Team) (l r : Nat) : List (Slot × Nat) :=
  if u.wr then (let v := t.rdV u.d.toNat u.n l; wrRegs (.v l) r v u.n ++ [(.lat .V0 l, v)])
  else (let v := t.regs32 (.v l) r u.n; wrV u.d.toNat u.n l v ++ [(.lat .V0 l, v)])

/-! ## Control (R120 to R133) -/

/-- A transfer is taken: the destination, and the mark that it was taken (R120). -/
def taken (s : State) (pc : Nat) : State :=
  { s.modCt (fun t => { t with pc := pc }) with cur := { s.cur with moved := true } }

/-- A relative destination (R122): the address of the word plus four times the signed offset, modulo 2^64. -/
def relative (s : State) (k : BitVec 16) : Nat := (BitVec.ofNat 64 s.cur.addr + 4#64 * k.signExtend 64).toNat

/-- The link of the group under way, written to a pair and lat.u with latency 1 (R123, R124). -/
def linked (s : State) (d : BitVec 8) : State := result s (some 1) s.cur.cyc (uniRes d.toNat 2 s.cur.link)

/-- A word makes its team wait, after any wait of an earlier word of its group (R39). -/
def waits (s : State) (st : TState) : State :=
  s.modCt fun t => if t.st = .ready then { t with st := st, waitAt := s.cur.addr } else { t with later := t.later ++ [(st, s.cur.addr)] }

/-- An encoding that is not legal for the team (R55, R72). -/
def illegal (i : Instr) (s : State) : Bool := (form i).ill || ((form i).priv && !s.ct.priv)

/-- A handle in registers whose reserved bits make its instruction illegal (R158, R162). -/
def badHandle (i : Instr) (s : State) : Bool :=
  match i with
  | .tfetch _ a _ _ _ => handleBad (now s) a.toNat
  | .tmmaf _ _ b _ => handleBad (now s) b.toNat
  | _ => false

/-- The words of which a value in a register can raise ILLEGAL_INSTR or OPERAND, which come before STALL_UNDERRUN (R67). -/
def checksValue (i : Instr) : Bool :=
  match i with
  | .barinit .. | .bararm .. | .barwait .. | .csrw .. | .dbar | .wbar | .vrdiB32 .. | .vrdiB64 .. | .vwriB32 .. | .vwriB64 ..
  | .tzero .. | .tld .. | .tst .. | .tfetch .. | .tmma .. | .tmmaf .. | .copy .. | .copyg .. | .copyb .. | .iredM .. | .iredC ..
  | .ptinv .. | .replay .. => true
  | _ => false

/-- The instructions of the loam set (R299 to R311). -/
def forLoam (i : Instr) : Bool :=
  match i with
  | .loamVadd .. | .loamVsub .. | .loamVmul .. | .loamVfma .. | .loamVmin .. | .loamVmax ..
  | .loamVcvt .. | .loamVredAdd .. | .loamVredMin .. | .loamVredMax .. | .loamVcmp .. | .loamVsel ..
  | .loamVmovx .. | .loamVlane .. | .loamKand .. | .loamKor .. | .loamKxor .. | .loamKandn ..
  | .loamKnot .. | .loamKfromx .. | .loamKtox .. | .loamSaluAdd .. | .loamSaluSub .. | .loamSaluMul ..
  | .loamSaluAnd .. | .loamSaluOr .. | .loamSaluXor .. | .loamSaluShl .. | .loamSaluShr .. | .loamSaluSar ..
  | .loamSaluMin .. | .loamSaluMax .. | .loamSaluSlt .. | .loamSaddi .. | .loamMovi .. | .loamLdk ..
  | .loamVld .. | .loamVst .. | .loamVgather .. | .loamBld .. | .loamBst .. | .loamSld ..
  | .loamSst .. | .loamBr .. | .loamBcc .. | .loamLoop .. | .loamUnassignedOpcode .. | .loamSync ..
  | .loamYield .. | .loamDone .. => true
  | _ => false

/-- The instructions of the main set. -/
def forCore (i : Instr) : Bool := !i.isEvent && !forLoam i

/-- A release that a word carries is free to be made: no store of the team has failed, and none is in the glean log (R196, R324). -/
def Free (s : State) : Prop := s.ct.rerr = false ∧ s.ct.gleaning = false

/-! ## Traps (R131, R316) -/

/-- A team that has taken a trap (R316): every earlier result is written (R62), the trap registers hold what the rule gives them,
PRIV is 1 and the PC is its core's TVEC; a team that was waiting counts its share from now (R42); nothing else changes. -/
def trapped (s : State) (tk code tval tepc : Nat) : State :=
  let u := landAll s tk
  u.modTeam tk fun t => { t with
    tcause := BitVec.ofNat 32 (code + if t.priv then 256 else 0)
    tepc := BitVec.ofNat 64 (tepc % 2 ^ 57)
    tval := BitVec.ofNat 64 tval
    tstat := t.tstat ||| 256#32
    pc := (u.core t.core).tvec.toNat
    st := .ready, later := [], after := none, last := none, redir := 0, entered := true, via := none
    since := if (u.team tk).st = .ready then t.since else (u.core t.core).cyc
    owed := decide ((u.team tk).st = .ready) && t.owed }

/-- A state after an issue that ended in a trap. -/
def stopped (s : State) : State := { s with cur := { s.cur with stop := true } }

/-! ## Memory instructions (R190 to R203) -/

/-- A memory instruction of the M format: what it does, whether it is uniform, its size in bytes, and its fields. -/
structure MemOp where
  kind : AKind
  uni  : Bool := false
  z    : Nat
  d    : BitVec 8
  a    : BitVec 8
  q    : BitVec 8
  e    : EPay

/-- The loads, stores, atomics and fleeting accesses (R193, R197, R198, R202). -/
def memOp (i : Instr) : Option MemOp :=
  match i with
  | .ldB8 d a q e => some { kind := .load false, z := 1, d := d, a := a, q := q, e := e }
  | .ldB16 d a q e => some { kind := .load false, z := 2, d := d, a := a, q := q, e := e }
  | .ldB32 d a q e => some { kind := .load false, z := 4, d := d, a := a, q := q, e := e }
  | .ldS8 d a q e => some { kind := .load true, z := 1, d := d, a := a, q := q, e := e }
  | .ldS16 d a q e => some { kind := .load true, z := 2, d := d, a := a, q := q, e := e }
  | .ldB64 d a q e => some { kind := .load false, z := 8, d := d, a := a, q := q, e := e }
  | .ldB128 d a q e => some { kind := .load false, z := 16, d := d, a := a, q := q, e := e }
  | .uldB32 d a q e => some { kind := .load false, uni := true, z := 4, d := d, a := a, q := q, e := e }
  | .uldB64 d a q e => some { kind := .load false, uni := true, z := 8, d := d, a := a, q := q, e := e }
  | .uldB128 d a q e => some { kind := .load false, uni := true, z := 16, d := d, a := a, q := q, e := e }
  | .stB8 d a q e => some { kind := .store, z := 1, d := d, a := a, q := q, e := e }
  | .stB16 d a q e => some { kind := .store, z := 2, d := d, a := a, q := q, e := e }
  | .stB32 d a q e => some { kind := .store, z := 4, d := d, a := a, q := q, e := e }
  | .stB64 d a q e => some { kind := .store, z := 8, d := d, a := a, q := q, e := e }
  | .stB128 d a q e => some { kind := .store, z := 16, d := d, a := a, q := q, e := e }
  | .ustB32 d a q e => some { kind := .store, uni := true, z := 4, d := d, a := a, q := q, e := e }
  | .ustB64 d a q e => some { kind := .store, uni := true, z := 8, d := d, a := a, q := q, e := e }
  | .ustB128 d a q e => some { kind := .store, uni := true, z := 16, d := d, a := a, q := q, e := e }
  | .atomB32 d a q e => some { kind := .atom (eAux e), z := 4, d := d, a := a, q := q, e := e }
  | .atomB64 d a q e => some { kind := .atom (eAux e), z := 8, d := d, a := a, q := q, e := e }
  | .uatomB32 d a q e => some { kind := .atom (eAux e), uni := true, z := 4, d := d, a := a, q := q, e := e }
  | .fatom d a q e => some { kind := .fatom (eAux e), z := 4 * fatomRegs e, d := d, a := a, q := q, e := e }
  | .fld d a q e => some { kind := .fld, z := 4 * eRegs e, d := d, a := a, q := q, e := e }
  | .fst d a q e => some { kind := .fst, z := 4 * eRegs e, d := d, a := a, q := q, e := e }
  | _ => none

/-- The fields of Q (R75): the order, the scope, the mode. -/
def MemOp.ord (m : MemOp) : Nat := m.q.toNat / 32
def MemOp.scope (m : MemOp) : Nat := m.q.toNat / 4 % 8
def MemOp.mode (m : MemOp) : Nat := m.q.toNat % 4
def MemOp.fleeting (m : MemOp) : Bool := m.kind == .fld || m.kind == .fst
/-- Whether it accesses the scratchpads (mode 0b11). -/
def MemOp.lm (m : MemOp) : Bool := !m.fleeting && m.mode == 3
/-- The path on which it counts (R269): ld 0, st 1, lm 2, fl 3. -/
def MemOp.path (m : MemOp) : Nat := if m.fleeting then 3 else if m.lm then 2 else if m.kind == .store then 1 else 0
/-- Whether it is a release (R196). -/
def MemOp.rel (m : MemOp) : Bool := m.ord == 3 || m.ord == 4

/-- The address of a lane (R190): 64 bits, or a local address. -/
def MemOp.addr (m : MemOp) (t : Team) (l : Nat) : Nat :=
  let reg (n : Nat) := if m.uni then t.rdU m.a.toNat n else t.rdV m.a.toNat n l
  match m.mode with
  | 0 => reg 2
  | 1 => if m.uni then t.rdU m.a.toNat 2 else (BitVec.ofNat 64 (t.rdU m.a.toNat 2) + BitVec.ofNat 64 (m.z * l)).toNat
  | 2 => (BitVec.ofNat 64 (t.rdU (eXop m.e) 2) + (BitVec.ofNat 32 (reg 1)).signExtend 64 <<< eScale m.e).toNat
  | _ => reg 1

/-- What a lane takes from D (R194, R197, R202): a store's value, or an atomic's operand and its compare value. -/
def MemOp.data (m : MemOp) (t : Team) (l : Nat) : Nat × Nat :=
  let reg (v n : Nat) := if m.uni then t.rdU v n else t.rdV v n l
  let d := m.d.toNat
  match m.kind with
  | .load _ => (0, 0)
  | .store => (reg d (max 1 (m.z / 4)) % 2 ^ (8 * m.z), 0)
  | .atom 10 => (reg (d + m.z / 4) (m.z / 4), reg d (m.z / 4))
  | .atom _ | .fatom _ => (reg d (m.z / 4), reg d (m.z / 4))
  | _ => (reg d (m.z / 4), 0)

/-- The lanes that an instruction serves, each with the team as its pass reads it; a uniform one serves lane 0 (R190, R194). -/
def MemOp.serves (m : MemOp) (s : State) : List (Nat × Team) :=
  if m.uni then (if (now s).guardQ m.e then [(0, now s)] else [])
  else (passesOf s 1).flatMap fun p => (servedIn s m.e p.1 p.2).map fun l => (l, s.ct.view p.2)

/-- The addresses of the lanes served. -/
def MemOp.addrs (m : MemOp) (s : State) : List Nat := (m.serves s).map fun x => m.addr x.2 x.1

/-- The lanes of the access: where each goes, and what it carries. -/
def MemOp.lanes (m : MemOp) (s : State) : List Lane :=
  (m.serves s).map fun x =>
    let a := m.addr x.2 x.1
    { lane := x.1, va := a, loc := if m.lm then .lm (lmKey s s.ct a) else .ia (vaCheck s s.cur.tk m.fleeting a).2
      data := (m.data x.2 x.1).1, cmp := (m.data x.2 x.1).2 }

/-- An address that passes the checks of R192 and meets no watchpoint (R320). -/
def MemOp.passes (m : MemOp) (s : State) (a : Nat) : Prop :=
  a % m.z = 0 ∧
  if m.lm then lmOk s.ct a m.z = true
  else (vaCheck s s.cur.tk m.fleeting a).1 = 0 ∧
    ((∃ op, m.kind = .fatom op) → nodeIsHost s (iaNode (vaCheck s s.cur.tk m.fleeting a).2) = false) ∧
    watchHit s (m.kind != .store && m.kind != .fst) (m.kind != .fld && match m.kind with | .load _ => false | _ => true) a = false

/-- An access that is a store and no more (R196). -/
def MemOp.stores (m : MemOp) : Bool := m.kind == .store && !m.lm

/-- The access may start: every address passes, a release is free (R196), a load or an atomic of a team with logged stores touches no
block of them (R324), a store of it would enter the log instead (R323), no store of it waits for room in the log (R239), and its counter
is below 63 (R195). An access that serves no lane needs none of this. -/
structure MemOp.Starts (m : MemOp) (s : State) : Prop where
  pass  : ∀ a ∈ m.addrs s, m.passes s a
  free  : m.rel = true → Free s
  alone : s.ct.gleaning = true → m.lm = true ∨ m.kind ≠ .store ∧ ∀ a ∈ m.addrs s, ∀ g ∈ gleanOf s s.cur.tk, g.block ≠ (vaCheck s s.cur.tk m.fleeting a).2 / 64
  log   : m.stores = true → logBlocked s = false
  room  : s.ct.count m.path < 63

/-- No team waits by a byte barrier, so that no write of a scratchpad byte ends a wait. -/
def NoBarWait (s : State) : Prop := ∀ p ∈ s.teams, ∀ cw ph, p.2.st ≠ .barWait cw ph

/-! ## Engines and requests (R151 to R167, R205, R206, R221 to R235, R260) -/

/-- A completion word that may be used: legal, and a barrier it names is aligned and inside the plot's allocation (R151, R167). -/
def CwOk (s : State) (cw : Nat) : Prop :=
  cwBad cw = false ∧ (cwBar cw = true → cwTarget cw % 16 = 0 ∧ lmOk s.ct (cwTarget cw) 16 = true)

/-- The counter `en` of the team risen by one (R269). -/
def counted (s : State) : State := s.modCt fun t => { t with infl := Tbl.put t.infl 4 (t.count 4 + 1) 0 }

/-- An entry posted to the core's matrix FIFO, or its team stalled while the FIFO has no place, or an earlier post waits that may be accepted
(R39, R160). -/
def posted (s : State) (e : MEnt) : State :=
  let s := { s with fresh := s.fresh + 1 }
  let c := s.core s.ct.core
  if c.fifo.length < 16 ∧ ∀ e ∈ c.stallM, mayPost s e.tk = false then counted (s.modCore s.ct.core fun c => { c with fifo := c.fifo ++ [e] })
  else waits (s.modCore s.ct.core fun c => { c with stallM := c.stallM ++ [e], mstall := c.mstall + 1 }) .engineStall

/-- A command posted to the core's copy-engine queue, or its team stalled while the queue has no place, or an earlier post waits that may
be accepted (R39, R221). -/
def queued (s : State) (m : Cmd) : State :=
  let s := { s with fresh := s.fresh + 1, cmds := Tbl.set s.cmds m.id m }
  let c := s.core s.ct.core
  if c.copyQ.length < 32 ∧ ∀ i ∈ c.stallC, cmdMayPost s i = false then counted (s.modCore s.ct.core fun c => { c with copyQ := c.copyQ ++ [m.id] })
  else waits (s.modCore s.ct.core fun c => { c with stallC := c.stallC ++ [m.id] }) .engineStall

/-- A request of the team on its way to a table, a cache or the dispatcher (R205, R235, R260). -/
def requested (s : State) (dreg : Nat) (k : RKind) : State :=
  { counted s with
    fresh := s.fresh + 1
    reqs := Tbl.set s.reqs s.fresh { id := s.fresh, tk := s.cur.tk, dom := domOf s.ct.core, grp := s.ct.grp, dreg := dreg, kind := k } }

/-- A copy instruction: its kind and its fields (R227 to R229). -/
structure CopyOp where
  k     : CopyK
  d     : BitVec 8
  a     : BitVec 8
  acq   : Bool := false
  rel   : Bool := false
  slm   : Bool := false
  dlm   : Bool := false
  fleet : Bool := false
  scope : Nat
  cores : List Nat := []

def copyOp (i : Instr) : Option CopyOp :=
  match i with
  | .copy d a r e sc m n f => some { k := .plain, d := d, a := a, acq := r == 1, rel := e == 1, slm := m == 1, dlm := n == 1, fleet := f == 1, scope := sc.toNat }
  | .copyg d a r e sc m n f => some { k := .gather, d := d, a := a, acq := r == 1, rel := e == 1, slm := m == 1, dlm := n == 1, fleet := f == 1, scope := sc.toNat }
  | .copyb d a r sc m => some { k := .bcast, d := d, a := a, acq := r == 1, dlm := true, scope := sc.toNat, cores := (List.range 4).filter m.getLsbD }
  | _ => none

/-! ## The loam level (R287 to R311) -/

/-- The fields that a loam instruction rejects (R299, R300, R302 to R310). -/
def loamIllegal (i : Instr) : Bool :=
  let x (n : BitVec 5) : Bool := decide (16 ≤ n.toNat)
  let k (n : BitVec 5) : Bool := decide (4 ≤ n.toNat)
  match i with
  | .loamVadd _ _ b _ t bx | .loamVsub _ _ b _ t bx | .loamVmul _ _ b _ t bx | .loamVfma _ _ b _ t bx | .loamVmin _ _ b _ t bx
  | .loamVmax _ _ b _ t bx => decide (3 ≤ t.toNat) || (bx == 1 && x b)
  | .loamVcvt _ _ _ t c => decide (3 ≤ t.toNat) || decide (3 ≤ c.toNat) || t == c
  | .loamVredAdd d _ _ t | .loamVredMin d _ _ t | .loamVredMax d _ _ t => (t != 0 && t != 2) || x d
  | .loamVcmp d _ b _ t c bx => decide (3 ≤ t.toNat) || decide (6 ≤ c.toNat) || k d || (bx == 1 && x b)
  | .loamVsel _ _ b _ bx => bx == 1 && x b
  | .loamVmovx _ a _ => x a
  | .loamKand d a b | .loamKor d a b | .loamKxor d a b | .loamKandn d a b => k d || k a || k b
  | .loamKnot d a => k d || k a
  | .loamKfromx d a => k d || x a
  | .loamKtox d a => x d || k a
  | .loamSaluAdd d a b | .loamSaluSub d a b | .loamSaluMul d a b | .loamSaluAnd d a b | .loamSaluOr d a b | .loamSaluXor d a b
  | .loamSaluShl d a b | .loamSaluShr d a b | .loamSaluSar d a b | .loamSaluMin d a b | .loamSaluMax d a b
  | .loamSaluSlt d a b => x d || x a || x b
  | .loamSaddi d a _ | .loamSld d a _ | .loamSst d a _ => x d || x a
  | .loamMovi d _ => x d
  | .loamLdk d o => x d || o.toNat % 8 != 0 || decide (32768 ≤ o.toNat)
  | .loamVld _ a _ _ | .loamVst _ a _ _ | .loamVgather _ a _ _ _ | .loamBld _ a _ _ | .loamBst _ a _ _ => x a
  | .loamBcc c a _ => x a || decide (6 ≤ c.toNat)
  | .loamLoop a _ => x a || a == 0
  | .loamUnassignedOpcode _ => true
  | _ => false

/-- The w and x registers that a loam instruction reads or writes. -/
def loamRegs (i : Instr) : List LReg :=
  let second (b : BitVec 5) (bx : BitVec 1) : LReg := if bx = 1 then .x b.toNat else .w b.toNat
  match i with
  | .loamVadd d a b _ _ bx | .loamVsub d a b _ _ bx | .loamVmul d a b _ _ bx | .loamVfma d a b _ _ bx | .loamVmin d a b _ _ bx
  | .loamVmax d a b _ _ bx | .loamVsel d a b _ bx => [.w d.toNat, .w a.toNat, second b bx]
  | .loamVcmp _ a b _ _ _ bx => [.w a.toNat, second b bx]
  | .loamVcvt d a _ _ _ => [.w d.toNat, .w a.toNat]
  | .loamVredAdd d a _ _ | .loamVredMin d a _ _ | .loamVredMax d a _ _ => [.x d.toNat, .w a.toNat]
  | .loamVmovx d a _ | .loamVld d a _ _ | .loamVst d a _ _ | .loamBld d a _ _ | .loamBst d a _ _ => [.w d.toNat, .x a.toNat]
  | .loamVgather d a b _ _ => [.w d.toNat, .x a.toNat, .w b.toNat]
  | .loamVlane d _ => [.w d.toNat]
  | .loamKfromx _ a | .loamBcc _ a _ | .loamLoop a _ => [.x a.toNat]
  | .loamKtox d _ | .loamMovi d _ | .loamLdk d _ => [.x d.toNat]
  | .loamSaluAdd d a b | .loamSaluSub d a b | .loamSaluMul d a b | .loamSaluAnd d a b | .loamSaluOr d a b | .loamSaluXor d a b
  | .loamSaluShl d a b | .loamSaluShr d a b | .loamSaluSar d a b | .loamSaluMin d a b | .loamSaluMax d a b
  | .loamSaluSlt d a b => [.x d.toNat, .x a.toNat, .x b.toNat]
  | .loamSaddi d a _ | .loamSld d a _ | .loamSst d a _ => [.x d.toNat, .x a.toNat]
  | _ => []

/-- The plot that runs on the loam core of the issue may issue: no access of it waits on a moving page (R295), and no class-0 plot is queued there
to which it is to give way (R296). -/
def LoamFree (s : State) : Prop :=
  let p := s.lplot s.lrun
  (∀ a ∈ p.out, a.tok = 0) ∧ (p.cls = 0 ∨ ∀ o ∈ (s.loam p.lk).queue, (s.lplot o).cls ≠ 0)

/-- A loam instruction that goes on (R295, R301): its plot may issue, its encoding is legal, and no register it names is still to be written. -/
structure LoamClear (i : Instr) (s : State) : Prop where
  free    : LoamFree s
  formed  : loamIllegal i = false
  settled : ∀ a ∈ (s.lplot s.lrun).out, ∀ r ∈ loamRegs i, a.owes r = false

/-- The plot of the issue has issued an instruction: it is as given, one word further on, and nothing else has changed. -/
def loamNext (s : State) (q : LPlot) : State := s.modLPlot s.lrun fun p => { q with pc := (p.pc + 4) % 2 ^ 16 }

/-- An i32 operation of R302 and a float one, on a lane of type T. -/
def loamArith (t a b d : Nat) (fl : Fmt → Nat → Nat → Nat → FR) (int : BitVec 32 → BitVec 32 → BitVec 32 → BitVec 32) : Nat :=
  if t = 2 then (int (BitVec.ofNat 32 a) (BitVec.ofNat 32 b) (BitVec.ofNat 32 d)).toNat
  else (inType t (fun f x y z => fl f x y z) a b d).1

/-- The second operand of lane j: a w register, or the low half of an x register (R302). -/
def loamSecond (p : LPlot) (b : BitVec 5) (bx : BitVec 1) (j : Nat) : Nat := if bx = 1 then p.rdX b.toNat % 2 ^ 32 else p.rdW b.toNat j

/-- A loam instruction that writes a w register: the register, the mask of the lanes written (none: all of them), and the value of
a lane (R302, R303, R305, R306). -/
structure LoamVec where
  d   : BitVec 5
  k   : Option (BitVec 2)
  val : LPlot → Nat → Nat

def loamVector (i : Instr) : Option LoamVec :=
  let three (d a b : BitVec 5) (k : BitVec 2) (t : BitVec 3) (bx : BitVec 1) (fl : Fmt → Nat → Nat → Nat → FR)
      (int : BitVec 32 → BitVec 32 → BitVec 32 → BitVec 32) : Option LoamVec :=
    some ⟨d, some k, fun p j => loamArith t.toNat (p.rdW a.toNat j) (loamSecond p b bx j) (p.rdW d.toNat j) fl int⟩
  match i with
  | .loamVadd d a b k t bx => three d a b k t bx (fun f x y _ => fAdd f .plain x y) fun x y _ => x + y
  | .loamVsub d a b k t bx => three d a b k t bx (fun f x y _ => fSub f .plain x y) fun x y _ => x - y
  | .loamVmul d a b k t bx => three d a b k t bx (fun f x y _ => fMul f .plain x y) fun x y _ => x * y
  | .loamVfma d a b k t bx => three d a b k t bx (fun f x y z => fFma f .plain x y z) fun x y z => x * y + z
  | .loamVmin d a b k t bx => three d a b k t bx (fun f x y _ => fMinMax false f .plain x y) fun x y _ => minsW x y
  | .loamVmax d a b k t bx => three d a b k t bx (fun f x y _ => fMinMax true f .plain x y) fun x y _ => maxsW x y
  | .loamVcvt d a k t c => some ⟨d, some k, fun p j => loamCvt t.toNat c.toNat (p.rdW a.toNat j)⟩
  | .loamVsel d a b k bx => some ⟨d, none, fun p j => if (p.rdK k.toNat).testBit j then p.rdW a.toNat j else loamSecond p b bx j⟩
  | .loamVmovx d a k => some ⟨d, some k, fun p _ => p.rdX a.toNat % 2 ^ 32⟩
  | .loamVlane d k => some ⟨d, some k, fun _ j => j⟩
  | _ => none

/-- A loam instruction that writes a mask register: the register and each bit (R305, R306). -/
def loamMask (i : Instr) : Option (BitVec 5 × (LPlot → Nat → Bool)) :=
  let two (d a b : BitVec 5) (op : Bool → Bool → Bool) : Option (BitVec 5 × (LPlot → Nat → Bool)) :=
    some (d, fun p j => op ((p.rdK a.toNat).testBit j) ((p.rdK b.toNat).testBit j))
  match i with
  | .loamKand d a b => two d a b (· && ·)
  | .loamKor d a b => two d a b (· || ·)
  | .loamKxor d a b => two d a b (· != ·)
  | .loamKandn d a b => two d a b fun x y => x && !y
  | .loamKnot d a => some (d, fun p j => !(p.rdK a.toNat).testBit j)
  | .loamKfromx d a => some (d, fun p j => (p.rdX a.toNat).testBit j)
  | .loamVcmp d a b k t c bx => some (d, fun p j => (p.rdK k.toNat).testBit j &&
      (let x := p.rdW a.toNat j
       let y := loamSecond p b bx j
       match t.toNat with
       | 0 => (fCmp .f32 .plain c.toNat x y).1
       | 1 => (fCmp .bf16 .plain c.toNat (x % 2 ^ 16) (y % 2 ^ 16)).1
       | _ => condW c.toNat (BitVec.ofNat 32 x) (BitVec.ofNat 32 y)))
  | _ => none

/-- The tree sum, minimum or maximum of R304 over the masked lanes, as it lands in an x register. -/
def loamReduced (p : LPlot) (a : BitVec 5) (k : BitVec 2) (t : BitVec 3) (fl : Nat → Nat → FR) (int : BitVec 32 → BitVec 32 → BitVec 32)
    (identF identI : Nat) : BitVec 64 :=
  let lane (j : Nat) : Option Nat := if (p.rdK k.toNat).testBit j then some (p.rdW a.toNat j) else none
  if t = 2 then (BitVec.ofNat 32 (reduced (fun x y => ((int (BitVec.ofNat 32 x) (BitVec.ofNat 32 y)).toNat, 0)) identI [lane]).1).signExtend 64
  else BitVec.ofNat 64 (reduced (fun x y => ((fl x y).1, 0)) identF [lane]).1

/-- A loam instruction that writes an x register: the register and the value (R304, R306, R307). -/
def loamScalar (i : Instr) : Option (BitVec 5 × (LPlot → BitVec 64)) :=
  let x (p : LPlot) (n : BitVec 5) : BitVec 64 := BitVec.ofNat 64 (p.rdX n.toNat)
  let two (d a b : BitVec 5) (op : BitVec 64 → BitVec 64 → BitVec 64) : Option (BitVec 5 × (LPlot → BitVec 64)) := some (d, fun p => op (x p a) (x p b))
  match i with
  | .loamSaluAdd d a b => two d a b (· + ·)
  | .loamSaluSub d a b => two d a b (· - ·)
  | .loamSaluMul d a b => two d a b (· * ·)
  | .loamSaluAnd d a b => two d a b (· &&& ·)
  | .loamSaluOr d a b => two d a b (· ||| ·)
  | .loamSaluXor d a b => two d a b (· ^^^ ·)
  | .loamSaluShl d a b => two d a b fun y z => y <<< (z.toNat % 64)
  | .loamSaluShr d a b => two d a b fun y z => y >>> (z.toNat % 64)
  | .loamSaluSar d a b => two d a b fun y z => y.sshiftRight (z.toNat % 64)
  | .loamSaluMin d a b => two d a b minsW
  | .loamSaluMax d a b => two d a b maxsW
  | .loamSaluSlt d a b => two d a b fun y z => if y.slt z then 1 else 0
  | .loamSaddi d a o => some (d, fun p => x p a + o.signExtend 64)
  | .loamMovi d o => some (d, fun _ => o.signExtend 64)
  | .loamLdk d o => some (d, fun p => BitVec.ofNat 64 (Mem.read p.code (0x8000 + o.toNat) 8))
  | .loamKtox d a => some (d, fun p => BitVec.ofNat 64 (p.rdK a.toNat))
  | .loamVredAdd d a k t => some (d, fun p => loamReduced p a k t (fAdd .f32 .plain) (· + ·) 0 0)
  | .loamVredMin d a k t => some (d, fun p => loamReduced p a k t (fMinMax false .f32 .plain) minsW 0x7F800000 0x7FFFFFFF)
  | .loamVredMax d a k t => some (d, fun p => loamReduced p a k t (fMinMax true .f32 .plain) maxsW 0xFF800000 0x80000000)
  | _ => none

/-- A loam access of memory or of the buffer: its kind as an access on its way records it, its register, its size, its mask (none: one
scalar access), the address of a lane, and what a lane stores (R308, R309). -/
structure LoamMem where
  kind : Nat
  reg  : Nat
  n    : Nat
  k    : Option (BitVec 2)
  addr : LPlot → Nat → BitVec 64
  data : LPlot → Nat → Nat := fun _ _ => 0

/-- x[A] + off + 4j. -/
def loamAddr (a : BitVec 5) (o : BitVec 9) (p : LPlot) (j : Nat) : BitVec 64 :=
  BitVec.ofNat 64 (p.rdX a.toNat) + o.signExtend 64 * 128#64 + BitVec.ofNat 64 (4 * j)

def loamMemOp (i : Instr) : Option LoamMem :=
  let x (p : LPlot) (n : BitVec 5) : BitVec 64 := BitVec.ofNat 64 (p.rdX n.toNat)
  match i with
  | .loamVld d a k o => some { kind := 0, reg := d.toNat, n := 4, k := some k, addr := loamAddr a o }
  | .loamVst d a k o => some { kind := 1, reg := d.toNat, n := 4, k := some k, addr := loamAddr a o, data := fun p j => p.rdW d.toNat j }
  | .loamVgather d a b k c => some { kind := 0, reg := d.toNat, n := 4, k := some k, addr := fun p j => x p a + BitVec.ofNat 64 (p.rdW b.toNat j) <<< c.toNat }
  | .loamSld d a o => some { kind := 2, reg := d.toNat, n := 8, k := none, addr := fun p _ => x p a + o.signExtend 64 }
  | .loamSst d a o => some { kind := 3, reg := d.toNat, n := 8, k := none, addr := fun p _ => x p a + o.signExtend 64, data := fun p _ => p.rdX d.toNat }
  | _ => none

/-- The lanes that a mask serves; lane 0 for a scalar access. -/
def loamLanes (p : LPlot) (k : Option (BitVec 2)) : List Nat :=
  match k with
  | some k => (List.range 32).filter fun j => (p.rdK k.toNat).testBit j
  | none => [0]

/-- The IA of a VA of a loam plot (R170, R171, R293): none where no range of its sowing holds it. -/
def loamIa (s : State) (p : LPlot) (va : Nat) : Option Nat :=
  if 2 ^ 57 ≤ va then none else ((firstRange (s.sow p.sow).rangeList va).bind (·.ia va)).map (guestIa s (p.lk / 12))

/-- The causes 3, 4, 5 and 8 of R295 that an access of n bytes at a VA gives before any lane performs. -/
def loamCause (s : State) (p : LPlot) (n va c : Nat) : Prop :=
  c = 3 ∧ va % n ≠ 0 ∨
  match loamIa s p va with
  | none => c = 4
  | some ia =>
    c = 4 ∧ (nodeIn s (p.lk / 12) (iaNode ia) = false ∨ iaNode ia = 0 ∧ (72 ≤ iaHome ia ∨ reservedBase ≤ iaOff ia)) ∨
    c = 5 ∧ (iaNode ia ≠ 0 ∨ iaHome ia ≠ p.lk / 12) ∨
    c = 8 ∧ inFleet s ia = true

/-! ## Accesses at their place (R174 to R181, R197 to R204) -/

/-- The integer atomics of R197 on the old value, the operand and the compare value. -/
def atomicW (op : Nat) {w : Nat} (o d c : BitVec w) : BitVec w :=
  match op with
  | 0 => o + d
  | 1 => o - d
  | 2 => o &&& d
  | 3 => o ||| d
  | 4 => o ^^^ d
  | 5 => minsW o d
  | 6 => maxsW o d
  | 7 => minuW o d
  | 8 => maxuW o d
  | 9 => d
  | _ => if o = c then d else o

/-- A lane of an access as it is kept. -/
def laneNow (s : State) (a : Acc) (l : Lane) : Option Lane := (Tbl.find? s.accs a.id).bind fun b => b.lanes.find? (·.lane == l.lane)

/-- The pending lanes of an access that name one tile. -/
def tileLanes (a : Acc) (t : Nat) : List Lane := a.lanes.filter fun l => match l.loc with | .ia ia => l.st == .pending && tileOf ia == t | .lm _ => false
/-- The IA of a lane of memory. -/
def laneIa (l : Lane) : Nat := match l.loc with | .ia ia => ia | .lm _ => 0

/-- What a returning lane writes (R193, R197, R202, R204): its registers, and the latch of the X pipe unless the access is uniform. -/
def returned (a : Acc) (l : Lane) (v : Nat) : List (Slot × Nat) :=
  let reg (d n x : Nat) := if a.uni then wrU d n x else wrV d n l.lane x
  let latch (x : Nat) : List (Slot × Nat) := if a.uni then [] else [(.lat .X l.lane, x % 2 ^ 64)]
  match a.kind with
  | .load sg =>
    let x := if sg then ((BitVec.ofNat (8 * a.z) v).signExtend 32).toNat else v
    reg a.dreg (max 1 (a.z / 4)) x ++ latch x
  | .atom _ | .fatom _ => reg a.dreg (a.z / 4) v ++ latch v
  | .fld => wrV a.dreg (a.z / 4) l.lane (v / 2) ++ wrV (a.dreg + a.z / 4) (a.z / 4) l.lane (v % 2) ++ latch (v % 2)
  | .fst => wrV (a.dreg + a.z / 4) (a.z / 4) l.lane (v % 2) ++ latch (v % 2)
  | .fbirth | .frenew | .flife => wrU a.dreg 1 v
  | _ => []

/-- The writes of a response: every lane that has a value, without what a later write has taken (R65, R195). -/
def responseWrites (a : Acc) : List (Slot × Nat) :=
  a.lanes.flatMap fun l => match l.st with
    | .fixed v => (returned a l v).filter fun w => !a.dropped.any fun b => b.covers w.1
    | _ => []

/-- The access with every value written. -/
def written (a : Acc) : Acc := { a with lanes := a.lanes.map fun l => match l.st with | .fixed _ => { l with st := .written } | _ => l }

/-- Whether a lane's access leaves this wafer: to another node, or to a far frame whose permissions allow it (R196). -/
def Outside (s : State) (a : Acc) (l : Lane) : Prop :=
  ∃ ia, l.loc = .ia ia ∧ (iaNode ia ≠ 0 ∨ ∃ p, (pageOf s (iaHome ia) ia true).2 = .far p ∧
    match a.kind with
    | .store | .wakea => permWrite p = true
    | .atom _ => permAtom p = true
    | .fatom _ => False
    | _ => permRead p = true)

/-- The address that TVAL names: that of the lowest lane of the access that has been refused (R315). -/
def refusedVa (s : State) (a : Acc) (l : Lane) : Nat :=
  match Tbl.find? s.accs a.id with
  | some b => ((b.lanes.find? (·.st == .refusedAt)).map (·.va)).getD l.va
  | none => l.va

/-- The bytes of a glean entry performed, run by run: a line of the core's L1 takes those of a store that had not performed at .core, but for the
ones that a store which has is still to write after it, and the home takes all (R176, R209, R239). -/
def drained (s : State) (g : GleanE) (core tk : Nat) (tc : Bool) : State × HOut :=
  (beRuns g.be).foldl (fun p r => match p with
    | (s', .ok _) =>
      let at_ := 64 * g.block + r.1
      let seen (u : State) (j : Nat) : State :=
        if g.queued || (shadowByte s core (at_ + j)).isSome then u else l1Store u core (at_ + j) 1 (nb g.data (8 * (r.1 + j)) 8)
      memStore ((List.range r.2).foldl seen s') (domOf core) at_ r.2 (nb g.data (8 * r.1) (8 * r.2)) tc tk g.grp g.wake
    | p => p) (if g.ord = 3 then releaseBy s tk core g.scope g.grp 1 else s, .ok 0)

/-- A logged store may perform (R210 to R212, R326): the team's earlier accesses and transfers to its block have, and the stores of its core that
have performed at .core and write bytes of it before it; before a strong one those that R211 puts before it; a release needs what every
release does, and no trap of an earlier access waits. -/
def DrainMay (s : State) (tk core : Nat) (g : GleanE) : Prop :=
  let bs := earlier s tk g.grp
  let loc : Loc := .ia (64 * g.block)
  (∀ b ∈ bs, b.waitsOn loc 64 = false) ∧ drainAhead s core g = false ∧
  (∀ m ∈ Tbl.vals s.cmds, m.tk = tk → m.grp < g.grp → m.kind = .tld ∨ m.kind = .tst → m.touches loc 64 = false) ∧
  (g.ord ≠ 0 → strongMay s bs tk core g.grp g.scope true loc 64 = true) ∧
  (g.ord = 3 → trapsClear s tk g.seq = true ∧ releaseReady s tk g.grp g.scope = true)

/-! ## The matrix product (R106, R161) -/

/-- Byte j of row i of the activations, and the trit of weight row k and column j. -/
def activation (t : Team) (e : MEnt) (i k : Nat) : Int := (t.winByte (t.tileBase e.a + 256 * i + k)).toInt
def weight (t : Team) (e : MEnt) (k j : Nat) : Int :=
  let byte := match e.weights with
    | some w => (w.getD (16 * k + j / 4) 0).toNat
    | none => (t.winByte (t.tileBase e.b + 16 * k + j / 4)).toNat
  match byte / 4 ^ (j % 4) % 4 with
  | 1 => 1
  | 3 => -1
  | _ => 0
/-- The scale byte of column j. -/
def columnScale (t : Team) (e : MEnt) (j : Nat) : Nat :=
  match e.weights with
  | some w => (w.getD (4096 + j) 0).toNat
  | none => (t.winByte (t.scaleBase (shapeOf e.tcb.toNat) + j)).toNat
/-- Element (i, j) of the accumulator after the product. -/
def product (t : Team) (e : MEnt) (i j : Nat) : FR :=
  matElem ((List.range 256).map fun k => activation t e i k * weight t e k j).sum
    (t.winByte (t.scaleBase (shapeOf e.tca.toNat) + i)).toNat (columnScale t e j)
    (Tbl.getD t.win (t.accBase e.d / 4 + 64 * i + j) 0).toNat

end Sys2Proof.Safety
end

