-- ==== Sys2Proof/Certificates/Slice0/Obligations.lean ====
section
/-! DEFINITION. The statements about the machine. -/

open Sys2Proof Sys2Proof.Machine Sys2Proof.Safety

/-- R112, R111, R110: a uniform instruction of two sources issues its result to the destination and lat.u where its guard holds. R113, R74: a UALU word computes from D and A, or from A and the register of its E word. R114: an immediate word computes from the register it names and its immediate. R115, R117: a compare or predicate operation writes one uniform predicate and no other register. R119: SETFMT and SETST write FMT and TSTAT as later
groups see them; GETFMT and GETST read them. R118: LDC reads the constant block, little-endian, with a latency of 4; an offset that is no multiple of
the size raises MISALIGN whatever the guard, TVAL is the offset, and nothing is written: R118 names no TVAL, so that it is the offset is the model's
reading (log entry 14).
Completes: every instruction of `uniformBinary`, `uniformAlu`, `uniformImmediate` and `uniformDecision`; setfmt, setst, getfmt, getst, ldcB32 and ldcB64. -/
def Obligations.UniformOperationResult : Prop :=
  (∀ (i : Instr) (u : Binary), uniformBinary i = some u → ∀ s : State, Clear i s →
      let t := now s
      let w := eWidth u.e
      let r := u.op w (BitVec.ofNat w (t.rdU u.a.toNat (eRegs u.e))) (BitVec.ofNat w (t.rdU u.b.toNat (eRegs u.e)))
      exec i s = .next (if t.guardQ u.e then result s u.lat s.cur.cyc (uniRes u.d.toNat (eRegs u.e) r.toNat) else s)) ∧
  (∀ (i : Instr) (u : Alu), uniformAlu i = some u → ∀ s : State, Clear i s →
      let t := now s
      exec i s = .next (if t.guardQ u.e then result s (some 1) s.cur.cyc (uniRes u.d.toNat (eRegs u.e) (aluValue u t).toNat) else s)) ∧
  (∀ (i : Instr) (u : Immediate), uniformImmediate i = some u → ∀ s : State, Clear i s →
      let t := now s
      let r := u.op (eWidth u.e) (BitVec.ofNat _ (t.rdU u.a.toNat (eRegs u.e)))
      exec i s = .next (if t.guardQ u.e then result s (some 1) s.cur.cyc (uniRes u.d.toNat (eRegs u.e) r.toNat) else s)) ∧
  (∀ (i : Instr) (u : Decision), uniformDecision i = some u → ∀ s : State, Clear i s →
      let t := now s
      exec i s = .next (if t.guardQ u.e then result s (some 1) s.cur.cyc [(.q u.q.toNat, if u.value t then 1 else 0)] else s)) ∧
  ((∀ (i : Instr) (a : BitVec 8) (e : EPay) (sl : Slot), (i = .setfmt a e ∧ sl = .fmt ∨ i = .setst a e ∧ sl = .stat) →
      ∀ s : State, Clear i s → exec i s = .next (if (now s).guardQ e then s.modCt fun t => { t with
        pend := t.pend.filter (fun p => decide (p.grp < t.grp))
          ++ { grp := t.grp, due := some (s.cur.cyc + 1), ws := [(sl, (now s).rdU a.toNat 1)] }
          :: t.pend.filter fun p => decide (t.grp ≤ p.grp) } else s)) ∧
    (∀ (i : Instr) (d : BitVec 8) (e : EPay) (r : Team → Word), (i = .getfmt d e ∧ r = Team.fmt ∨ i = .getst d e ∧ r = Team.tstat) →
      ∀ s : State, Clear i s → exec i s = .next (if (now s).guardQ e
        then result s (some 2) s.cur.cyc (uniRes d.toNat 1 (r (now s)).toNat) else s))) ∧
  (∀ (i : Instr) (n : Nat) (d : BitVec 8) (k : BitVec 16) (e : EPay),
      (i = .ldcB32 d k e ∧ n = 1 ∨ i = .ldcB64 d k e ∧ n = 2) → ∀ s : State, Clear i s →
      (k.toNat % (4 * n) = 0 → exec i s = .next (if (now s).guardQ e
        then result s (some 4) s.cur.cyc (uniRes d.toNat n (ofBytes ((List.range (4 * n)).map fun j => constByte s (k.toNat + j)))) else s)) ∧
      (k.toNat % (4 * n) ≠ 0 → s.cur.phase = .alone → exec i s = .next (takeTrap s 0x07 k.toNat)))

/-- R135, R136, R138, R144, R145: a vector word with a floating-point result. R135, R139, R140, R142, R143: a vector word with an integer result. R137, R141: a vector compare writes one predicate of each lane.
Completes: every instruction of `vectorFloat`, `vectorInteger` and `vectorCompare`. -/
def Obligations.VectorOperationResult : Prop :=
  (∀ (i : Instr) (u : FloatOp), vectorFloat i = some u → ∀ s : State, Clear i s →
      ∃ t, exec i s = .next t ∧ Swept s t u.lat u.cpp u.e fun tm l =>
        let r := u.val s.ct.env tm l
        wrV u.d.toNat u.n l r.1 ++ [(.lat (latchOf (form i) s) l, r.1)] ++ flagWrites r.2) ∧
  (∀ (i : Instr) (u : IntOp), vectorInteger i = some u → ∀ s : State, Clear i s →
      ∃ t, exec i s = .next t ∧ Swept s t u.lat 1 u.e fun tm l =>
        wrV u.d.toNat (eRegs u.e) l (u.val tm l).toNat ++ [(.lat .V0 l, (u.val tm l).toNat)]) ∧
  (∀ (i : Instr) (u : CompareOp), vectorCompare i = some u → ∀ s : State, Clear i s →
      ∃ t, exec i s = .next t ∧ Swept s t (some u.lat) u.cpp u.e fun tm l =>
        let r := u.val s.ct.env tm l
        (.p l u.p.toNat, if r.1 then 1 else 0) :: flagWrites r.2)

/-- R146: VSHUF moves values among the 64 positions of a furrow. R147: VRED reduces by a fixed tree into a uniform register, interlocked, and writes no latch. R148, R149: VRDI and VWRI reach the register that each lane names; a name outside the count raises OPERAND and nothing is
read or written. What a reduction that combines nothing delivers is the model's reading (log entry 25).
Completes: vshuf, vshufBu, and every instruction of `vectorReduce` and `vectorIndirect`. -/
def Obligations.VectorCrossLaneResult : Prop :=
  (∀ (i : Instr) (uni : Bool) (d a b : BitVec 8) (e : EPay),
      (i = .vshuf d a b e ∧ uni = false ∨ i = .vshufBu d a b e ∧ uni = true) → ∀ s : State, Clear i s →
      (∀ p ∈ passesOf s 1, ∀ l ∈ servedIn s e p.1 p.2,
        ∀ sl ∈ (src .vsrc a.toNat 1 (eRegs e)).slots (shuffled (s.ct.view p.2) uni b l), Readable s p.2 sl) →
      ∃ t, exec i s = .next t ∧ Swept s t (some 8) 1 e fun tm l =>
        let r := tm.rdV a.toNat (eRegs e) (shuffled tm uni b l)
        wrV d.toNat (eRegs e) l r ++ [(.lat .V1 l, r)]) ∧
  (∀ (i : Instr) (u : ReduceOp), vectorReduce i = some u → ∀ s : State, Clear i s →
      let w := eWidth u.e
      let r := reduced (u.op s.ct.env w) (u.ident w) ((passesOf s 1).map fun p => contributes s u p.1 p.2)
      let o := u.deliver s.ct.env r.1
      ∃ t, exec i s = .next t ∧
        Issued s t [{ grp := s.ct.grp, due := none, ws := wrU u.d.toNat (eRegs u.e) o.1 ++ flagWrites (r.2 ||| o.2) }]) ∧
  (∀ (i : Instr) (u : IndirectOp), vectorIndirect i = some u → ∀ s : State, Clear i s →
      let ps := indOf (form i) u.a u.n u.e s
      ((∀ p ∈ ps, ∀ x ∈ p.sel, x.2 + u.n ≤ s.ct.regs ∧ x.2 % u.n = 0 ∧
          (u.wr = false → ∀ sl ∈ slotsFrom (.v x.1) x.2 u.n, Readable s p.cyc sl)) →
        (∀ p ∈ ps.zip (sweepWords s.ct.mask), ∀ l ∈ passLanes s.ct.mask p.2, ∀ sl ∈ (form i).reads l, Readable s p.1.cyc sl) →
        ∃ t new, exec i s = .next t ∧ Issued s t new ∧
          Parted s.ct [{ grp := s.ct.grp, due := none, vwri := u.wr
                         ws := ps.flatMap fun p => p.sel.flatMap fun x => indirectWrites u p.view x.1 x.2 }] new) ∧
      ((∃ p ∈ ps, ∃ x ∈ p.sel, s.ct.regs < x.2 + u.n ∨ x.2 % u.n ≠ 0) →
        s.cur.phase = .alone → exec i s = .next (takeTrap s 0x06 (wordVal s 1))))

/-- R116: USEL writes A where its guard is true and B where it is false, at the width of its type, to the destination and lat.u, whatever the
guard; guard code 7 selects A, negated B. Its opcode is 0x35, its format A, and it is illegal without an E word. Completes: usel. -/
def Obligations.SelectResult : Prop :=
  (∀ (d a b : BitVec 8) (e : EPay) (s : State), Clear (.usel d a b e) s →
    let pick := if (now s).guardQ e then a else b
    exec (.usel d a b e) s = .next (result s (some 1) s.cur.cyc
      (wrU d.toNat (eRegs e) ((now s).rdU pick.toNat (eRegs e)) ++ [(.latU, (now s).rdU pick.toNat (eRegs e))])) ∧
    (eGuard e = 7 → pick = if eNeg e then b else a)) ∧
  (∀ (d a b : BitVec 8) (p : BitVec 24) (s : State),
    decode [1#1 ++ 0x35#7 ++ d ++ a ++ b, 0#1 ++ 0x7F#7 ++ p] = some (.usel d a b (some p)) ∧ illegal (.usel d a b none) s = true)

/-! ## Registers -/

/-- R79, R82: a register reads what was last written to it, and a write changes no other register of its kind. The window place of
a vector register is its own for every lane of the team's furrows. -/
def Obligations.RegisterReadAfterWrite : Prop :=
  ∀ (t : Team) (x : Nat),
    (∀ n m, (t.put (.s n) x).get (.s m) = if n = m then x % 2 ^ 32 else t.get (.s m)) ∧
    (∀ n m, (t.put (.tc n) x).get (.tc m) = if n = m then x % 2 ^ 32 else t.get (.tc m)) ∧
    (∀ n < 8, ∀ m < 8, (t.put (.q n) x).get (.q m) = if n = m then x % 2 else t.get (.q m)) ∧
    (∀ l < 1024, ∀ k < 1024, ∀ n m, (t.put (.p l n) x).get (.p k m) = if l = k ∧ n = m then x % 2 else t.get (.p k m)) ∧
    (∀ l < 64 * t.furr, ∀ k < 64 * t.furr, ∀ n m,
      (t.put (.v l n) x).get (.v k m) = if l = k ∧ n = m then x % 2 ^ 32 else t.get (.v k m)) ∧
    (∀ l k, ∀ n < 8, ∀ m < 8, (t.put (.o l n) x).get (.o k m) = if l = k ∧ n = m then x % 2 ^ 32 else t.get (.o k m)) ∧
    (∀ l k, (t.put (.lat .V0 l) x).get (.lat .V0 k) = if l = k then x % 2 ^ 64 else t.get (.lat .V0 k)) ∧
    (∀ l k, (t.put (.lat .V1 l) x).get (.lat .V1 k) = if l = k then x % 2 ^ 64 else t.get (.lat .V1 k)) ∧
    (∀ l k, (t.put (.lat .X l) x).get (.lat .X k) = if l = k then x % 2 ^ 64 else t.get (.lat .X k)) ∧
    (t.put .latU x).get .latU = x % 2 ^ 64 ∧ (t.put .fmt x).get .fmt = x % 32

/-- R63, R65, R149, R91: the results of a team that are due land in issue order, a VWRI's after the others; what is still on its way keeps its
writes but those to a place that a landed result of a later group, or a VWRI of its own, has written. R81: a result lands beneath what an operation of a
later group has written to its place already, and changes nothing where that wrote the whole word. Only a register written in part counts
expansions. R63, R64: the events of a result that lands: the earliest one that is due at a cycle, with the core's clock at that cycle; and
the oldest interlocked one, a VWRI only after every result issued before it. Completes: fixedLatencyWrite and interlockedWrite. -/
def Obligations.ResultsLand : Prop :=
  (∀ (s : State) (tk c : Nat),
      let due := (s.team tk).pend.filter (·.dueBy c)
      let done := due.filter (!·.vwri) ++ due.filter (·.vwri)
      let t := land s tk c
      ((∀ r ∈ s.races, r.tk ≠ tk) → t.races = s.races ∧ { t.team tk with pend := [], expcnt := 0 } = { done.foldl (fun x p => x.puts p.ws) (s.team tk) with pend := [], expcnt := 0 }) ∧
      (t.team tk).pend = ((s.team tk).pend.filter fun p => !p.dueBy c).map (fun p =>
        { p with ws := p.ws.filter fun w => !done.any fun r => decide (p.grp < r.grp ∨ r.vwri = true ∧ p.grp = r.grp) && r.ws.any fun v => v.1.covers w.1 }) ∧
      (∀ k, k ≠ tk → t.team k = s.team k) ∧ (∀ k, { t.core k with pmc := (s.core k).pmc } = s.core k) ∧
      ((∀ p ∈ due, p.part = []) → (t.team tk).expcnt = (s.team tk).expcnt ∧ t.cores = s.cores ∧ t.freeN = s.freeN) ∧
      { t with teams := s.teams, accs := s.accs, reqs := s.reqs, cores := s.cores, freeN := s.freeN, races := s.races } = s) ∧
  (∀ (s : State) (tk g l n x : Nat) (r : Race), s.races.find? (fun q => q.tk == tk && q.elem == (s.team tk).elem l n) = some r →
      (∀ p ∈ r.steps, g < p.grp) → (∃ p ∈ r.steps, p.mask = BitVec.allOnes 32) →
      ∀ e, Tbl.getD ((commit s tk g [(.v l n, x)]).team tk).win e 0 = Tbl.getD (s.team tk).win e 0) ∧
  (∀ s : State, let tk := s.cur.arg.a
      (∀ p ∈ (s.team tk).pend, ∀ d, p.due = some d → (∀ q ∈ (s.team tk).pend, ∀ e, q.due = some e → d ≤ e) →
        exec .fixedLatencyWrite s = .next (land (advance s (s.team tk).core d) tk d)) ∧
      (∀ l p r, (s.team tk).pend = l ++ p :: r → (∀ q ∈ l, q.due ≠ none) → p.due = none →
        (p.vwri = true → ∀ q ∈ l ++ r, q.vwri = false → p.grp < q.grp) →
        exec .interlockedWrite s = .next (landOne (s.modTeam tk fun t => { t with pend := l ++ r }) tk p))) ∧
  (∀ (s : State) (c n : Nat), let u := advance s c n
      (u.core c).cyc = max (s.core c).cyc n ∧ (∀ k, k ≠ c → u.core k = s.core k) ∧
      { u.core c with cyc := (s.core c).cyc, pmc := (s.core c).pmc } = s.core c ∧ { u with cores := s.cores, freeN := s.freeN } = s)

/-- R97: the roundings of a value m * 2^e to a multiple of 2^(e+k): to nearest, ties to even (mode 0); toward zero (1); up (2); down (3). -/
def Obligations.RoundingModes : Prop :=
  ∀ (rm : Nat) (neg : Bool) (m k : Nat) (e : Int), 0 < k →
    let n := (roundAt rm neg m e false (e + k)).1
    (rm = 0 → 2 * m ≤ (2 * n + 1) * 2 ^ k ∧ 2 * n * 2 ^ k ≤ 2 * m + 2 ^ k ∧
      (2 * m = (2 * n + 1) * 2 ^ k ∨ 2 * n * 2 ^ k = 2 * m + 2 ^ k → n % 2 = 0)) ∧
    (rm = 1 → n * 2 ^ k ≤ m ∧ m < (n + 1) * 2 ^ k) ∧
    (rm = 2 → if neg then n * 2 ^ k ≤ m ∧ m < (n + 1) * 2 ^ k else m ≤ n * 2 ^ k ∧ n * 2 ^ k < m + 2 ^ k) ∧
    (rm = 3 → if neg then m ≤ n * 2 ^ k ∧ n * 2 ^ k < m + 2 ^ k else n * 2 ^ k ≤ m ∧ m < (n + 1) * 2 ^ k)

/-! ## Words that do not issue -/

/-- R55, R72, R67: an encoding that is illegal, or privileged for a team that is not, traps with ILLEGAL_INSTR before it has any
effect, and so does a handle whose reserved bits are not zero once it can be read; a word whose opcode names no instruction is one. R57, R58, R67: the first illegal operand of a word traps with OPERAND, and TVAL names its field. R64, R66: a word that reads an interlocked result still to come is held; one that reads another outstanding register traps with
STALL_UNDERRUN while the checking scoreboard is on, unless a value in a register that it checks first traps with ILLEGAL_INSTR or OPERAND. A later access is held by a fence (R200).
R51, R52, R59, R67, R320: a group whose first word stands at a breakpoint of its core traps with BREAK and the register's number; a start or a transfer that names no instruction
word with ILLEGAL_TARGET; a packet of a kind that is not code, or with a reserved bit set, with ILLEGAL_PACKET and its control word; a group that breaks a rule with ILLEGAL_GROUP and a
reason of those it gives (which of several is free, log entry 18); an address that no range covers with RANGE_MISS. None of its words has an effect.
That OPERAND comes before the hold, and the hold and the checks of values before STALL_UNDERRUN, is the model's order (log entry 14); of several illegal
operands the field named is that of the first in the order of log entry 21; that TVAL of a bad E word or xop holds the opcode word is log entry 25.
Completes: unassignedOpcode. -/
def Obligations.WordsThatDoNotIssue : Prop :=
  (∀ (i : Instr) (s : State), forCore i = true → s.cur.phase = .alone → illegal i s = true →
      exec i s = .next (takeTrap s 0x01 (wordVal s 0))) ∧
  (∀ (i : Instr) (s : State), forCore i = true → s.cur.phase = .alone → illegal i s = false → badHandle i s = true →
      interlockHold (form i) s = false → fenceHold s = false → exec i s = .next (takeTrap s 0x01 (wordVal s 0))) ∧
  (∀ (i : Instr) (s : State) (o : Opd), forCore i = true → s.cur.phase = .alone → illegal i s = false →
      (badHandle i s = true → interlockHold (form i) s = true) → (form i).ops.find? (fun o => !o.legal s.ct) = some o →
      exec i s = .next (takeTrap s 0x06 (wordVal s o.fld))) ∧
  (∀ (i : Instr) (s : State), forCore i = true → s.cur.phase = .alone → illegal i s = false → (∀ o ∈ (form i).ops, o.legal s.ct = true) →
      (interlockHold (form i) s = true → exec i s = .next s) ∧
      (interlockHold (form i) s = false → underrun (form i) s = true →
        if checksValue i = true then (∃ x, exec i s = .next (takeTrap s 0x01 x) ∨ exec i s = .next (takeTrap s 0x06 x)) ∨ exec i s = .next (takeTrap s 0x05 (wordVal s 0))
        else exec i s = .next (takeTrap s 0x05 (wordVal s 0))) ∧
      (interlockHold (form i) s = false → underrun (form i) s = false → (form i).mem = true → fenceHold s = true → exec i s = .next s)) ∧
  (∀ (w : Word) (s : State), s.cur.phase = .alone → exec (.unassignedOpcode w) s = .next (takeTrap s 0x01 (wordVal s 0))) ∧
  (∀ (s : State) (core n : Nat) (x : Input) (r : List Turn) (c : Cand) (cs : List Cand),
      latchDue s = false → s.sched = .part core n x :: r → candidatesOf { s with sched := r } core n x = c :: cs →
      let o := openGroup { s with sched := r } c.tk c.cyc x
      (∀ w a, startOf o c.tk = .bad w a → step s = .next (trapEntry o c.tk 0x04 w a)) ∧
      (∀ va, startOf o c.tk = .at_ va →
        let o := o.modCt fun t => { t with pc := va, via := none }
        let o := { o with cur := { o.cur with gpc := va } }
        (∀ i, breakAt o o.ct va = some i → step s = .next (takeTrap o 0x20 i)) ∧
        (breakAt o o.ct va = none →
          (∀ code v e, fetchFrom o c.tk 4 va true = .trap code v e → step s = .next (trapEntry o c.tk code v (e.getD va))) ∧
          (∀ ws bad, fetchFrom o c.tk 4 va true = .ok ws bad → groupReasons bad (parseGroup ws 0) ≠ [] →
            ∃ u k, k ∈ groupReasons bad (parseGroup ws 0) ∧ step s = .next (takeTrap u 0x02 k) ∧ u.teams = o.teams ∧ u.cur.tk = c.tk ∧ u.cur.gpc = va)))) ∧
  (∀ (s : State) (t : Team) (va i : Nat), breakAt s t va = some i → let b := (Tbl.getD (s.core t.core).bkpt i 0).toNat
      t.priv = false ∧ i < 4 ∧ b / 2 ^ 63 % 2 = 1 ∧ b % 2 ^ 57 = va) ∧
  (∀ (s : State) (tk n va : Nat) (first : Bool), let f := fetchFrom s tk (n + 1) va first
      (va % 16 = 0 ∨ va % 4 ≠ 0 → f = .trap 0x04 va none) ∧
      (va % 16 ≠ 0 → va % 4 = 0 →
        (∀ c v e, fetchAt s tk va = .trap c v e → f = .trap c v e) ∧
        (∀ ctl w, fetchAt s tk va = .word ctl w → let kind := ctl / 2 ^ 30 % 4
          (kind = 1 ∨ kind = 2 ∨ kind = 0 ∧ ctl % 4096 ≠ 0 → f = .trap 0x03 ctl none) ∧
          (kind = 3 → f = if first then .trap 0x04 va none else .ok [] [5])))) ∧
  (∀ (s : State) (tk va : Nat) (first : Bool), fetchFrom s tk 0 va first = .ok [] [2]) ∧
  (∀ (s : State) (tk va : Nat), translate s tk va = none → fetchAt s tk va = .trap 0x11 va none) ∧
  (∀ bad gs k, k ∈ groupReasons bad gs ↔ k ∈ bad ∨ k = 1 ∧ pipesClash (gs.filterMap GWord.pipe) = true ∨
    k = 4 ∧ writesClash (gs.map fun (g : GWord) => (form g.instr).ops.flatMap Opd.writes) = true)

/-- R316: what taking a trap changes, for a team that is not at the first group of its handler. R317: a trap of the handler's first group is not taken: the plot is halted, with the code and TVAL of that trap and the TEPC
that trap entry wrote, and the team keeps its trap registers. R130, R131: TRAP enters the handler after its group, and after the wait that a word of its group has entered, with code 0x22 and the immediate in TVAL; ERET restores PRIV from
TCAUSE and the PC from TEPC. Completes: trap and eret. -/
def Obligations.TrapsAndReturn : Prop :=
  (∀ (s : State) (tk code tval tepc : Nat), (s.team tk).entered = false →
      trapEntry s tk code tval tepc = trapped s tk code tval tepc) ∧
  (∀ (s : State) (tk code tval tepc : Nat), (s.team tk).entered = true →
      let t := trapEntry s tk code tval tepc
      let p := t.plot (tk / 16)
      p.st = .preempting ∧ p.halt = true ∧ p.haltRec = [(s.team tk).pc, code, tval, (s.team tk).tepc.toNat] ∧
      (t.team tk).tcause = (s.team tk).tcause ∧ (t.team tk).tepc = (s.team tk).tepc ∧ (t.team tk).tval = (s.team tk).tval ∧
      (t.team tk).pc = (s.team tk).pc ∧ (∀ k, k ≠ tk → t.team k = s.team k)) ∧
  (∀ s : State,
      (∀ k, Clear (.trap k) s → s.ct.st = .ready → exec (.trap k) s =
        .next (trapped (s.modCt fun t => { t with entered := false }) s.cur.tk 0x22 k.toNat s.cur.link)) ∧
      (∀ k, Clear (.trap k) s → s.ct.st ≠ .ready → exec (.trap k) s =
        .next (s.modCt fun t => { t with entered := false, after := some (.trap 0x22 k.toNat s.cur.link) })) ∧
      (Clear .eret s →
        let u := landAll s s.cur.tk
        exec .eret s = .next { u.modTeam s.cur.tk (fun t => { t with
          tstat := if t.tcause.getLsbD 8 then t.tstat ||| 256#32 else t.tstat &&& ~~~256#32
          pc := t.tepc.toNat, last := none, redir := 0, traps := t.traps.map fun x => { x with held := false } }) with
          cur := { s.cur with moved := true } }))

/-! ## Control -/

/-- R122, R123, R124: BRA transfers where its predicate differs from N; CALL and JMP write the link; RET counts a return. A relative destination
below 0 or past the code addresses is taken modulo 2^64: that is the model's choice (log entry 25). R29, R125: BRV. T is the set of masked lanes whose predicate differs from N. A branch that all take, or none, pushes the
rejoin entry; a divergent one pushes the taken side too and goes on with the rest; a stack without room traps with
STACK_DEPTH, and nothing is pushed. R29, R125: JOIN takes back the newest entry's mask and FMT, and goes to its address, past the JOIN's own word for a rejoin
entry, which it looks at once its page can be read (that it waits for the page is log entry 14); on an empty stack it traps. The TVAL of STACK_DEPTH and a destination modulo 2^64 are the
model's choice (log entry 25). Completes: bra, call, jmp, ret, brv and join. -/
def Obligations.ControlTransfers : Prop :=
  (∀ s : State,
    (∀ n q k, Clear (.bra n q k) s → exec (.bra n q k) s = .next (if (now s).rdQ q.toNat != (n == 1) then taken s (relative s k) else s)) ∧
    (∀ d k, Clear (.call d k) s → exec (.call d k) s = .next (taken (linked s d) (relative s k))) ∧
    (∀ d a, Clear (.jmp d a) s → exec (.jmp d a) s = .next (taken (linked s d) ((now s).rdU a.toNat 2))) ∧
    (∀ a, Clear (.ret a) s → exec (.ret a) s =
      .next (taken (s.modCore s.ct.core fun c => { c with rets := c.rets + 1 }) ((now s).rdU a.toNat 2)))) ∧
  (∀ (n : BitVec 1) (q : BitVec 3) (k : BitVec 16) (e : EPay) (s : State) (T : BitVec 1024), Clear (.brv n q k e) s →
      (∀ l < 1024, T.getLsbD l = (s.ct.mask.getLsbD l && (now s).rdP q.toNat l != (n == 1))) →
      let join : SEntry := ⟨true, relative s (BitVec.ofNat 16 (eBits e 0 16 0)), s.ct.mask, (now s).fmt⟩
      let other : SEntry := ⟨false, relative s k, T, (now s).fmt⟩
      let depth := s.ct.stack.length
      (T = s.ct.mask → depth + 1 ≤ 32 →
        exec (.brv n q k e) s = .next (taken (s.modCt fun t => { t with stack := join :: t.stack }) (relative s k))) ∧
      (T ≠ s.ct.mask → T = 0 → depth + 1 ≤ 32 →
        exec (.brv n q k e) s = .next (s.modCt fun t => { t with stack := join :: t.stack })) ∧
      (T ≠ s.ct.mask → T ≠ 0 → depth + 2 ≤ 32 →
        exec (.brv n q k e) s = .next (s.modCt fun t => { t with stack := other :: join :: t.stack, mask := t.mask &&& ~~~T })) ∧
      (32 < depth + (if T = s.ct.mask ∨ T = 0 then 1 else 2) → s.cur.phase = .alone → exec (.brv n q k e) s = .next (takeTrap s 0x08 (wordVal s 0)))) ∧
  (∀ s : State, Clear .join s →
      (∀ x r, s.ct.stack = x :: r →
        let u := s.modCt fun t => { t with stack := r, mask := x.mask, fmt := x.fmt }
        (x.rejoin = false ∨ targetBad u s.cur.tk x.pc = true → exec .join s = .next (taken u (x.pc % 2 ^ 64))) ∧
        (x.rejoin = true → targetBad u s.cur.tk x.pc = false → codeFault u s.cur.tk x.pc = none →
          exec .join s = .next (taken u (seqAfter u s.cur.tk x.pc fillerFuel % 2 ^ 64))) ∧
        (x.rejoin = true → targetBad u s.cur.tk x.pc = false → codeFault u s.cur.tk x.pc ≠ none →
          exec .join s = .next (taken (u.modCt fun t => { t with via := some (s.cur.addr, true) }) x.pc))) ∧
      (s.ct.stack = [] → s.cur.phase = .alone → exec .join s = .next (takeTrap s 0x08 (wordVal s 0))))

/-- R126: QRED.ANY and QRED.ALL write one uniform predicate from the masked lanes. R127, R128, R30, R48: NOP does nothing; YIELD sets the yield hint of its partition for its team; END ends the team, after the wait that a word of its group has entered, and discards its stack; with the last team the plot is retiring. R133, R284, R319, R45, R276: SNAP pulls the trip line with source 1 and its tag; HALT pre-empts the plot, with the others of a co-resident sowing, and holds it, with its record.
Completes: qredAny, qredAll, nop, yield, endTeam, snap and halt. -/
def Obligations.PredicateAndPlotControl : Prop :=
  (∀ (d a : BitVec 3) (s : State),
      (Clear (.qredAny d a) s → ∃ b : Bool, (b = true ↔ ∃ l < 1024, s.ct.mask.getLsbD l = true ∧ (now s).rdP a.toNat l = true) ∧
        exec (.qredAny d a) s = .next (result s (some 1) s.cur.cyc [(.q d.toNat, if b then 1 else 0)])) ∧
      (Clear (.qredAll d a) s → ∃ b : Bool, (b = true ↔ ∀ l < 1024, s.ct.mask.getLsbD l = true → (now s).rdP a.toNat l = true) ∧
        exec (.qredAll d a) s = .next (result s (some 1) s.cur.cyc [(.q d.toNat, if b then 1 else 0)]))) ∧
  (∀ s : State,
      (Clear .nop s → exec .nop s = .next s) ∧
      (Clear .yield s → exec .yield s = .next (s.modCore s.ct.core fun c => { c with yielded := Tbl.set c.yielded s.ct.part (s.cur.tk + 1) })) ∧
      (Clear .endTeam s → s.ct.st = .ready →
        let u := s.modCt fun t => { t with st := .ended, later := [], after := none, traps := [], stack := [] }
        let p := s.plot (s.cur.tk / 16)
        let last : Prop := p.st = .bound ∧ ∀ o ∈ plotTeams p, (u.team o).st = .ended
        (¬ last → exec .endTeam s = .next u) ∧ (last → exec .endTeam s = .next (setSlotState u (s.cur.tk / 16) 3))) ∧
      (Clear .endTeam s → s.ct.st ≠ .ready → exec .endTeam s = .next (s.modCt fun t => { t with after := some .ended }))) ∧
  (∀ s : State, let pid := s.cur.tk / 16
      let p := s.plot pid
      let slots := (s.quad (12 * p.dom + p.quad)).slots
      (∀ a, Clear (.snap a) s → exec (.snap a) s = .next { s with trip := s.trip ++ [⟨1, (now s).rdU a.toNat 1, s.tick⟩] }) ∧
      (Clear .halt s → ∃ t, exec .halt s = .next t ∧
        t.plot pid = { p with st := .preempting, halt := true, haltRec := [s.cur.addr, s.ct.tcause.toNat, s.ct.tval.toNat, s.ct.tepc.toNat] } ∧
        { t with plots := s.plots, quads := s.quads } = s ∧
        (p.cores = true → ∀ o ∈ plotsOf s p.sow, o.1 ≠ pid → o.2.st = .bound → (t.plot o.1).st = .preempting) ∧
        (p.cores = false → (∀ o, o ≠ pid → t.plot o = s.plot o) ∧
          ∀ w r, Tbl.find? slots p.slot = some (w :: r) → ∃ v : DWord, Tbl.find? (t.quad (12 * p.dom + p.quad)).slots p.slot = some (v :: r) ∧
            nb v.toNat 60 3 = 2 ∧ nb v.toNat 0 60 = nb w.toNat 0 60 ∧ nb v.toNat 63 1 = nb w.toNat 63 1)))

/-- R129, R217, R152: WAITC goes on where the counter is at most the threshold, with the acquire of `en`; at 0 it has observed the completion of all that its path counts; otherwise the team waits. R217: what a wait acquires reaches as far as the releases credited to its target. R213: it takes up the releases that teams which share its scope have made,
with their stores that have not performed everywhere. R274, R217: BARWAIT goes on where its condition holds, with an acquire, and traps with ENGINE_FAULT, after the acquire, where its
target holds a fault, naming the BARWAIT: at once where it is the only word, otherwise at the end of its group; otherwise the team waits. R81: once
a wait has observed the last write of an element it holds its final value, and once it has observed an earlier one, what the element held before
that write is read no more. R132: a CSRW of TVEC in the BARWAIT's own group does not affect its trap. The two places of that trap are the model's
reading (log entry 14; R315 calls the fault issue-precise); the scope that `seen` keeps for a wait, and that a wait takes up every such release, is log entry 13.
Completes: waitc and barwait. -/
def Obligations.WaitResult : Prop :=
  (∀ (d a : BitVec 8) (s : State), Clear (.waitc d a) s →
      let thr := (now s).rdU a.toNat 1
      (s.ct.count d.toNat ≤ thr → exec (.waitc d a) s = .next (
        let u := if s.ct.count d.toNat = 0 then settleRaces s fun r x => x.landed && r.tk == s.cur.tk && x.path == d.toNat else s
        if d = 4 then observe u s.cur.tk (enKey s.cur.tk) false else u)) ∧
      (thr < s.ct.count d.toNat → exec (.waitc d a) s = .next (waits s (.counterWait d.toNat thr)))) ∧
  (∀ (d a : BitVec 8) (s : State), Clear (.barwait d a) s →
      let cw := (now s).rdU a.toNat 1
      let ph := (now s).rdU d.toNat 1
      let b := barAt s (lmKey s s.ct (cwTarget cw))
      let c := ccWord s.ct (cwTarget cw)
      let holds : Prop := if cwBar cw = true
        then 1 ≤ (b.phase + 2 ^ 16 - ph % 2 ^ 16) % 2 ^ 16 ∧ (b.phase + 2 ^ 16 - ph % 2 ^ 16) % 2 ^ 16 ≤ 32767
        else c % 2 ^ 31 = 0 ∨ 2 ^ 31 ≤ c
      let code := if cwBar cw then b.fault else nb s.ct.ccf.toNat (8 * cwTarget cw) 8
      let faulty : Prop := if cwBar cw = true then b.fault ≠ 0 else 2 ^ 31 ≤ c
      cwBad cw = false → (cwBar cw = true → cwTarget cw % 16 = 0 ∧ lmOk s.ct (cwTarget cw) 16 = true) →
        (holds → barBusy s s.cur.tk cw = false → ¬ faulty → exec (.barwait d a) s = .next (observeTarget s s.cur.tk cw)) ∧
        (holds → barBusy s s.cur.tk cw = false → faulty →
          let u := observeTarget s s.cur.tk cw
          let trap (v : State) : State :=
            trapTo v v.cur.tk 0x1A (code + 2 ^ 32 * cw) s.cur.addr (v.ct.tvecWas.getD (v.core v.ct.core).tvec).toNat
          (s.cur.phase = .alone → exec (.barwait d a) s = .next (trap u)) ∧
          (s.cur.phase = .effect → exec (.barwait d a) s = .next { u with cur := { s.cur with barFlt := some (s.cur.addr, cw, code) } } ∧
            ∀ (v : State) (n : Nat), v.cur.barFlt = some (s.cur.addr, cw, code) → endGroup v n = trap v) ∧
          (∀ v : State, v.ct.tvecWas = none → trap v = trapEntry v v.cur.tk 0x1A (code + 2 ^ 32 * cw) s.cur.addr)) ∧
        (¬ holds ∨ barBusy s s.cur.tk cw = true → exec (.barwait d a) s = .next (waits s (.barWait (BitVec.ofNat 32 cw) (BitVec.ofNat 32 ph))))) ∧
  (∀ (s : State) (tk cw : Nat), let u := observeTarget s tk cw
      let seen (p : RStep) : Bool := p.landed && p.target == targetKey s tk cw
      let some_ (r : Race) : Bool := r.steps.any seen
      let c := (s.team tk).core
      let cross := cwBar cw && relCore s c (cwTarget cw / 2 ^ 19) != c
      u.races = s.races.filter (fun r => !some_ r) ++ ((s.races.filter some_).map fun r => r.after seen).filter (fun r => r.steps != []) ∧
      (∀ r ∈ s.races, ∃ early, r.steps = early ++ (r.after seen).steps ∧ (∀ p ∈ (r.after seen).steps, seen p = false) ∧
        (early = [] ∨ ∃ p ∈ early.getLast?, seen p = true)) ∧
      ((∀ r ∈ s.races, some_ r = false) → u = observe s tk (targetKey s tk cw) cross) ∧
      ∀ r ∈ s.races, some_ r = true → (r.after seen).steps = [] → (∀ q ∈ s.races, q.tk = r.tk → q.elem = r.elem → q = r) →
        Tbl.getD (s.team r.tk).win r.elem 0 = r.shown → Tbl.getD (u.team r.tk).win r.elem 0 = r.final) ∧
  (∀ (s : State) (tk key : Nat) (cross : Bool), let u := observe s tk key cross
      let c := (s.team tk).core
      let scope := max (Tbl.getD s.seen key 0) (if cross then 1 else 0)
      (scope = 0 → u = { s with teams := u.teams }) ∧ (∀ k, k ≠ tk → u.team k = s.team k) ∧ { u.team tk with hb := (s.team tk).hb } = s.team tk ∧
      (∀ b, b ≠ tk → ∀ r ∈ (s.team b).rels, let n := shareScope s tk b
        n ≤ 2 → n ≤ scope → n ≤ r.scope → storesOut s b r.grp 3 = true → ⟨b, r.grp, (s.team tk).grp⟩ ∈ (u.team tk).hb) ∧
      (1 ≤ scope → (u.core c).l1 = [] ∧ { u.core c with l1 := (s.core c).l1 } = s.core c) ∧ (∀ k, k ≠ c → u.core k = s.core k) ∧
      (3 ≤ scope → (u.dom (domOf c)).invq = [] ∧ ∀ b ∈ (s.dom (domOf c)).invq, ∀ l ∈ (u.dom (domOf c)).lines, l.remote = true →
        l.base + l.size ≤ 256 * b ∨ 256 * b + 256 ≤ l.base) ∧
      (scope < 3 → u.doms = s.doms) ∧ { u with cores := s.cores, doms := s.doms, teams := s.teams } = s)

/-- R132, R285, R280, R352: CSRR reads 32 bits with latency 2, a core's own snapshot set among them; a team whose quad another carries reads the
core name, the neighbours, the counters and the snapshot set of the core it stands for; a read of TICK_LO keeps the high half for the next read of TICK_HI. R85, R132, R281, R285: CSRW writes 32 bits of a writable register; TEPC or TVEC left naming no instruction word traps with OPERAND,
and nothing is written; a write of TVEC keeps the old one for the traps of its own group (`tvecWas`): that TVAL then names field 0 is the model's choice (log entry 25). Completes: csrr and csrw. -/
def Obligations.CsrResult : Prop :=
  (∀ (d : BitVec 8) (k : BitVec 16) (s : State), Clear (.csrr d k) s →
      let rd (v : Nat) : State := result s (some 2) s.cur.cyc (uniRes d.toNat 1 v)
      let t := now s
      let name := match (s.plot (s.cur.tk / 16)).face with | none => s.ct.core | some q => coreAt s (4 * q) (posOf s s.ct.core)
      let tv := (s.core s.ct.core).tvec.toNat
      let c := s.core name
      let m := s.dom (domOf s.ct.core)
      let q := s.quad (quadOf s.ct.core)
      exec (.csrr d k) s = .next (
        if k.toNat = 0x410 then (rd (s.tick % 2 ^ 32)).modCt fun t => { t with shadow := BitVec.ofNat 8 (s.tick / 2 ^ 32 % 2 ^ 32), shadowV := true }
        else if k.toNat = 0x411 then (rd (if t.shadowV then t.shadow.toNat else s.tick / 2 ^ 32 % 2 ^ 32)).modCt fun t => { t with shadowV := false }
        else rd (csrRead s k.toNat)) ∧
      csrRead s 0x0000 = Config.partid.toNat ∧
      csrRead s 0x0001 = 64 * domNumber s (name / 48) + name % 48 ∧ (∀ k < 4, csrRead s (0x0010 + k) = (Tbl.getD c.nb k 0).toNat) ∧
      csrRead s 0x0002 = s.cur.tk % 16 ∧
      csrRead s 0x0003 = s.cur.tk / 16 % 2 ^ 32 ∧ csrRead s 0x0004 = s.cur.tk / 16 / 2 ^ 32 ∧
      csrRead s 0x0008 = t.vwv ∧ csrRead s 0x0009 = t.vwt ∧ csrRead s 0x000A = t.vwa ∧
      csrRead s 0x0020 = t.tcause.toNat ∧ csrRead s 0x0021 = t.tepc.toNat % 2 ^ 32 ∧ csrRead s 0x0022 = t.tepc.toNat / 2 ^ 32 ∧
      csrRead s 0x0023 = t.tval.toNat % 2 ^ 32 ∧ csrRead s 0x0024 = t.tval.toNat / 2 ^ 32 ∧
      csrRead s 0x0025 = tv % 2 ^ 32 ∧ csrRead s 0x0026 = tv / 2 ^ 32 ∧ csrRead s 0x0030 = t.expcnt.toNat ∧
      (∀ n < 16, csrRead s (0x0040 + n) = (Tbl.getD t.tcr n 0).toNat) ∧
      (∀ n < 16, let r := Tbl.getD (s.sow (s.cur.tk / 16 / 2 ^ 32)).ranges n {}
        csrRead s (0x0100 + 6 * n) = r.w0.toNat % 2 ^ 32 ∧ csrRead s (0x0101 + 6 * n) = r.w0.toNat / 2 ^ 32 ∧
        csrRead s (0x0102 + 6 * n) = r.w1.toNat % 2 ^ 32 ∧ csrRead s (0x0103 + 6 * n) = r.w1.toNat / 2 ^ 32 ∧
        csrRead s (0x0104 + 6 * n) = r.w2.toNat % 2 ^ 32 ∧ csrRead s (0x0105 + 6 * n) = r.w2.toNat / 2 ^ 32) ∧
      (∀ n < 4, csrRead s (0x0400 + n) = (Tbl.getD t.cc n 0).toNat) ∧ csrRead s 0x0404 = t.ccf.toNat ∧
      csrRead s 0x0408 = t.count 0 + 2 ^ 6 * t.count 1 + 2 ^ 12 * t.count 2 + 2 ^ 18 * t.count 3 + 2 ^ 24 * t.count 4 ∧
      (∀ n < 8, let p := (Tbl.getD c.pmc n 0).toNat
        csrRead s (0x0420 + 2 * n) = p % 2 ^ 32 ∧ csrRead s (0x0421 + 2 * n) = p / 2 ^ 32 ∧ csrRead s (0x0430 + n) = (Tbl.getD c.pevsel n 0).toNat) ∧
      csrRead s 0x0440 = c.cyc % 2 ^ 32 ∧ csrRead s 0x0441 = c.cyc / 2 ^ 32 % 2 ^ 32 ∧ csrRead s 0x0442 = c.grp % 2 ^ 32 ∧
      csrRead s 0x0443 = c.grp / 2 ^ 32 % 2 ^ 32 ∧ csrRead s 0x0444 = c.mstall % 2 ^ 32 ∧ csrRead s 0x0445 = c.mstall / 2 ^ 32 % 2 ^ 32 ∧
      csrRead s 0x0446 = c.rets % 2 ^ 32 ∧ csrRead s 0x0447 = c.rets / 2 ^ 32 % 2 ^ 32 ∧
      csrRead s 0x0480 = m.undefvc.toNat ∧ csrRead s 0x0481 = m.fqovf.toNat ∧ csrRead s 0x0482 = m.wtfull.toNat ∧ csrRead s 0x0483 = m.watchev.toNat ∧
      csrRead s 0x04C0 = q.energy / 16 % 2 ^ 32 ∧ csrRead s 0x04C1 = q.energy / 16 / 2 ^ 32 % 2 ^ 32 ∧ csrRead s 0x04C2 = q.qthrot.toNat ∧
      csrRead s 0x04C3 = q.qresw.toNat ∧ csrRead s 0x04C4 = q.ratio ∧
      csrRead s 0x0500 = (if c.snap.valid then 2 ^ 31 else 0) + 2 ^ 8 * c.snap.src + c.snap.miss ∧
      (∀ n < 40, csrRead s (0x0540 + n) = c.snap.copies.getD n 0) ∧ csrRead s 0x0501 = c.snap.tag ∧ csrRead s 0x0502 = c.snap.tick % 2 ^ 32 ∧ csrRead s 0x0503 = c.snap.tick / 2 ^ 32 % 2 ^ 32) ∧
  (∀ (d : BitVec 8) (k : BitVec 16) (s : State), Clear (.csrw d k) s →
      let v := (now s).rdU d.toNat 1
      let c := s.core s.ct.core
      let lo (x : DWord) : DWord := BitVec.ofNat 64 (x.toNat / 2 ^ 32 * 2 ^ 32 + v)
      let hi (x : DWord) : DWord := BitVec.ofNat 64 (x.toNat % 2 ^ 32 + 2 ^ 32 * v)
      let code (x : DWord) : DWord := x &&& 0x01FFFFFFFFFFFFFF#64
      let names (x : DWord) : Prop := x.toNat % 16 ∈ [4, 8, 12]
      let valid : Prop := (k.toNat = 0x21 → names (lo s.ct.tepc)) ∧ (k.toNat = 0x22 → names (hi s.ct.tepc)) ∧
        (k.toNat = 0x25 → names (lo c.tvec)) ∧ (k.toNat = 0x26 → names (hi c.tvec))
      let name := match (s.plot (s.cur.tk / 16)).face with | none => s.ct.core | some q => coreAt s (4 * q) (posOf s s.ct.core)
      let team (f : Team → Team) : State := s.modCt f
      let core (f : Core → Core) : State := s.modCore name f
      let vec (f : DWord → DWord) : State :=
        (s.modCt fun t => { t with tvecWas := some (t.tvecWas.getD c.tvec) }).modCore s.ct.core fun c => { c with tvec := code (f c.tvec) }
      (valid → exec (.csrw d k) s = .next (
        if k.toNat = 0x20 then team fun t => { t with tcause := BitVec.ofNat 32 (v % 512) }
        else if k.toNat = 0x21 then team fun t => { t with tepc := code (lo t.tepc) }
        else if k.toNat = 0x22 then team fun t => { t with tepc := code (hi t.tepc) }
        else if k.toNat = 0x23 then team fun t => { t with tval := lo t.tval }
        else if k.toNat = 0x24 then team fun t => { t with tval := hi t.tval }
        else if k.toNat = 0x25 then vec lo
        else if k.toNat = 0x26 then vec hi
        else if k.toNat < 0x404 then team fun t => { t with cc := Tbl.put t.cc (k.toNat - 0x400) (BitVec.ofNat 32 v) 0 }
        else if k.toNat = 0x404 then team fun t => { t with ccf := BitVec.ofNat 32 v }
        else if k.toNat < 0x430 then core fun c =>
          let n := (k.toNat - 0x420) / 2
          { c with pmc := Tbl.put c.pmc n ((if k.toNat % 2 = 0 then lo else hi) (Tbl.getD c.pmc n 0)) 0 }
        else core fun c => { c with pevsel := Tbl.put c.pevsel (k.toNat - 0x430) (BitVec.ofNat 32 v &&& 0x800000FF#32) 0 })) ∧
      (¬ valid → s.cur.phase = .alone → exec (.csrw d k) s = .next (takeTrap s 0x06 (wordVal s 0))) ∧
      k.toNat ∈ [0x20, 0x21, 0x22, 0x23, 0x24, 0x25, 0x26, 0x400, 0x401, 0x402, 0x403, 0x404] ++ (List.range 16).map (0x420 + ·) ++ (List.range 8).map (0x430 + ·))

/-! ## Memory instructions -/

/-- R190, R192, R194, R195, R197, R198, R202: a load, store, atomic or fleeting access whose checks pass starts an access with the
lanes that R190 gives it, of its order and scope, counted on its path; one that serves no lane does nothing. R239, R323: a store of a team
with logged stores enters the log of its core, one entry for each 64-byte block that it touches, behind those of the team's earlier stores. Completes: every instruction of `memOp`. -/
def Obligations.MemoryInstructionStarts : Prop :=
  ∀ (i : Instr) (m : MemOp), memOp i = some m → ∀ s : State, Clear i s →
    (m.addrs s = [] ∨ m.Starts s →
      exec i s = .next (startAcc s m.kind m.z m.ord m.scope m.path (if m.kind = .store then 0 else m.d.toNat) m.uni (m.lanes s))) ∧
    (m.stores = true → m.rel = false → s.ct.gleaning = true → s.ct.fences = [] → logBlocked s = false → s.ct.count m.path < 63 →
      (∀ a ∈ m.addrs s, m.passes s a) → m.addrs s ≠ [] → (∀ g ∈ gleanOf s s.cur.tk, g.seq ≤ s.fresh) →
      let ia (a : Nat) : Nat := (vaCheck s s.cur.tk false a).2
      (s.core s.ct.core).glean.length + ((m.addrs s).map fun a => ia a / 64).eraseDups.length ≤ 256 →
      ∃ t es, exec i s = .next t ∧ (t.core s.ct.core).glean = (s.core s.ct.core).glean ++ es ∧
        (es.map (·.block)).Pairwise (· < ·) ∧ (∀ b, b ∈ es.map (·.block) ↔ ∃ a ∈ m.addrs s, ia a / 64 = b) ∧
        (∀ e ∈ es, e.tk = s.cur.tk ∧ e.ready = true ∧ e.tok = 0 ∧ e.ord = m.ord ∧ e.scope = m.scope ∧ e.grp = s.ct.grp ∧ e.seq = s.fresh) ∧
        (∀ e ∈ es, ∀ j < 64, e.be.getLsbD j = true ↔ ∃ a ∈ m.addrs s, ia a ≤ 64 * e.block + j ∧ 64 * e.block + j < ia a + m.z) ∧
        t.ct = { s.ct with tstat := s.ct.tstat ||| 512#32 } ∧ t.accs = s.accs ∧ t.dram = s.dram ∧ t.spm = s.spm)

/-- R192: the checks of a memory instruction at issue, in their order, each over the lanes in ascending order; TVAL is the address of
the first lane that fails. No lane performs and no counter changes. R84, R195, R196, R239, R324: a release traps with REMOTE_FAULT while RERR is 1, and waits while the team has logged stores; a load or an
atomic that touches the block of a logged store waits; an access whose counter stands at 63 does not issue, nor does a store while an earlier
one waits for room in the log. -/
def Obligations.MemoryInstructionHoldsAndTraps : Prop :=
  (∀ (i : Instr) (m : MemOp), memOp i = some m → ∀ s : State, Clear i s → s.cur.phase = .alone →
      let as := m.addrs s
      let ia (a : Nat) := vaCheck s s.cur.tk m.fleeting a
      (∀ a, as.find? (fun a => a % m.z != 0) = some a → exec i s = .next (takeTrap s 0x07 a)) ∧
      ((∀ a ∈ as, a % m.z = 0) →
        (∀ a, m.lm = true → as.find? (fun a => !lmOk s.ct a m.z) = some a → exec i s = .next (takeTrap s 0x10 a)) ∧
        (∀ a, m.lm = false → as.find? (fun a => (ia a).1 == 0x11) = some a → exec i s = .next (takeTrap s 0x11 a)) ∧
        (m.lm = false → (∀ a ∈ as, (ia a).1 ≠ 0x11) →
          (∀ a, as.find? (fun a => (ia a).1 == 0x13) = some a → exec i s = .next (takeTrap s 0x13 a)) ∧
          ((∀ a ∈ as, (ia a).1 ≠ 0x13) → ∀ a op, m.kind = .fatom op → as.find? (fun a => nodeIsHost s (iaNode (ia a).2)) = some a →
            exec i s = .next (takeTrap s 0x14 a))))) ∧
  (∀ (i : Instr) (m : MemOp), memOp i = some m → ∀ s : State, Clear i s → s.cur.phase = .alone → m.addrs s ≠ [] → (∀ a ∈ m.addrs s, m.passes s a) →
      (m.rel = true → s.ct.rerr = true → exec i s = .next (takeTrap s 0x18 (5 * 2 ^ 60))) ∧
      (m.rel = true → s.ct.rerr = false → s.ct.gleaning = true → exec i s = .next (s.modCt fun t => { t with st := .releasePark })) ∧
      (m.rel = false → s.ct.gleaning = true → m.lm = false → m.kind ≠ .store → m.kind ≠ .fst →
        (∃ a ∈ m.addrs s, ∃ g ∈ gleanOf s s.cur.tk, g.block = (vaCheck s s.cur.tk m.fleeting a).2 / 64) →
        exec i s = .next (s.modCt fun t => { t with st := .releasePark })) ∧
      (m.rel = false → s.ct.gleaning = false → 63 ≤ s.ct.count m.path → exec i s = .next s) ∧
      (m.rel = false → m.stores = true → s.ct.count m.path < 63 → logBlocked s = true → exec i s = .next s))

/-- R195, R269: what starting an access changes: its team's counter rises by one, unless it is a weak store or one at .core that performs at .core
at once; the access is in flight under a fresh identifier with its lanes; memory is as before outside the scratchpad bytes of its lanes, and a load changes none; a store to the scratchpad that
nothing holds has performed: that it does in the step of its issue is log entry 12. The L1, what an acquire drops, and what the team has released and
acquired are the only other changes. What a barrier's initialisation forgets of the credits before it is kept in `seen` (log entry 13). -/
def Obligations.AccessStarts : Prop :=
  ∀ (s : State) (kind : AKind) (z ord scope path dreg : Nat) (uni : Bool) (ls : List Lane),
    ls ≠ [] → s.ct.fences = [] → NoBarWait s → (∀ q n, s.ct.st ≠ .counterWait q n) → (∀ arm, kind = .bar arm → z = 16) →
    let t := startAcc s kind z ord scope path dreg uni ls
    let d := domOf s.ct.core
    { t.ct with infl := s.ct.infl, hb := s.ct.hb, rels := s.ct.rels } = s.ct ∧ (ord ≤ 1 → t.ct.hb = s.ct.hb ∧ t.ct.rels = s.ct.rels) ∧ (∀ p, p ≠ path → t.ct.count p = s.ct.count p) ∧
    (∀ k, k ≠ s.cur.tk → t.team k = s.team k) ∧
    (∃ a, Tbl.find? t.accs s.fresh = some a ∧ a.id = s.fresh ∧ a.tk = s.cur.tk ∧ a.grp = s.ct.grp ∧ a.kind = kind ∧ a.z = z ∧ a.ord = ord ∧
      a.scope = scope ∧ a.path = path ∧ a.dreg = dreg ∧ a.uni = uni ∧
      t.ct.count path = s.ct.count path + (if a.counted then 1 else 0) ∧
      (a.queued = true → (kind = .store ∨ kind = .wakea) ∧ path ≠ 2) ∧ a.counted = !(a.queued && (ord == 0 || scope == 0)) ∧
      (a.lanes.map fun l => (l.lane, l.va, l.loc, l.data, l.cmp)) = ls.map fun l => (l.lane, l.va, l.loc, l.data, l.cmp)) ∧
    (∀ k, k ≠ s.fresh → Tbl.find? t.accs k = Tbl.find? s.accs k) ∧
    (∀ x, (∀ l ∈ ls, ∀ k, l.loc = .lm k → x < k ∨ k + z ≤ x) → t.spm.get x = s.spm.get x) ∧
    ((∃ sg, kind = .load sg) → t.spm = s.spm) ∧
    (∀ l k, ls = [l] → l.st = .pending → l.loc = .lm k → kind = .store → ord = 0 → s.accs = [] → s.cmds = [] → (s.plot (s.cur.tk / 16)).resident = true →
      t.spm.read k z = l.data % 2 ^ (8 * z)) ∧
    (∀ c, { t.core c with l1 := (s.core c).l1, pmc := (s.core c).pmc } = s.core c) ∧
    (∀ e, e ≠ d → t.dom e = s.dom e) ∧
    { t.dom d with invq := (s.dom d).invq, lines := (s.dom d).lines } = s.dom d ∧
    (kind ≠ .bar false → t.seen = s.seen) ∧
    { t with teams := s.teams, accs := s.accs, fresh := s.fresh, cores := s.cores, doms := s.doms, spm := s.spm, seen := s.seen } = s ∧ s.fresh < t.fresh

/-- R200, R201, R196, R324: FENCE records its order and scope for the team's later accesses; a release fence traps while RERR is 1, and waits while
the team has logged stores. PREFETCH never traps for its addresses, and changes no register, no scratchpad byte and no tile, nor DRAM where no
dirty line can leave a cache. R201, R176, R177: it does its work address by address: one without a mapping, a permission or a cache that allocates is
dropped; otherwise the line enters the domain's virtual cache, and for L1 the core's L1, with the bytes of the level below.
Completes: fence, prefetchL1 and prefetchVc. -/
def Obligations.FenceAndPrefetchResult : Prop :=
  ∀ s : State,
    (∀ o sc, Clear (.fence o sc) s →
      ((o = 3 → Free s) → exec (.fence o sc) s = .next (s.modCt fun t => { t with fences := t.fences ++ [⟨o == 3, sc.toNat, t.grp⟩] })) ∧
      (o = 3 → s.ct.rerr = true → s.cur.phase = .alone → exec (.fence o sc) s = .next (takeTrap s 0x18 (5 * 2 ^ 60))) ∧
      (o = 3 → s.ct.rerr = false → s.ct.gleaning = true → s.cur.phase = .alone → exec (.fence o sc) s = .next (s.modCt fun t => { t with st := .releasePark }))) ∧
    (∀ (i : Instr) (a : BitVec 8) (m : BitVec 2) (e : EPay), (i = .prefetchL1 a m e ∨ i = .prefetchVc a m e) → Clear i s → s.ct.fences = [] →
      ∃ t, exec i s = .next t ∧ t.teams = s.teams ∧ t.spm = s.spm ∧ t.fleet = s.fleet ∧ t.tiles = s.tiles ∧ t.accs = s.accs ∧ t.plots = s.plots ∧
        ((∀ d, ∀ l ∈ (s.dom d).lines, l.dirty = false) → t.dram = s.dram) ∧
        t = ((servedLanes (form i) false e s).map fun p => addrOf p.2 false a.toNat m.toNat e 4 p.1).foldl
          (fun u va => prefetchOne u (match i with | .prefetchL1 .. => true | _ => false) va) s) ∧
    (∀ (l1 : Bool) (va : Nat), let t := prefetchOne s l1 va
      let dom := domOf s.ct.core
      ((vaCheck s s.cur.tk false va).1 ≠ 0 → t = s) ∧
      ∀ ia, vaCheck s s.cur.tk false va = (0, ia) → (iaNode ia ≠ 0 → t = s) ∧
        ∀ u vc key p, iaNode ia = 0 → pageOf s (iaHome ia) ia false = (u, .local_ vc key p) →
          let geo := fillGeo (Tbl.getD (s.dom dom).vcs vc {}) (dom != iaHome ia)
          (permRead p = false ∨ geo = none → t = s) ∧
          (permRead p = true → geo ≠ none → l1 = true → ∃ x ∈ (t.core s.ct.core).l1, x.base = ia / 128 * 128 ∧
            ∀ j < 128, nb x.data (8 * j) 8 = ((shadowByte t s.ct.core (x.base + j)).getD (levelByte t dom (iaHome ia) (x.base + j) (key - ia % 128 + j))).toNat) ∧
          (∀ g gen b set, permRead p = true → geo = some (g, gen) → dom = iaHome ia → g.place (u.dom dom) ia = some (b, set) →
            (vcFind (dirTouch u dom (ia / 256)) dom false vc ia).2 = none → (∀ x ∈ (s.dom dom).lines, x.dirty = false) →
            ∃ x ∈ (t.dom dom).lines, x.remote = false ∧ x.vc = vc ∧ x.gen = gen ∧ x.base = ia / g.size * g.size ∧ x.size = g.size ∧
              x.data = Mem.read s.dram (key - (ia - x.base)) g.size))

/-- R204, R277, R279: FCTL starts one access to a whole tile; WAITA starts a watch and its team waits by it; WAKEA starts a store.
Each has the address of its pair, which passes the checks of R192. Completes: fbirth, frenew, flife, waita and wakea. -/
def Obligations.TileControlAndWatchStart : Prop :=
  ∀ s : State, s.ct.gleaning = false →
    let va (a : BitVec 8) := (now s).rdU a.toNat 2
    let one (fl : Bool) (va data : Nat) : List Lane := [{ lane := 0, va := va, loc := .ia (vaCheck s s.cur.tk fl va).2, data := data }]
    (∀ (i : Instr) (k : AKind) (d a : BitVec 8), (i = .fbirth d a ∧ k = .fbirth ∨ i = .frenew d a ∧ k = .frenew ∨ i = .flife d a ∧ k = .flife) →
      Clear i s → va a % 4096 = 0 → (vaCheck s s.cur.tk true (va a)).1 = 0 → watchHit s (k == .flife) (k != .flife) (va a) = false → s.ct.count 3 < 63 →
      exec i s = .next (startAcc s k 4 1 2 3 d.toNat true (one true (va a) 0))) ∧
    (∀ (d a : BitVec 8) (o : BitVec 6), Clear (.waita d a o) s → va a % 4 = 0 → (vaCheck s s.cur.tk false (va a)).1 = 0 →
      watchHit s true false (va a) = false → s.ct.count 0 < 63 →
      exec (.waita d a o) s = .next (waits (startAcc s .waita 4 (o.toNat / 8) (o.toNat % 8) 0 0 true
        (one false (va a) ((now s).rdU d.toNat 1))) (.watchWait s.fresh))) ∧
    (∀ (d a : BitVec 8) (o : BitVec 6), Clear (.wakea d a o) s → va a % 4 = 0 → (vaCheck s s.cur.tk false (va a)).1 = 0 →
      watchHit s false true (va a) = false → s.ct.count 1 < 63 → logBlocked s = false → (o.toNat / 8 = 3 → Free s) →
      exec (.wakea d a o) s = .next (startAcc s .wakea 4 (o.toNat / 8) (o.toNat % 8) 1 0 true (one false (va a) ((now s).rdU d.toNat 1))))

/-! ## Barriers and completion registers -/

/-- R271, R272, R273: BARINIT, BARARM and a credit at a byte barrier. A phase that is armed and has its bytes completes in the same
change, and the bytes beyond it carry over; of two fault codes the lower is kept. R273: BARINIT and BARARM: on a completion register they act at once; on a byte barrier they start a store to its 16 bytes that
counts on `lm`. A completion word that is not legal traps with OPERAND. Completes: barinit and bararm. -/
def Obligations.ByteBarriers : Prop :=
  (∀ (b : Bar) (x c : Nat) (p : Option Nat), b.state < 2 ^ 32 → x < 2 ^ 32 → c < 2 ^ 8 →
      let full (b : Bar) : Bar → Prop := fun r =>
        if b.armed = true ∧ b.expect ≤ b.arrived then
          r.arrived + b.expect = b.arrived ∧ r.phase = (b.phase + 1) % 2 ^ 16 ∧ r.armed = false ∧ r.expect = b.expect ∧ r.fault = b.fault ∧ r.packed = b.packed
        else r = b
      barInit x = ⟨x, 0, if x = 0 then 0 else 2 ^ 31, 0⟩ ∧ (barInit x).fault = 0 ∧ (barInit x).phase = 0 ∧ (barInit x).armed = decide (x ≠ 0) ∧
      full b b.test ∧
      b.arm x = (if b.armed then { b with expect := (b.expect + x) % 2 ^ 32 } else { b with expect := x, state := b.state + 2 ^ 31 }).test ∧
      ∃ r : Bar, r.arrived = (b.arrived + x) % 2 ^ 32 ∧ r.phase = b.phase ∧ r.armed = b.armed ∧ r.expect = b.expect ∧ r.packed = p.getD b.packed ∧
        r.fault = (if c = 0 then b.fault else if b.fault = 0 then c else min b.fault c) ∧ b.credit x c p = r.test) ∧
  (∀ (i : Instr) (d a : BitVec 8) (arm : Bool), (i = .barinit d a ∧ arm = false ∨ i = .bararm d a ∧ arm = true) → ∀ s : State, Clear i s →
      let cw := (now s).rdU a.toNat 1
      let x := (now s).rdU d.toNat 1
      let n := cwTarget cw
      let old := ccWord s.ct n
      (cwBad cw = true → s.cur.phase = .alone → exec i s = .next (takeTrap s 0x06 (wordVal s 1))) ∧
      (cwBad cw = false → cwBar cw = false → ∃ t, exec i s = .next t ∧
        t.ct.cc = Tbl.put s.ct.cc n (BitVec.ofNat 32 (if arm then old / 2 ^ 31 * 2 ^ 31 + (old + x) % 2 ^ 31 else x % 2 ^ 31)) 0 ∧
        (∀ k < 4, nb t.ct.ccf.toNat (8 * k) 8 = if k = n ∧ arm = false then 0 else nb s.ct.ccf.toNat (8 * k) 8) ∧
        { t.ct with cc := s.ct.cc, ccf := s.ct.ccf } = s.ct ∧ (∀ k, k ≠ s.cur.tk → t.team k = s.team k) ∧
        (∀ key, key ≠ 2 ^ 48 + 8 * s.cur.tk + n → Tbl.find? t.seen key = Tbl.find? s.seen key) ∧ { t with teams := s.teams, seen := s.seen } = s) ∧
      (cwBad cw = false → cwBar cw = true → n % 16 = 0 → lmOk s.ct n 16 = true → s.ct.count 2 < 63 →
        exec i s = .next (startAcc s (.bar arm) 16 1 1 2 0 true [{ lane := 0, va := n, loc := .lm (lmKey s s.ct n), data := x }])) ∧
      (cwBad cw = false → cwBar cw = true → n % 16 ≠ 0 → s.cur.phase = .alone → exec i s = .next (takeTrap s 0x07 n)) ∧
      (cwBad cw = false → cwBar cw = true → n % 16 = 0 → lmOk s.ct n 16 = false → s.cur.phase = .alone → exec i s = .next (takeTrap s 0x10 n)))

/-- R40, R275: PBAR, DBAR and WBAR release, and their team waits at the phase of its network; that of the last member to arrive, whose
release has performed, completes the phase and does not wait; DBAR and WBAR trap with OPERAND outside a
co-resident sowing. R275: a phase completes when every member that has not ended has arrived, with its release performed; then every one of them is
ready again. Until then nothing happens. That an event which is not enabled changes nothing is the model's choice (log entry 2).
Completes: pbar, dbar, wbar and netbarPhaseComplete. -/
def Obligations.NetworkBarriers : Prop :=
  (∀ (i : Instr) (n : Nat), (i = .pbar ∧ n = 0 ∨ i = .dbar ∧ n = 1 ∨ i = .wbar ∧ n = 2) → ∀ s : State, Clear i s →
      let co := (s.plot (s.cur.tk / 16)).cores
      let a := if n = 0 then s.cur.tk / 16 else s.cur.tk / 16 / 2 ^ 32
      let live := (netMembers s n a (domOf s.ct.core)).filter fun tk => (s.team tk).st != .ended
      let has (tk : Nat) : Prop := releaseReady s tk ((s.team tk).grp + 1) (n + 1) = true ∧ (s.team tk).rerr = false ∧ gleanOf s tk = []
      let all_ : Prop := live ≠ [] ∧ ∀ tk ∈ live, (s.plot (tk / 16)).resident = true ∧ has tk ∧
        ((s.team tk).st = .netWait n ∨ tk = s.cur.tk ∧ s.ct.st = .ready)
      ((n = 0 ∨ co = true) → Free s → ¬ all_ → exec i s = .next (waits s (.netWait n))) ∧
      ((n = 0 ∨ co = true) → Free s → all_ → ∃ t, exec i s = .next t ∧ (∀ tk, tk ∉ live → t.team tk = s.team tk) ∧
        (s.cur.tk ∈ live → s.ct.st = .ready → t.ct = s.ct) ∧
        (∀ tk ∈ live, (s.team tk).st = .netWait n → (s.team tk).later = [] → (s.team tk).after = none → (t.team tk).st = .ready) ∧
        (n = 0 → (t.plot a).pbarPhase = ((s.plot a).pbarPhase + 1) % 2 ^ 16) ∧
        (n = 1 → Tbl.getD (t.sow a).dbar (domOf s.ct.core) 0 = Tbl.getD (s.sow a).dbar (domOf s.ct.core) 0 + 1) ∧
        (n = 2 → (t.sow a).wbar = (s.sow a).wbar + 1)) ∧
      ((n = 0 ∨ co = true) → s.ct.rerr = true → s.cur.phase = .alone → exec i s = .next (takeTrap s 0x18 (5 * 2 ^ 60))) ∧
      (n ≠ 0 → co = false → s.cur.phase = .alone → exec i s = .next (takeTrap s 0x06 (wordVal s 2)))) ∧
  (∀ s : State,
      let x := s.cur.arg
      let live := (netMembers s x.c x.a x.b).filter fun tk => (s.team tk).st != .ended
      let arrived (tk : Nat) : Prop := (s.team tk).st = .netWait x.c ∧ (s.plot (tk / 16)).resident = true ∧
        releaseReady s tk ((s.team tk).grp + 1) (x.c + 1) = true ∧ (s.team tk).rerr = false ∧ gleanOf s tk = []
      (live ≠ [] → (∀ tk ∈ live, arrived tk) → ∃ t, exec .netbarPhaseComplete s = .next t ∧
        (∀ tk ∈ live, (s.team tk).later = [] → (s.team tk).after = none → (t.team tk).st = .ready) ∧ (∀ tk, tk ∉ live → t.team tk = s.team tk) ∧
        (x.c = 0 → (t.plot x.a).pbarPhase = ((s.plot x.a).pbarPhase + 1) % 2 ^ 16) ∧
        (x.c = 1 → Tbl.getD (t.sow x.a).dbar x.b 0 = Tbl.getD (s.sow x.a).dbar x.b 0 + 1) ∧
        (2 ≤ x.c → (t.sow x.a).wbar = (s.sow x.a).wbar + 1)) ∧
      ((live = [] ∨ ∃ tk ∈ live, ¬ arrived tk) → exec .netbarPhaseComplete s = .next s))

/-! ## Tiles, the matrix engine, the copy engine -/

/-- R86, R154, R167: TSHAPE writes a tile control register with latency 2; a shape that breaks R86 traps with TILE_SHAPE. R155, R160, R161, R162: TZERO, TMMA and TMMAF post an entry to the matrix FIFO with the shapes, the completion word and, for
TMMAF, the fetch that their operands give. Completes: tshape, tzero, tmma and tmmaf. -/
def Obligations.TileShapeAndMatrixPost : Prop :=
  (∀ (d a : BitVec 8) (s : State), Clear (.tshape d a) s →
      let v := (now s).rdU a.toNat 1
      (shapeBad v = false → exec (.tshape d a) s = .next (result s (some 2) s.cur.cyc [(.tc d.toNat, v)])) ∧
      (shapeBad v = true → s.cur.phase = .alone → exec (.tshape d a) s = .next (takeTrap s 0x1C (s.cur.word % 2 ^ 32 + 2 ^ 32)))) ∧
  (∀ s : State, s.ct.fences = [] → s.ct.count 4 < 63 →
      let t := now s
      let tc (n : BitVec 8) := tcOf t n.toNat
      let acts (a : BitVec 8) : Prop := nb (tc a) 29 3 = 0 ∧ nb (tc a) 21 8 = 31 ∧ nb (tc a) 13 8 = 255 ∧ nb (tc a) 11 2 = 1 ∧
        s.ct.tileOut a.toNat (shapeOf (tc a)) = false
      let wts (b : BitVec 8) : Prop := nb (tc b) 29 3 = 1 ∧ nb (tc b) 21 8 = 255 ∧ nb (tc b) 13 8 = 63 ∧ nb (tc b) 11 2 = 2 ∧
        s.ct.tileOut b.toNat (shapeOf (tc b)) = false
      let acc (d : Nat) : Prop := s.ct.outside (s.ct.accBase d) 8192 = false
      (∀ d a, Clear (.tzero d a) s → CwOk s (t.rdU a.toNat 1) →
        (if d.toNat < 0x80 then s.ct.outside (s.ct.tileBase d.toNat) (shapeOf (tc d)).data = false else acc (d.toNat - 0x80)) →
        exec (.tzero d a) s = .next (posted s { id := s.fresh, tk := s.cur.tk, grp := s.ct.grp, kind := 2, d := d.toNat, a := 0, b := 0
                                                tca := BitVec.ofNat 32 (tc d), cw := BitVec.ofNat 32 (t.rdU a.toNat 1), was := s.ct.accepted
                                                bytes := if d.toNat < 0x80 then (shapeOf (tc d)).data else 8192 })) ∧
      (∀ d a b e, Clear (.tmma d a b e) s → CwOk s (t.rdU (eXop e) 1) → acts a → wts b → acc d.toNat →
        exec (.tmma d a b e) s = .next (posted s { id := s.fresh, tk := s.cur.tk, grp := s.ct.grp, kind := 0, d := d.toNat, a := a.toNat, b := b.toNat
                                                   tca := BitVec.ofNat 32 (tc a), tcb := BitVec.ofNat 32 (tc b)
                                                   cw := BitVec.ofNat 32 (t.rdU (eXop e) 1), was := s.ct.accepted })) ∧
      (∀ d a b e, Clear (.tmmaf d a b e) s → badHandle (.tmmaf d a b e) s = false → CwOk s (t.rdU (eXop e) 1) → acts a → acc d.toNat →
        let fs := handleFrags t weightShape b.toNat 0 4096
        hBase t b.toNat % 16 = 0 → hStride t b.toNat % 16 = 0 → 16 ≤ hStride t b.toNat →
        (∀ f ∈ fs.flatMap cut, (vaCheck s s.cur.tk false f.va).1 = 0) →
        exec (.tmmaf d a b e) s = .next (posted s { id := s.fresh, tk := s.cur.tk, grp := s.ct.grp, kind := 1, d := d.toNat, a := a.toNat, b := b.toNat
                                                    tca := BitVec.ofNat 32 (tc a), cw := BitVec.ofNat 32 (t.rdU (eXop e) 1), was := s.ct.accepted
                                                    spec := readWork (fun va => .mem (vaCheck s s.cur.tk false va).2) .buf fs })))

/-- R156, R157, R269: TLD and TST start a transfer of the block that their group describes, counted on `ld`, `st` or `lm`; their footprint
is aligned, inside the window, and passes the checks of R167. Completes: tld and tst. -/
def Obligations.TileTransferStarts : Prop :=
  ∀ (i : Instr) (st : Bool) (d a q : BitVec 8), (i = .tld d a q ∧ st = false ∨ i = .tst d a q ∧ st = true) → ∀ s : State, Clear i s → s.ct.fences = [] →
    let t := now s
    let lm := q.toNat % 4 == 3
    let base := if lm then t.rdU a.toNat 1 else t.rdU a.toNat 2
    let stride := t.rdU (a.toNat + 2) 1
    let cw := t.rdU (a.toNat + 3) 1
    let h : Shape := if st then ⟨32, 32, 64, 0, 0⟩ else shapeOf (tcOf t d.toNat)
    let off := if st then s.ct.accBase d.toNat else s.ct.tileBase d.toNat
    let fs := blockFrags base stride h.rows h.rowBytes h.scales off (s.ct.scaleBase h)
    let path := if lm then 2 else if st then 1 else 0
    let rel := st && q.toNat / 32 == 3
    CwOk s cw → (if st then s.ct.outside off 8192 = false else s.ct.tileOut d.toNat h = false) →
    base % 16 = 0 → stride % 16 = 0 → h.rowBytes ≤ stride →
    (if lm then ∀ f ∈ fs, firstOut s.ct (2 ^ 21) f = none else ∀ f ∈ fs.flatMap cut, (vaCheck s s.cur.tk false f.va).1 = 0) →
    (rel = true → Free s) → (st = true → lm = false → s.ct.gleaning = false) → s.ct.count path < 63 →
    ∃ u m, exec i s = .next u ∧ Tbl.find? u.cmds s.fresh = some m ∧
      m.kind = (if st then .tst else .tld) ∧ m.tk = s.cur.tk ∧ m.core = s.ct.core ∧ m.cw = BitVec.ofNat 32 cw ∧ m.path = path ∧
      m.bytes = h.data + h.scales ∧ m.rel = rel ∧ m.acq = (!st && q.toNat / 32 == 2) ∧ m.scope = q.toNat / 4 % 8 ∧
      m.strong = (q.toNat / 32 != 0) ∧ m.grp = s.ct.grp ∧ m.started = false ∧ m.was = s.ct.accepted ∧
      m.work = (let out (x : Nat) : Place := if lm then .lm (lmKey s s.ct x) else .mem (vaCheck s s.cur.tk false x).2
                if st then writeWork (.win s.cur.tk) out fs else readWork out (.win s.cur.tk) fs) ∧
      u = { s.modCt (fun t => { t with infl := Tbl.put t.infl path (t.count path + 1) 0 }) with fresh := s.fresh + 1, cmds := Tbl.set s.cmds s.fresh m }

/-- R158, R159, R223 to R229: COPY, COPYG, COPYB and TFETCH queue a command with the bytes, the completion word and the work that
their operands give; PACKED is the count of the rows a COPYG selects. Completes: copy, copyg, copyb and tfetch. -/
def Obligations.CopyCommandQueues : Prop :=
  ∀ s : State, s.ct.fences = [] → s.ct.count 4 < 63 →
    let t := now s
    (∀ (i : Instr) (u : CopyOp), copyOp i = some u → Clear i s →
      let c := copyD t u.k u.a.toNat u.slm u.dlm
      let cw := t.rdU u.d.toNat 1
      let srcs := c.sel.map c.srcFrag
      let dsts := c.sel.zipIdx.map fun p => c.dstFrag p.2
      let vas := (if u.slm then [] else srcs) ++ (if u.dlm then [] else dsts)
      CwOk s cw → (u.k ≠ .plain → cwBar cw = true) → (u.k = .bcast → nb cw 19 2 = 0) → c.bad = false →
      c.src % 4 = 0 → c.dst % 4 = 0 → c.ss % 4 = 0 → c.ds % 4 = 0 →
      (∀ f ∈ (if u.slm then srcs else []) ++ (if u.dlm then dsts else []), firstOut s.ct (if u.k = .bcast then 2 ^ 19 else 2 ^ 21) f = none) →
      (∀ f ∈ vas.flatMap cut, (sideCheck s u.fleet f.va).1 = 0) → (u.rel = true → Free s) →
      ∃ m : Cmd, exec i s = .next (queued s m) ∧ m.id = s.fresh ∧ m.inst = s.fresh ∧ m.tk = s.cur.tk ∧ m.core = s.ct.core ∧ m.path = 4 ∧
        m.kind = (match u.k with | .plain => .copy | .gather => .copyg | .bcast => .copyb) ∧ m.cw = BitVec.ofNat 32 cw ∧
        m.bytes = c.rows * c.rbytes ∧ m.acq = u.acq ∧ m.rel = u.rel ∧ m.scope = u.scope ∧
        m.packed = (if u.k = .gather then some c.sel.length else none) ∧
        m.work = (let place (lm : Bool) (x : Nat) : Place := if lm then .lm (lmKey s s.ct x) else .mem (sideCheck s u.fleet x).2
                  c.sel.zipIdx.flatMap fun p => rowWork (place u.slm) (place u.dlm) u.cores (c.srcFrag p.1) (c.dstFrag p.2) c.rbytes)) ∧
    (∀ d a r sc l, Clear (.tfetch d a r sc l) s → badHandle (.tfetch d a r sc l) s = false →
      let cw := t.rdU (a.toNat + 4) 1
      let h := shapeOf (tcOf t d.toNat)
      let fs := handleFrags t h a.toNat (s.ct.tileBase d.toNat) (s.ct.scaleBase h)
      CwOk s cw → s.ct.tileOut d.toNat h = false →
      hBase t a.toNat % 16 = 0 → hStride t a.toNat % 16 = 0 → h.rowBytes ≤ hStride t a.toNat →
      (∀ f ∈ fs.flatMap cut, (vaCheck s s.cur.tk (l == 1) f.va).1 = 0) →
      ∃ m : Cmd, exec (.tfetch d a r sc l) s = .next (queued s m) ∧ m.id = s.fresh ∧ m.tk = s.cur.tk ∧ m.core = s.ct.core ∧ m.kind = .tfetch ∧
        m.cw = BitVec.ofNat 32 cw ∧ m.bytes = h.data + h.scales ∧ m.path = 4 ∧ m.acq = (r == 1) ∧ m.scope = sc.toNat ∧
        m.work = readWork (fun va => .mem (vaCheck s s.cur.tk (l == 1) va).2) (.win s.cur.tk) fs
          ++ zeroWork (.win s.cur.tk) (handleZeros t h a.toNat (s.ct.tileBase d.toNat) (s.ct.scaleBase h)))

/-- R230, R231, R232: IRED.M and IRED.C queue one command for each group of 16 lanes that the mask reaches, each with its output row.
Completes: iredM and iredC. -/
def Obligations.IndexedReduceQueues : Prop :=
  ∀ (i : Instr) (mside : Bool) (d a : BitVec 8), (i = .iredM d a ∧ mside = true ∨ i = .iredC d a ∧ mside = false) → ∀ s : State, Clear i s →
    s.ct.fences = [] → s.ct.count 4 < 63 →
    let t := now s
    let w (k : Nat) := t.rdU (d.toNat + k) 1
    let rb := nb (w 3) 0 11
    let gs := ((maskLanes s.ct.mask).map (· / 16)).eraseDups
    let rows := (iredRows s d.toNat a.toNat).map (·.2)
    nb (w 3) 28 4 < 3 → nb (w 3) 24 4 < 3 → nb (w 3) 11 8 = 0 → 0 < rb → rb ≤ 1024 → rb % 4 = 0 →
    scopeIll (nb (w 3) 23 1 == 1 || nb (w 3) 22 1 == 1) (nb (w 3) 19 3) = false → CwOk s (w 5) →
    (∀ x ∈ rows, x % 4 = 0 ∧ x / 1024 = (x + rb - 1) / 1024 ∧ ∀ f ∈ cut { va := x, n := rb, off := 0 }, (vaCheck s s.cur.tk false f.va).1 = 0) →
    (∀ g ∈ gs, firstOut s.ct (2 ^ 21) { va := w 4 + g * rb, n := rb, off := 0 } = none) →
    (nb (w 3) 22 1 = 1 → Free s) → gs ≠ [] →
    (s.core s.ct.core).iredQ.length < 16 → (s.core s.ct.core).stallI = [] →
    ∃ u, exec i s = .next u ∧ (u.core s.ct.core).iredQ = (s.core s.ct.core).iredQ ++ [s.fresh] ∧
      u.ct = { s.ct with infl := Tbl.put s.ct.infl 4 (s.ct.count 4 + 1) 0 } ∧ u.fresh = s.fresh + 1 + gs.length ∧
      (∀ g k, gs[k]? = some g → ∃ m, Tbl.find? u.cmds (s.fresh + 1 + k) = some m ∧ m.inst = s.fresh ∧ m.kind = .ired mside ∧
        m.tk = s.cur.tk ∧ m.dst = lmKey s s.ct (w 4 + g * rb) ∧ m.bytes = rb ∧ m.cw = BitVec.ofNat 32 (w 5) ∧
        m.typ = nb (w 3) 28 4 ∧ m.op = nb (w 3) 24 4)

/-- R205, R206, R235, R260, R262 to R266: cache maintenance, queries, launches and table instructions send one request with what their
operands name, counted on `en`; a SOW with REL is a release first.
Completes: vclean, vinval, vcflush, vcquery, vcdef, vcresize, rgset, ptinv, replay and sow. -/
def Obligations.RequestResult : Prop :=
  ∀ s : State, s.ct.fences = [] → s.ct.count 4 < 63 →
    let t := now s
    let va (a : BitVec 8) := t.rdU a.toNat 2
    let ia (a : BitVec 8) := vaCheck s s.cur.tk false (va a)
    let w (d : BitVec 8) (k : Nat) : Word := BitVec.ofNat 32 (t.rdU (d.toNat + k) 1)
    (∀ (i : Instr) (d a : BitVec 8) (op : Nat), (i = .vclean d a ∧ op = 0 ∨ i = .vinval d a ∧ op = 1 ∨ i = .vcflush d a ∧ op = 2) → Clear i s →
      let runs := pageRuns (va a) (t.rdU d.toNat 1)
      (∀ r ∈ runs, (vaCheck s s.cur.tk false r.1).1 ≠ 0x11) →
      exec i s = .next (requested s 248 (.vcm op (runs.map fun r => ((vaCheck s s.cur.tk false r.1).2, r.2))))) ∧
    (∀ d a, Clear (.vcquery d a) s → (ia a).1 = 0 → exec (.vcquery d a) s = .next (requested s d.toNat (.vcquery (ia a).2))) ∧
    (∀ d a, Clear (.vcdef d a) s → va a % 64 = 0 → (ia a).1 = 0 → exec (.vcdef d a) s = .next (requested s d.toNat (.vcdef (ia a).2))) ∧
    (∀ d a, Clear (.vcresize d a) s → va a % 64 = 0 → (ia a).1 = 0 → exec (.vcresize d a) s = .next (requested s d.toNat (.vcresize (ia a).2))) ∧
    (∀ d a, Clear (.rgset d a) s → va a % 32 = 0 → (ia a).1 = 0 →
      exec (.rgset d a) s = .next (requested s d.toNat (.rgset (ia a).2 (w d 0) (w d 1)))) ∧
    (∀ d a, Clear (.ptinv d a) s → pageIaBad (va a) (t.rdU d.toNat 1) = false →
      exec (.ptinv d a) s = .next (requested s 248 (.ptinv (va a) (t.rdU d.toNat 1)))) ∧
    (∀ d a, Clear (.replay d a) s → ((w a 1).toNat < 2 ^ 31 → pageIaBad ((w a 0).toNat + 2 ^ 32 * (w a 1).toNat) 1 = false) →
      exec (.replay d a) s = .next (requested s d.toNat (.replay (w a 0) (w a 1)))) ∧
    (∀ d a r sc, Clear (.sow d a r sc) s → (r = 1 → Free s) →
      let u := requested s d.toNat (.sow ((List.range 8).map (w a) ++ [if s.ct.priv then 1 else 0]) (if r = 1 then some sc.toNat else none))
      exec (.sow d a r sc) s = .next (if r = 1 then u.modCt fun t => { t with fences := [⟨true, sc.toNat, t.grp⟩] } else u))

/-! ## The loam level -/

/-- R295, R300, R301: an encoding that a loam core rejects stops the plot with cause 1; a register still to be written holds it. R295, R296: a page
still moving, or a class-0 plot queued on its core, holds it before that: that such a hold comes before the word is looked at, an illegal one too, is read from the spec by
inference (log entry 22). Completes: loamUnassignedOpcode. -/
def Obligations.LoamIllegalAndHeld : Prop :=
  (∀ (w : Word) (s : State), LoamFree s → exec (.loamUnassignedOpcode w) s = .next (loamStop s s.lrun 1 0 0 false)) ∧
  ∀ (i : Instr) (s : State), forLoam i = true →
    (¬ LoamFree s → exec i s = .next s) ∧
    (LoamFree s → loamIllegal i = true → exec i s = .next (loamStop s s.lrun 1 0 0 false)) ∧
    (LoamFree s → loamIllegal i = false → (∃ a ∈ (s.lplot s.lrun).out, ∃ r ∈ loamRegs i, a.owes r = true) → exec i s = .next s)

/-- R302, R303, R305, R306: a loam instruction that writes a w register writes the lanes of its mask, VSEL all of them, and no other
register. R305, R306: a loam compare or mask operation writes the 32 bits of one k register, and no other register. R304, R306, R307: a loam scalar or reduction writes one x register and no other; x0 discards the value.
Completes: every instruction of `loamVector`, `loamMask` and `loamScalar`. -/
def Obligations.LoamRegisterResult : Prop :=
  (∀ (i : Instr) (u : LoamVec), loamVector i = some u → ∀ s : State, LoamClear i s →
      let p := s.lplot s.lrun
      ∃ q, exec i s = .next (loamNext s q) ∧ { q with w := p.w } = p ∧
        ∀ n < 32, ∀ j < 32, q.rdW n j =
          if n = u.d.toNat ∧ (∀ k, u.k = some k → (p.rdK k.toNat).testBit j = true) then u.val p j % 2 ^ 32 else p.rdW n j) ∧
  (∀ (i : Instr) (d : BitVec 5) (bit : LPlot → Nat → Bool), loamMask i = some (d, bit) → ∀ s : State, LoamClear i s →
      let p := s.lplot s.lrun
      ∃ q, exec i s = .next (loamNext s q) ∧ { q with k := p.k } = p ∧
        ∀ n < 4, ∀ j < 32, (q.rdK n).testBit j = if n = d.toNat then bit p j else (p.rdK n).testBit j) ∧
  (∀ (i : Instr) (d : BitVec 5) (val : LPlot → BitVec 64), loamScalar i = some (d, val) → ∀ s : State, LoamClear i s →
      let p := s.lplot s.lrun
      ∃ q, exec i s = .next (loamNext s q) ∧ { q with x := p.x } = p ∧
        ∀ n < 16, q.rdX n = if n = d.toNat ∧ n ≠ 0 then (val p).toNat else p.rdX n)

/-- R293, R295, R308, R309: VLD, VST, VGATHER, SLD and SST check every lane before any performs; the lowest cause that a lane meets
stops the plot. An access without a cause is then on its way with its lanes, behind the plot's earlier ones. R294, R308: BLD and BST read and write the plot's bytes of the buffer, lane by lane, at once; a misaligned address stops the plot with
cause 3, else one at or beyond the allocation with cause 9. That, of several lanes with causes, the lowest cause over all lanes is the one reported (cause 3 before
cause 9) is the model's choice: the spec gives no order among lanes (log entry 22). Completes: every instruction of `loamMemOp`, loamBld and loamBst. -/
def Obligations.LoamMemoryResult : Prop :=
  (∀ (i : Instr) (m : LoamMem), loamMemOp i = some m → ∀ s : State, LoamClear i s →
      let p := s.lplot s.lrun
      let va (j : Nat) : Nat := (m.addr p j).toNat
      let ls := loamLanes p m.k
      ((∀ j ∈ ls, ∀ c, ¬ loamCause s p m.n (va j) c) → exec i s = .next (loamNext s { p with
        out := if ls = [] then p.out else p.out ++ [{
          kind := m.kind, reg := m.reg, n := m.n, lanes := ls.map fun j => (j, va j, (loamIa s p (va j)).getD 0, m.data p j) }] })) ∧
      (∀ c, (∃ j ∈ ls, loamCause s p m.n (va j) c) → (∀ j ∈ ls, ∀ e, loamCause s p m.n (va j) e → c ≤ e) →
        exec i s = .next (loamStop s s.lrun c 0 0 false))) ∧
  (∀ (i : Instr) (st : Bool) (d a : BitVec 5) (k : BitVec 2) (o : BitVec 9), (i = .loamBld d a k o ∧ st = false ∨ i = .loamBst d a k o ∧ st = true) →
      ∀ s : State, LoamClear i s →
      let p := s.lplot s.lrun
      let at_ (j : Nat) : Nat := (loamAddr a o p j).toNat
      let ls := loamLanes p (some k)
      ((∃ j ∈ ls, at_ j % 4 ≠ 0) → exec i s = .next (loamStop s s.lrun 3 0 0 false)) ∧
      ((∀ j ∈ ls, at_ j % 4 = 0) → (∃ j ∈ ls, p.lmem ≤ at_ j) → exec i s = .next (loamStop s s.lrun 9 0 0 false)) ∧
      ((∀ j ∈ ls, at_ j % 4 = 0 ∧ at_ j < p.lmem) → ∃ q, exec i s = .next (loamNext s q) ∧ { q with w := p.w, buf := p.buf } = p ∧
        (∀ n < 32, ∀ j < 32, q.rdW n j = if st = false ∧ n = d.toNat ∧ j ∈ ls then Mem.read p.buf (at_ j) 4 else p.rdW n j) ∧
        (∀ j ∈ ls, st = true → Mem.read q.buf (at_ j) 4 = p.rdW d.toNat j) ∧
        (∀ x, (st = false ∨ ∀ j ∈ ls, x < at_ j ∨ at_ j + 4 ≤ x) → Mem.get q.buf x = Mem.get p.buf x)))

/-- R310: BR, BCC and LOOP. A taken branch counts words from its own word, and stops the plot with cause 2 outside the image, before LOOP
changes its counter; one not taken goes on, whatever its target. R298, R311: SYNC and DONE wait for every earlier access, YIELD for every earlier load. SYNC then goes on; DONE retires the plot, which leaves its core; YIELD
goes on unless another plot of no higher class is queued, to which it gives up the core, as the youngest of the queue.
Completes: loamBr, loamBcc, loamLoop, loamSync, loamDone and loamYield. -/
def Obligations.LoamControlResult : Prop :=
  (∀ s : State, let p := s.lplot s.lrun
      let x (a : BitVec 5) : BitVec 64 := BitVec.ofNat 64 (p.rdX a.toNat)
      let goes (q : LPlot) (o : Int) (r : Host.Outcome State Fault Refusal) : Prop :=
        let t : Int := p.pc + 4 * o
        (0 ≤ t → t < p.len → r = .next (s.modLPlot s.lrun fun _ => { q with pc := t.toNat })) ∧
        (t < 0 ∨ (p.len : Int) ≤ t → r = .next (loamStop s s.lrun 2 0 0 false))
      (∀ o, LoamClear (.loamBr o) s → goes p o.toInt (exec (.loamBr o) s)) ∧
      (∀ c a o, LoamClear (.loamBcc c a o) s →
        let z := (x a).toInt
        let holds : Prop := (c = 0 ∧ z = 0) ∨ (c = 1 ∧ z ≠ 0) ∨ (c = 2 ∧ z < 0) ∨ (c = 3 ∧ 0 ≤ z) ∨ (c = 4 ∧ 0 < z) ∨ (c = 5 ∧ z ≤ 0)
        (holds → goes p o.toInt (exec (.loamBcc c a o) s)) ∧ (¬ holds → exec (.loamBcc c a o) s = .next (loamNext s p))) ∧
      (∀ a o, LoamClear (.loamLoop a o) s →
        let q := p.putX a.toNat (x a - 1).toNat
        (x a ≠ 1 → goes q o.toInt (exec (.loamLoop a o) s)) ∧ (x a = 1 → exec (.loamLoop a o) s = .next (loamNext s q)))) ∧
  (∀ s : State, let pid := s.lrun
      let p := s.lplot pid
      let l := s.loam p.lk
      (LoamClear .loamSync s → exec .loamSync s = .next (if p.out = [] then loamNext s p else s)) ∧
      (LoamClear .loamDone s → p.out ≠ [] → exec .loamDone s = .next s) ∧
      (LoamClear .loamDone s → p.out = [] → ∃ t, exec .loamDone s = .next t ∧
        Tbl.find? t.lplots pid = none ∧ (∀ k, k ≠ pid → Tbl.find? t.lplots k = Tbl.find? s.lplots k) ∧
        t = { s with
          lplots := t.lplots
          loams := Tbl.set s.loams p.lk { l with queue := l.queue.filter (· != pid), run := if l.run = some pid then none else l.run }
          sows := Tbl.set s.sows p.sow { s.sow p.sow with retired := (s.sow p.sow).retired + 1 } }) ∧
      (LoamClear .loamYield s → (∃ a ∈ p.out, a.kind ≠ 1 ∧ a.kind ≠ 3) → exec .loamYield s = .next s) ∧
      (LoamClear .loamYield s → (∀ a ∈ p.out, a.kind = 1 ∨ a.kind = 3) → (∀ o ∈ l.queue, o ≠ pid → p.cls < (s.lplot o).cls) →
        exec .loamYield s = .next (loamNext s p)) ∧
      (LoamClear .loamYield s → (∀ a ∈ p.out, a.kind = 1 ∨ a.kind = 3) → l.run = some pid → (∃ o ∈ l.queue, o ≠ pid ∧ (s.lplot o).cls ≤ p.cls) →
        ∃ t, exec .loamYield s = .next t ∧ (t.loam p.lk).run = none ∧ (t.loam p.lk).queue = l.queue.filter (· != pid) ++ [pid] ∧
          t.lplot pid = { p with pc := (p.pc + 4) % 2 ^ 16, lstat := lstatOf 1 0 0 (p.lk % 12), spill := 0 } ∧
          (∀ k, k ≠ pid → t.lplot k = s.lplot k) ∧ (∀ k, k ≠ p.lk → t.loam k = s.loam k) ∧ t.sows = s.sows))

/-! ## Accesses at the home and the banks -/

/-- R174 to R176, R196, R209, R281: a lane that may perform does so. A load takes its value, at its bank, from a line of its core's L1 that may serve it,
or at its home; a store is written; a page without the permission refuses it, one that is not present faults it; another node answers for
its own memory, and its value comes with the event (log entry 15); that a load at .wafer fills no cache is log entry 21. R326, R346: a request that
leaves the wafer notes the tick at which it left and its port; no answer comes before it has left, nor to one that was lost with its port. R177 to R179: a load by
another domain, weak or narrower than .wafer, is served by that domain's remote-class copy, if it holds one under the page's hint; otherwise the home's
bytes, which fill that copy where the record allocates and the block is not pending. R249: an access whose page faults, or is moving, takes the token of the page's live wait entry, or of a new one in the lowest free
place; while the table is full it waits at the home's fault stage. That an event which is not enabled changes nothing is the model's choice (log entry 2).
Completes: memoryRequestAtHome. -/
def Obligations.MemoryRequestPerforms : Prop :=
  (∀ (s : State) (a : Acc) (l : Lane), let x := s.cur.arg
      laneOf s x.a x.b = some (a, l) → l.st = .pending → mayPerform s a l = true →
      let r := exec .memoryRequestAtHome s
      let v := if a.isRel then releaseBy s a.tk a.core a.scope a.grp 1 else s
      let w := a.kind == .wakea
      let leaves : Prop := Outside s a l ∧ l.sent = none
      let acquired (u : State) : State := if a.isAcq then acquireAct u a.tk a.core a.scope else u
      (leaves → ∃ p : Sent, p.at_ = s.tick ∧
        (portFor s (laneIa l) = some p.port ∧ p.lost = false ∨ portFor s (laneIa l) = none ∧ p.lost = true) ∧
        r = .next (s.setAcc { a with lanes := a.lanes.map fun m => if m.lane = l.lane then { m with sent := some p } else m })) ∧
      (x.c = 1 ∨ l.lost = true → ¬ leaves → r = .next s) ∧
      (x.c ≠ 1 → ¬ leaves → l.lost = false →
        (∀ k sg, l.loc = .lm k → a.kind = .load sg → ∃ t, r = .next t ∧ t.spm = s.spm ∧ t.dram = s.dram ∧
          laneNow t a l = some { l with st := .fixed (Mem.read s.spm k a.z) } ∧
          (NoBarWait s → a.isRel = false → t = (acquired s).setAcc (setLane a l.lane (.fixed (Mem.read s.spm k a.z))))) ∧
        (∀ k, l.loc = .lm k → a.kind = .store → ∃ t, r = .next t ∧ Mem.read t.spm k a.z = l.data % 2 ^ (8 * a.z) ∧
          (∀ y, y < k ∨ k + a.z ≤ y → Mem.get t.spm y = Mem.get s.spm y) ∧ t.dram = s.dram) ∧
        (∀ ia sg, l.loc = .ia ia → a.kind = .load sg →
          let looks := a.l1May && l.left.isNone
          let b := if looks then pmcAdd (({ s with fresh := s.fresh + 1 } : State).setAcc
            { a with lanes := a.lanes.map fun m => if m.lane == l.lane then { m with left := some s.fresh } else m }) a.core 3 1 else s
          let took (t : State) (n : Nat) : Prop := t.accs = (setLaneSt b a.id l.lane (.fixed n)).accs ∧ (a.isAcq = false → t.teams = s.teams)
          (looks = true → ∀ u n, l1Read s a.core ia a.z = some (u, n) → r = .next (setLaneSt (acquired (pmcAdd u a.core 2 1)) a.id l.lane (.fixed n))) ∧
          (looks = false ∨ l1Read s a.core ia a.z = none →
            (iaNode ia ≠ 0 → ∃ t, r = .next t ∧ took t (x.ext % 2 ^ (8 * a.z))) ∧
            (iaNode ia = 0 → a.dom = iaHome ia ∨ a.ord ≠ 0 ∧ 3 ≤ a.scope →
              (∀ u vc key p, pageOf b (iaHome ia) ia x.flag = (u, .local_ vc key p) →
                let c := countUndef u a.dom (a.dom != iaHome ia) vc
                (permRead p = true → ∃ t, r = .next t ∧ t.spm = s.spm ∧
                  took t (if a.dom = iaHome ia then (homeRead c a.dom vc ia key a.z).2 else homePeek c (iaHome ia) key a.z)) ∧
                (permRead p = false → r = .next (setLaneSt u a.id l.lane (.refused 0x12)))) ∧
              (∀ u k, pageOf b (iaHome ia) ia x.flag = (u, .fault k) → r = .next (laneFault u a l ia k))) ∧
            (iaNode ia = 0 → a.dom ≠ iaHome ia → a.ord = 0 ∨ a.scope < 3 →
              let own := (hintOf (b.dom a.dom) ia).map fun vc => vcFind b a.dom true vc ia
              let low := match own with | some (u, _) => u | none => b
              (∀ u y, own = some (u, some y) → ∃ t, r = .next t ∧ t.spm = s.spm ∧ took t (y.rd ia a.z)) ∧
              (own = none ∨ own = some (low, none) →
                (∀ u vc key p, pageOf low (iaHome ia) ia x.flag = (u, .local_ vc key p) →
                  (permRead p = true → ∀ y, remoteFill (readAtHome u a.dom (iaHome ia) vc ia key a.z).1 (iaHome ia) a.dom vc ia key a.tk a.grp = some y →
                    ∃ t, r = .next t ∧ t.spm = s.spm ∧ took t (homePeek u (iaHome ia) key a.z)) ∧
                  (permRead p = false → r = .next (setLaneSt u a.id l.lane (.refused 0x12)))) ∧
                (∀ u k, pageOf low (iaHome ia) ia x.flag = (u, .fault k) → r = .next (laneFault u a l ia k)))))) ∧
        (∀ ia, l.loc = .ia ia → a.kind = .store ∨ a.kind = .wakea →
          let kept (u : State) : State := setLaneSt (if a.queued then u else l1Store u a.core ia a.z l.data) a.id l.lane .written
          (iaNode ia ≠ 0 → r = .next (kept v)) ∧
          (iaNode ia = 0 →
            (∀ u vc key p, pageOf v (iaHome ia) ia x.flag = (u, .local_ vc key p) →
              (permWrite p = true → ∃ t, r = .next t ∧ t = kept (storeAtHome u (iaHome ia) vc ia key a.z l.data a.dom a.tk a.grp w) ∧
                (a.dom = iaHome ia → (Tbl.getD (s.dom a.dom).vcs vc {}).st = 0 → t.dram = Mem.write s.dram key l.data a.z)) ∧
              (permWrite p = false → r = .next (setLaneSt u a.id l.lane (.refused 0x12)))) ∧
            (∀ u k, pageOf v (iaHome ia) ia x.flag = (u, .fault k) → r = .next (laneFault u a l ia k)))))) ∧
  (∀ (s t : State) (home dom vc ia key by_ grp : Nat), dom ≠ home → remoteFill s home dom vc ia key by_ grp = some t →
      hintOf (t.dom dom) ia = some vc ∧ (fillGeo (Tbl.getD (s.dom dom).vcs vc {}) true = none → (t.dom dom).lines = (s.dom dom).lines) ∧
      ∀ g gen b set, fillGeo (Tbl.getD (s.dom dom).vcs vc {}) true = some (g, gen) → g.place (s.dom dom) ia = some (b, set) →
        ((∃ e, dirFind (s.dom home) (ia / 256) = some e ∧ e.pend ≠ []) → (t.dom dom).lines = (s.dom dom).lines) ∧
        ((∀ e, dirFind (s.dom home) (ia / 256) = some e → e.pend = []) → (∀ x ∈ (s.dom dom).lines, x.remote = true → x.dirty = false) →
          (∃ e, dirFind (t.dom home) (ia / 256) = some e ∧ dom ∈ e.sharers) ∧
          ∃ x ∈ (t.dom dom).lines, x.remote = true ∧ x.vc = vc ∧ x.gen = gen ∧ x.base = ia / g.size * g.size ∧ x.size = g.size ∧
            x.data = homePeek s home (key - (ia - x.base)) g.size)) ∧
  (∀ (s : State) (a : Acc) (l : Lane) (ia kind : Nat), (s.plot (a.tk / 16)).st ≠ .stopping →
      let d := s.dom (iaHome ia)
      let t := laneFault s a l ia kind
      (∀ i e, waitOf d (ia / 2 ^ 16) = some (i, e) → t = setLaneSt s a.id l.lane (.faulted (e.token i) false)) ∧
      (∀ i, waitOf d (ia / 2 ^ 16) = none → waitFree d = some i → ∃ e : WaitE, Tbl.find? (t.dom (iaHome ia)).wait i = some e ∧
        t.accs = (setLaneSt s a.id l.lane (.faulted (e.token i) false)).accs ∧ e.v = true ∧ e.gen ≠ 0 ∧ e.kind = kind ∧ e.waiters = 1 ∧
        e.page = ia / 2 ^ 16 ∧ e.st = (if kind = 0 then 2 else 0) ∧ e.tick = s.tick) ∧
      (waitOf d (ia / 2 ^ 16) = none → waitFree d = none → (t.dom (iaHome ia)).stageQ = d.stageQ ++ [(a.id, l.lane)] ∧
        t.accs = (setLaneSt s a.id l.lane .stage).accs))

/-- R180, R197 to R199: an atomic is one read and one write: the lane takes the old value, and the place the new one, with the line that its
core's L1 holds (R176); another node answers for its own memory, once the request has left (R346), and the old value there comes with the event (log entry 15).
Completes: atomicAtHome. -/
def Obligations.AtomicPerforms : Prop :=
  ∀ (s : State) (a : Acc) (l : Lane), let x := s.cur.arg
    laneOf s x.a x.b = some (a, l) → l.st = .pending → mayPerform s a l = true →
    l.lost = false → l.data < 2 ^ (8 * a.z) → l.cmp < 2 ^ (8 * a.z) →
    let r := exec .atomicAtHome s
    let v := if a.isRel then releaseBy s a.tk a.core a.scope a.grp 1 else s
    let leaves : Prop := Outside s a l ∧ l.sent = none
    let new (o : Nat) : Nat := match a.kind with
      | .atom op => (atomicW op (BitVec.ofNat (8 * a.z) o) (BitVec.ofNat _ l.data) (BitVec.ofNat _ l.cmp)).toNat
      | _ => a.kind.newValue a.z o l.data l.cmp
    let took (t : State) (ia old : Nat) : State :=
      let t := l1Store t a.core ia a.z (a.kind.newValue a.z old l.data l.cmp)
      setLaneSt (if a.isAcq then acquireAct t a.tk a.core a.scope else t) a.id l.lane (.fixed old)
    ((∃ op, a.kind = .atom op) ∨ ∃ op, a.kind = .fatom op) →
    (leaves → ∃ p : Sent, p.at_ = s.tick ∧ r = .next (s.setAcc { a with lanes := a.lanes.map fun m => if m.lane = l.lane then { m with sent := some p } else m })) ∧
    (∀ k, l.loc = .lm k → ∃ t, r = .next t ∧ Mem.read t.spm k a.z = new (Mem.read s.spm k a.z) % 2 ^ (8 * a.z) ∧
      (∀ y, y < k ∨ k + a.z ≤ y → Mem.get t.spm y = Mem.get s.spm y) ∧ laneNow t a l = some { l with st := .fixed (Mem.read s.spm k a.z) }) ∧
    (∀ ia u vc key p, ¬ leaves → l.loc = .ia ia → iaNode ia = 0 → pageOf v (iaHome ia) ia x.flag = (u, .local_ vc key p) →
      let h := homeRead u (iaHome ia) vc ia key a.z
      (permAtom p = true → r = .next (took (storeAtHome h.1 (iaHome ia) vc ia key a.z (a.kind.newValue a.z h.2 l.data l.cmp) a.dom a.tk a.grp false) ia h.2)) ∧
      (permAtom p = false → r = .next (setLaneSt u a.id l.lane (.refused 0x12)))) ∧
    (∀ ia, ¬ leaves → l.loc = .ia ia → iaNode ia ≠ 0 → r = .next (took v ia (x.ext % 2 ^ (8 * a.z))))

/-- R181, R202 to R204: the bank of a fleeting tile serves the lanes of an access that name the tile, at one tick. R181, R182, R350: a tile whose window has passed is marked expired; the window is only lowered; a debugger reads a tile as it stands; the form of the answer is the model's (log entry 24). That an event which is not enabled changes nothing is the model's choice (log entry 2).
Completes: fleetingAccessAtBank, fleetingExpiry, retentionWindowWrite and debugFleetingRead. -/
def Obligations.FleetingTiles : Prop :=
  (∀ (s : State) (a : Acc) (l : Lane), let x := s.cur.arg
      let n := tileOf (laneIa l)
      laneOf s x.a x.b = some (a, l) → l.st = .pending → (∃ ia, l.loc = .ia ia) → tileTurn s a n = true → mayPerform s a l = true →
      let r := exec .fleetingAccessAtBank s
      let ls := tileLanes a n
      let live (l : Lane) : Bool := tileLive s (iaHome (laneIa l)) n
      let fixed (v : Lane → Nat) : Tbl Acc := (ls.foldl (fun s l => setLaneSt s a.id l.lane (.fixed (v l))) s).accs
      (a.kind = .fld → ∃ t, r = .next t ∧ t.fleet = s.fleet ∧ t.tiles = s.tiles ∧ (a.isAcq = false → a.isRel = false → t.teams = s.teams) ∧
        t.accs = fixed fun l => if live l then 1 + 2 * Mem.read s.fleet (fleetKey (laneIa l)) a.z else 0) ∧
      (a.kind = .fst → ∃ t, r = .next t ∧ t.tiles = s.tiles ∧ (a.isAcq = false → a.isRel = false → t.teams = s.teams) ∧ t.accs = (fixed fun l => if live l then 1 else 0) ∧
        t.fleet = ls.foldl (fun m l => Mem.write m (fleetKey (laneIa l)) l.data a.z) s.fleet) ∧
      (a.lanes = [l] →
        let d := iaHome (laneIa l)
        let key := 4096 * tileKey d n
        (a.kind = .fbirth → tileFenced s d n = false → ∃ t, r = .next t ∧ t.accs = (fixed fun _ => 1) ∧ tileAt t d n = ⟨false, s.tick⟩ ∧
          ∀ y, Mem.get t.fleet y = if key ≤ y ∧ y < key + 4096 then 0 else Mem.get s.fleet y) ∧
        (a.kind = .fbirth → tileFenced s d n = true → ∃ t, r = .next t ∧ t.accs = (fixed fun _ => 0) ∧ t.fleet = s.fleet ∧ t.tiles = s.tiles) ∧
        (a.kind = .frenew → ∃ t, r = .next t ∧ t.accs = (fixed fun l => if live l then 1 else 0) ∧ t.fleet = s.fleet ∧
          tileAt t d n = if live l then ⟨false, s.tick⟩ else tileAt s d n) ∧
        (a.kind = .flife → ∃ t, r = .next t ∧ t.fleet = s.fleet ∧ t.tiles = s.tiles ∧
          t.accs = fixed fun l => if live l then (s.dom d).w - (s.tick + 2 ^ 40 - (tileAt s d n).birth) % 2 ^ 40 else 0))) ∧
  (∀ s : State, let x := s.cur.arg
      (x.a < 72 → x.b < 73728 → (tileAt s x.a x.b).exp = false → tileLive s x.a x.b = false → ∃ t, exec .fleetingExpiry s = .next t ∧
        tileAt t x.a x.b = { tileAt s x.a x.b with exp := true } ∧ t.fleet = s.fleet ∧ (∀ d n, (d, n) ≠ (x.a, x.b) → n < 73728 → tileAt t d n = tileAt s d n)) ∧
      (tileLive s x.a x.b = true → exec .fleetingExpiry s = .next s) ∧
      (x.a < 72 → exec .retentionWindowWrite s = .next (s.modDom x.a fun d => { d with w := min (x.c % 2 ^ 20) d.w })) ∧
      exec .debugFleetingRead s = .next { s with replies := s.replies ++ [⟨x.node, x.tag % 2 ^ 32, [(tileAt s x.a x.b).birth, if (tileAt s x.a x.b).exp then 1 else 0, s.tick,
        if tileLive s x.a x.b then 1 else 0, Mem.read s.fleet (4096 * tileKey x.a x.b) 4096]⟩] })

/-- R195, R269: the data of an access reaches its core and is written, whatever an older result is still to write; a store is acknowledged
once it has performed at its scope. An access all of whose lanes are done leaves, and its path's counter falls. R179, R215: an invalidation enters the queue of its domain, unless 256 wait there, and is acknowledged at once; the oldest is applied to
every copy of its block; with the last acknowledgement a block leaves pending-invalidation, and the records of a fault queue
that waited for it go on (R237). That an event which is not enabled changes nothing is the model's choice (log entry 2).
Completes: loadResponse, storeAck, invalidationArrival, invalidationApply and invalidationAckAtHome. -/
def Obligations.ResponsesAndInvalidations : Prop :=
  (∀ (s : State) (a : Acc), let x := s.cur.arg
      Tbl.find? s.accs x.a = some a →
      (a.kind.returns = true → exec .loadResponse s = .next (finishAcc
        ((commit (expand s a.tk (responseWrites a)) a.tk a.grp (responseWrites a)).setAcc (written a)) x.a)) ∧
      ((a.kind = .store ∨ a.kind = .wakea ∨ ∃ arm, a.kind = .bar arm) →
        (a.ord ≠ 0 ∧ 3 ≤ a.scope ∧ invsDone s a.tk a.grp = false → exec .storeAck s = .next s) ∧
        (a.ord = 0 ∨ a.scope < 3 ∨ invsDone s a.tk a.grp = true → exec .storeAck s = .next (finishAcc s x.a))) ∧
      (a.done = false → finishAcc s x.a = s) ∧
      (a.done = true → a.counted = true → (a.kind.pureStore = true → a.ord ≠ 0 → 3 ≤ a.scope → invsDone s a.tk a.grp = true) →
        (∀ p thr, (s.team a.tk).st ≠ .counterWait p thr) → finishAcc s x.a =
        { s with accs := Tbl.erase s.accs x.a }.modTeam a.tk fun t => { t with infl := Tbl.put t.infl a.path (t.count a.path - 1) 0 })) ∧
  (∀ s : State, let x := s.cur.arg
      (∀ v : Inv, s.invs.find? (·.id == x.a) = some v → v.arrived = false →
        ((s.dom v.dom).invq.length < 256 → exec .invalidationArrival s = .next
          ({ s with invs := s.invs.map fun (w : Inv) => if w.id = x.a then { w with arrived := true } else w }.modDom v.dom fun d => { d with invq := d.invq ++ [v.block] })) ∧
        (256 ≤ (s.dom v.dom).invq.length → exec .invalidationArrival s = .next s)) ∧
      (∀ b r, (s.dom x.a).invq = b :: r → exec .invalidationApply s = .next (s.modDom x.a fun d => { d with
        invq := r, lines := d.lines.filter fun l => !(l.remote && decide (l.base < 256 * b + 256) && decide (256 * b < l.base + l.size)) })) ∧
      (∀ v : Inv, s.invs.find? (·.id == x.a) = some v → v.arrived = true →
        let u := { s with invs := s.invs.filter (·.id != x.a) }
        let done (w : State) : State := ackedRecords w v
        (v.by_ < 2 ^ 82 → (∀ p ∈ v.also, p.1 < 2 ^ 82) → ∀ w, done w = w) ∧
        (∀ d, v.by_ = 2 ^ 82 + d → v.also = [] → ∀ w, done w = drainRecords (endRecord w d) d ((endRecord w d).dom d).fqwait.length) ∧
        (v.evict = true → exec .invalidationAckAtHome s = .next (done u)) ∧
        (v.evict = false → dirFind (s.dom v.home) v.block = none → exec .invalidationAckAtHome s = .next (done u)) ∧
        (∀ e, v.evict = false → dirFind (s.dom v.home) v.block = some e → v.dom ∉ e.pend → exec .invalidationAckAtHome s = .next (done u)) ∧
        (∀ e, v.evict = false → dirFind (s.dom v.home) v.block = some e → v.dom ∈ e.pend →
          let put (e' : DirE) : State := u.modDom v.home fun d => { d with dir := d.dir.map fun y => if y.block = e.block then e' else y }
          (e.pend.erase v.dom ≠ [] → exec .invalidationAckAtHome s = .next (done <| put { e with pend := e.pend.erase v.dom })) ∧
          (e.pend.erase v.dom = [] → e.keep ≠ [] → exec .invalidationAckAtHome s = .next (done <| put { e with pend := [], sharers := e.keep, keep := [] })) ∧
          (e.pend.erase v.dom = [] → e.keep = [] → exec .invalidationAckAtHome s = .next (done <|
            u.modDom v.home fun d => { d with dir := d.dir.filter (·.block != v.block) })))))

/-- R277, R251, R178: a WAITA compares the word at its home, whose reply to another domain installs the page's hint there and brings its copy up to what was read. If it differs the team wakes; if it is equal the team joins the waiters of the block.
Its count falls either way. Completes: waitaCompare. -/
def Obligations.WatchCompare : Prop :=
  ∀ (s : State) (a : Acc) (l : Lane) (ia : Nat), let x := s.cur.arg
    laneOf s x.a 0 = some (a, l) → a.kind = .waita → l.st = .pending → l.lost = false → mayPerform s a l = true → l.loc = .ia ia → iaNode ia = 0 →
    ¬ Outside s a l →
    ∀ u vc key p, pageOf s (iaHome ia) ia x.flag = (u, .local_ vc key p) →
      let c := countUndef u a.dom (a.dom != iaHome ia) vc
      let n := homePeek c (iaHome ia) key 4
      let h : State × Nat := if a.dom = iaHome ia then homeRead c (iaHome ia) vc ia key 4
        else ((updateRemote (putHint (touchMiss (dirTouch c (iaHome ia) (ia / 256)) (iaHome ia) key) a.dom ia vc) a.dom ia 4 n).1, n)
      (permRead p = false → exec .waitaCompare s = .next (setLaneSt u a.id 0 (.refused 0x12))) ∧
      (permRead p = true → h.2 ≠ l.data → exec .waitaCompare s = .next (wakeWaiter (waitaCounted h.1 a) a.id)) ∧
      (permRead p = true → h.2 = l.data → exec .waitaCompare s = .next (watchAppend (waitaCounted h.1 a) (iaHome ia) (ia / 64) a.id)) ∧
      (∀ e, ((waitaCounted h.1 a).dom (iaHome ia)).watch.find? (·.block == ia / 64) = some e → e.waiters.length < 16 →
        watchAppend (waitaCounted h.1 a) (iaHome ia) (ia / 64) a.id = (slotted (waitaCounted h.1 a) a.id).modDom (iaHome ia) fun d =>
          { d with watch := ⟨ia / 64, e.waiters ++ [a.id]⟩ :: d.watch.filter (·.block != ia / 64) })

/-! ## Faults and refusals -/

/-- R321 to R323, R249: a fault report reaches the core. A load parks its team under an entry of the fault filter; a report that finds 32
entries waits, and is taken again when one is free; a store retires into the glean log with the later stores of its team that have not performed,
which take token 0, and the team's entries stand in the order of issue. A request of a full fault stage goes
on when an entry of the wait table is free. R237, R238: at the end of its first tick the record of a fault entry is written at PROD, which advances, and the entry enters STATE 1; while
the queue is full the record waits, and a write of FQCONS lets it in. Its word 3 and PROD wait until the invalidations of its words before are acknowledged. That an event which is not enabled changes nothing is the model's choice (log entry 2).
Completes: faultReport, faultFilterRetry, faultStageRetry, faultRecordWrite and fqconsWrite. -/
def Obligations.FaultReports : Prop :=
  (∀ s : State, let x := s.cur.arg
      (∀ (a : Acc) (l : Lane) (tok ia : Nat), laneOf s x.a x.b = some (a, l) → l.st = .faulted tok false → l.loc = .ia ia →
        let c := s.core a.core
        let none_ : Prop := ∀ f ∈ c.filt, ¬ (f.page = ia / 2 ^ 16 ∧ f.tok = tok)
        (a.kind ≠ .store → a.kind ≠ .wakea → none_ → c.filt.length < 32 → (∀ b, (s.team a.tk).st ≠ .faultPark b) → (s.team a.tk).st ≠ .ended →
          ∃ t, exec .faultReport s = .next t ∧ (t.core a.core).filt = c.filt ++ [⟨ia / 2 ^ 16, tok, a.kind.ty, [a.tk]⟩] ∧
            t.team a.tk = { s.team a.tk with st := .faultPark (s.team a.tk).st } ∧ (∀ k, k ≠ a.tk → t.team k = s.team k) ∧
            t.accs = (setLaneSt s x.a x.b (.faulted tok true)).accs) ∧
        (none_ → 32 ≤ c.filt.length → (x.a, x.b) ∉ c.filtQ →
          exec .faultReport s = .next (s.modCore a.core fun c => { c with filtQ := c.filtQ ++ [(x.a, x.b)] })) ∧
        (a.kind = .store ∨ a.kind = .wakea → none_ → c.filt.length < 32 → c.glean.length + ((Tbl.vals s.accs).map (·.lanes.length)).sum ≤ 256 →
          let old := (s.core (s.team a.tk).core).glean
          ∃ t es, exec .faultReport s = .next t ∧ es ≠ [] ∧ (∀ g ∈ es, g.tk = a.tk ∧ a.id ≤ g.seq ∧ (a.id < g.seq → g.tok = 0)) ∧
            (t.team a.tk).gleaning = true ∧ ((t.core (s.team a.tk).core).glean).Perm (old ++ es) ∧
            ((gleanOf s a.tk).Pairwise (fun g h => g.seq ≤ h.seq) →
              ((t.core (s.team a.tk).core).glean.filter (·.tk == a.tk)).Pairwise fun g h => g.seq ≤ h.seq))) ∧
      (∀ id lane r, (s.core x.a).filtQ = (id, lane) :: r →
        ((s.core x.a).filt.length < 32 → exec .faultFilterRetry s = .next (reportAct (s.modCore x.a fun c => { c with filtQ := r }) id lane)) ∧
        (32 ≤ (s.core x.a).filt.length → exec .faultFilterRetry s = .next s)) ∧
      (∀ id lane r, (s.dom x.a).stageQ = (id, lane) :: r →
        (waitFree (s.dom x.a) = none → exec .faultStageRetry s = .next s) ∧
        (∀ i a l, waitFree (s.dom x.a) = some i → laneOf s id lane = some (a, l) → l.st = .stage →
          exec .faultStageRetry s = .next (setLaneSt (s.modDom x.a fun d => { d with stageQ := r }) id lane .pending)))) ∧
  (∀ s : State, let x := s.cur.arg
      let d := s.dom x.a
      (∀ e, Tbl.find? d.wait x.b = some e → e.v = true → e.st = 0 → e.kind ≠ 0 → e.tick ≠ s.tick →
        ∃ t, exec .faultRecordWrite s = .next t ∧ Tbl.find? (t.dom x.a).wait x.b = some { e with st := 1 } ∧
          (∀ i, i ≠ x.b → Tbl.find? (t.dom x.a).wait i = Tbl.find? d.wait i) ∧
          (d.fqwait = [] → d.fqput = false → (d.fqprod - d.fqcons).toNat ≠ 2 ^ d.fqsize → (t.dom x.a).fqwait = [] ∧
            ((t.dom x.a).fqprod = d.fqprod + 1 ∧ (t.dom x.a).fqput = false ∨ (t.dom x.a).fqprod = d.fqprod ∧ (t.dom x.a).fqput = true) ∧
            ((∀ h, (s.dom h).dir = []) → (∀ i ∈ s.invs, i.isOf (2 ^ 82 + x.a) (fun _ => true) = false) → (t.dom x.a).fqprod = d.fqprod + 1)) ∧
          ((d.fqprod - d.fqcons).toNat = 2 ^ d.fqsize ∨ d.fqput = true → (t.dom x.a).fqprod = d.fqprod ∧
            (t.dom x.a).fqwait = d.fqwait ++ [(some x.b, e.record x.b)] ∧ t.dram = s.dram)) ∧
      (∀ e, Tbl.find? d.wait x.b = some e → e.v = false ∨ e.st ≠ 0 ∨ e.kind = 0 ∨ e.tick = s.tick → exec .faultRecordWrite s = .next s) ∧
      (∃ t, exec .fqconsWrite s = .next t ∧ (t.dom x.a).fqcons = BitVec.ofNat 32 x.c ∧
        (d.fqwait = [] → t = s.modDom x.a fun d => { d with fqcons := BitVec.ofNat 32 x.c }))) ∧
  (∀ (s : State) (dom : Nat), let m := s.dom dom
      let key := 2 ^ 82 + dom
      (m.fqput = false ∨ (∃ i ∈ s.invs, i.isOf key (fun _ => true) = true) → endRecord s dom = s) ∧
      (m.fqput = true → (∀ i ∈ s.invs, i.isOf key (fun _ => true) = false) → endRecord s dom =
        (ctlStore s key (m.fqbase.toNat + 32 * (m.fqprod.toNat % 2 ^ m.fqsize) + 24) 8 (m.fqprod.toNat / 2 ^ m.fqsize % 2 * 2 ^ 63 + s.tick)).modDom dom
          fun d => { d with fqput := false, fqprod := d.fqprod + 1 }))

/-- R239, R325, R326: a team's oldest logged store, once READY, performs in the log's order, after what R210 to R212 put before it; a permission that is clear raises the trap of a
store, a fault takes the token of the page's live wait entry, or a new one, once the wait table and the core's filter have room, a refusal from outside, or none within 100 µs, sets RERR. R326, R84: a refusal, or 100 µs without an answer, reaches the core. For a store to another node or a far frame it sets RERR; for any other
access a response-precise trap waits, with its code, its kind of access and the address of its lowest refused lane; it stands beside those of the
team's other accesses. No answer comes to a request that was lost with its port. The answer of another node is the event's operand (log entry 15). That an event which is not enabled changes nothing is the model's choice (log entry 2).
Completes: gleanDrain, refusalResponse and remoteTimeoutExpiry. -/
def Obligations.GleanAndRefusals : Prop :=
  (∀ (s : State) (g : GleanE) (r : List GleanE), let x := s.cur.arg
      let core := (s.team x.a).core
      let ia := 64 * g.block
      let home := iaHome ia
      let page := ia / 2 ^ 16
      let out : Prop := iaNode ia ≠ 0 ∨ ∃ p, (pageOf s home ia x.flag).2 = .far p ∧ permWrite p = true
      let lost : Prop := ∃ p : Sent, g.sent = some p ∧ p.lost = true
      gleanOf s x.a = g :: r →
      (g.ready = false → exec .gleanDrain s = .next s) ∧
      (¬ DrainMay s x.a core g → exec .gleanDrain s = .next s) ∧
      (g.ready = true → DrainMay s x.a core g →
        (out → x.c = 3 ∨ g.sent = none → ∃ p : Sent, p.at_ = s.tick ∧
          (portFor s ia = some p.port ∧ p.lost = false ∨ portFor s ia = none ∧ p.lost = true) ∧ exec .gleanDrain s = .next (s.modCore core fun c => { c with
          glean := c.glean.map fun e => if e = g ∧ e.sent = none then { e with sent := some p } else e })) ∧
        (out → g.sent ≠ none → x.c = 2 → expired s g.sent = false → exec .gleanDrain s = .next s) ∧
        (out → lost → x.c ≠ 2 → x.c ≠ 3 → exec .gleanDrain s = .next s) ∧
        (out → g.sent ≠ none → x.c = 1 ∧ ¬ lost ∨ x.c = 2 ∧ expired s g.sent = true → exec .gleanDrain s = .next (failStore (gleanPop s x.a core g) x.a g.grp)) ∧
        ((out → g.sent ≠ none ∧ x.c = 0 ∧ ¬ lost) → ∀ u o, drained s g core x.a x.flag = (u, o) →
          (∀ v, o = .ok v → exec .gleanDrain s = .next (gleanPop u x.a core g)) ∧
          (o = .perm → exec .gleanDrain s = .next
            (addTrap (gleanPop u x.a core g) x.a { code := 0x12, tval := 2 ^ 63 + 2 ^ 60 + ia % 2 ^ 57, seq := g.seq })) ∧
          (∀ k, o = .fault k →
            let f := (u.core core).filt
            let waits_ (t : State) (tok : Nat) : Prop := exec .gleanDrain s = .next t ∧
              (t.core core).glean = (s.core core).glean.map fun e => if e = g then { e with ready := false, tok := tok } else e
            (32 ≤ f.length → (∀ e ∈ f, e.page ≠ page) → exec .gleanDrain s = .next s) ∧
            (f.length < 32 → ∀ i e, waitOf (u.dom home) page = some (i, e) → ∃ t, waits_ t (e.token i)) ∧
            (f.length < 32 → waitOf (u.dom home) page = none → ∀ i, waitFree (u.dom home) = some i → ∃ t e, waits_ t (e.token i) ∧
              Tbl.find? (t.dom home).wait i = some e ∧ e.v = true ∧ e.kind = k ∧ e.page = page ∧ e.waiters = 1) ∧
            (waitOf (u.dom home) page = none → waitFree (u.dom home) = none → exec .gleanDrain s = .next s)))) ∧
      (r ≠ [] → (gleanPop s x.a core g).team x.a = s.team x.a)) ∧
  (∀ (s : State) (a : Acc) (l : Lane), let x := s.cur.arg
      laneOf s x.a x.b = some (a, l) →
      let u := setLaneSt s a.id l.lane .refusedAt
      let st : Prop := a.kind = .store ∨ a.kind = .wakea
      let trap (code : Nat) : State := finishAcc (pushTrap u a.tk code (accField a.kind) a.id (refusedVa u a l)) a.id
      let failed : State := finishAcc (failStore u a.tk a.grp) a.id
      (∀ code, l.st = .refused code → code = 0x12 ∨ code = 0x14 → exec .refusalResponse s = .next (trap code)) ∧
      (l.st = .pending → mayPerform s a l = true → Outside s a l →
        (l.sent = none → exec .refusalResponse s = .next s) ∧
        (l.sent ≠ none → l.lost = false → (st → exec .refusalResponse s = .next failed) ∧ (¬ st → exec .refusalResponse s = .next (trap 0x18))) ∧
        (l.lost = true → exec .refusalResponse s = .next s) ∧
        (expired s l.sent = true → (st → exec .remoteTimeoutExpiry s = .next failed) ∧ (¬ st → exec .remoteTimeoutExpiry s = .next (trap 0x19))) ∧
        (expired s l.sent = false → exec .remoteTimeoutExpiry s = .next s)) ∧
      (l.st = .pending → ¬ Outside s a l → exec .refusalResponse s = .next s ∧ exec .remoteTimeoutExpiry s = .next s) ∧
      ((s.team a.tk).st ≠ .ended → (s.plot (a.tk / 16)).st ≠ .stopping →
        (∀ tr, addTrap s a.tk tr = s.modTeam a.tk fun t => { t with traps := t.traps ++ [tr] }) ∧
        ∀ code acc id va, pushTrap s a.tk code acc id va = s.modTeam a.tk fun t => { t with
          traps := (t.traps.filter fun y => !(y.seq == id && y.code == code)) ++ [⟨code, 2 ^ 63 + acc * 2 ^ 60 + va % 2 ^ 57, id, false, none⟩] }) ∧
      ((s.team a.tk).st ≠ .ended → ((failStore s a.tk a.grp).team a.tk).rerr = true ∨ ((failWaitingRelease s a.tk a.grp).team a.tk).st = .ended))

/-- R195, R315, R318: at a group boundary, or out of a wait, the team takes the trap of the access that issued first, of those whose access has left; TEPC names the next group, or the
word by which it waits; the count of a release that never performed falls then (R212). Out of a stall it withdraws its post, out of a WAITA its watch. A network barrier, a park and a plot that is not bound hold it. That an event which is not enabled changes nothing is the model's choice (log entry 2).
Completes: responsePreciseTrap. -/
def Obligations.ResponsePreciseTraps : Prop :=
  ∀ (s : State) (tr : Trap), let x := s.cur.arg
    let tk := x.a
    let t := s.team tk
    let left (u : Trap) : Prop := u.held = false ∧ Tbl.find? s.accs u.seq = none
    tr ∈ t.traps → left tr → (∀ u ∈ t.traps, left u → u = tr ∨ tr.seq < u.seq) →
    ((s.plot (tk / 16)).st ≠ .bound → exec .responsePreciseTrap s = .next s) ∧
    ((s.plot (tk / 16)).st = .bound →
      let one (s : State) : State := s.modTeam tk fun t => { t with traps := (t.traps.erase tr).map fun y => { y with held := true }, entered := false }
      let enters (s : State) (tepc : Nat) : State :=
        let u := trapped (one s) tk tr.code tr.tval tepc
        match tr.path with | some p => inflDec u tk p | none => u
      (t.st = .ready → exec .responsePreciseTrap s = .next (enters s t.resumePc)) ∧
      ((∃ p thr, t.st = .counterWait p thr) ∨ (∃ cw ph, t.st = .barWait cw ph) → exec .responsePreciseTrap s = .next (enters s t.waitAt)) ∧
      (t.st = .engineStall → exec .responsePreciseTrap s = .next (enters (dropPosts s tk) t.waitAt)) ∧
      (∀ acc, t.st = .watchWait acc → ∃ u, exec .responsePreciseTrap s = .next u ∧ (u.team tk).st = .ready ∧
        (u.team tk).pc = (s.core t.core).tvec.toNat ∧ (u.team tk).tepc = BitVec.ofNat 64 (t.waitAt % 2 ^ 57) ∧
        (u.team tk).tval = BitVec.ofNat 64 tr.tval ∧ Tbl.find? u.accs acc = none) ∧
      ((∃ n, t.st = .netWait n) ∨ (∃ b, t.st = .faultPark b) ∨ t.st = .releasePark → exec .responsePreciseTrap s = .next s))

/-- R199, R327, R345: an access of another node is served at its home: its value, or a refusal with a record of its fault, with SRC 6 and the
initiator's node; its answer waits for the invalidations it caused; one on a moving page waits, is served when the page has come to rest, and is
refused after 100 µs; one on a far page goes on to the host (R187). A replay message is answered with the status of REPLAY. An answer carries the tag
of its message. Its form, and the kinds of the records (1 for an offset in the fleeting or reserved window, 5 for an FATOM to a far frame, 6 for a refusal
by the host, 2 or 7 for one that is too late), are the model's choice (log entry 24); that it is served from the home's bytes with no line allocated is log entry 25.
Completes: inboundAccess, inboundMovingTimeout and replayMessage. -/
def Obligations.OtherNodes : Prop :=
  (∀ s : State, let x := s.cur.arg
      let tag := x.tag % 2 ^ 32
      (x.dest ≠ 0 → exec .inboundAccess s = .next s ∧ exec .replayMessage s = .next s) ∧
      (x.dest = 0 →
        (x.flag = false →
          let r : Inbound := { id := s.fresh, node := x.node, tag := tag, kind := x.c, ia := x.a, size := x.b, ord := x.ord, scope := x.scope
                               data := x.ext, cmp := x.us.getD 0 0, tick := s.tick }
          exec .inboundAccess s = .next (inboundServe { s with fresh := s.fresh + 1, inbound := s.inbound ++ [r] } r (x.us.getD 1 0) (x.us.getD 2 0))) ∧
        (∀ r, x.flag = true → s.inbound.find? (·.id == x.a) = some r →
          (r.val = none → exec .inboundAccess s = .next (inboundServe s r (x.us.getD 1 0) (x.us.getD 2 0))) ∧
          (∀ v, r.val = some v → exec .inboundAccess s = .next (inDone s r v))) ∧
        (let lo := (x.words.getD 0 0).toNat
         let hi := (x.words.getD 1 0).toNat
         ∃ t, exec .replayMessage s = .next t ∧ t.replies = s.replies ++
           [⟨x.node, tag, [if hi < 2 ^ 31 ∧ (2 ^ 52 ≤ lo + 2 ^ 32 * hi ∨ 72 ≤ iaHome (lo + 2 ^ 32 * hi) ∨ lo % 65536 ≠ 0) then 4 else (replayAct s lo hi).2]⟩])) ∧
      (∀ r, s.inbound.find? (·.id == x.a) = some r →
        let late : Prop := 100 ≤ (s.tick + 2 ^ 40 - r.tick) % 2 ^ 40
        let ia := r.ia % 2 ^ 52
        (late → exec .inboundMovingTimeout s = .next
          (inRefuse s r (match (pageOf s (iaHome ia) ia true).2 with | .far _ => 7 | _ => 2))) ∧
        (¬ late → exec .inboundMovingTimeout s = .next s))) ∧
  (∀ (s : State) (r : Inbound) (ans hv : Nat),
      let ia := r.ia % 2 ^ 52
      let d := iaHome ia
      let done (t : State) (v : Nat) : Prop := inboundServe s r ans hv = inDone t r v
      let refused (u : State) (k : Nat) : Prop := inboundServe s r ans hv = inRefuse u r k
      let may (p : Nat) : Bool := if r.kind = 0 then permRead p else if r.kind = 1 then permWrite p else permAtom p
      (72 ≤ d → inboundServe s r ans hv = inEnd s r [1]) ∧
      (d < 72 → fleetBase ≤ iaOff ia → refused s 1) ∧
      (d < 72 → iaOff ia < fleetBase →
        (∀ u vc key p, pageOf s d ia true = (u, .local_ vc key p) →
          let v := countUndef u d false vc
          let old := homePeek u d key r.size
          let put (n : Nat) : State := storeAtHome (if r.kind = 1 then u else touchMiss u d key) d vc ia key r.size n d (2 ^ 80 + r.id) 0 false
          (may p = false → refused u 5) ∧
          (may p = true → r.kind = 0 → done (touchMiss (dirTouch v d (ia / 256)) d key) old) ∧
          (may p = true → r.kind = 1 → done (put r.data) 0) ∧
          (∀ op, op < 14 → may p = true → r.kind = 2 + op → done (put (AKind.newValue (.atom op) r.size old r.data r.cmp)) old) ∧
          (∀ op, may p = true → r.kind = 16 + op → done (put (AKind.newValue (.fatom op) r.size old r.data r.cmp)) old)) ∧
        (∀ u p, pageOf s d ia true = (u, .far p) →
          (may p = false ∨ 16 ≤ r.kind → refused u 5) ∧
          (may p = true → r.kind < 16 →
            (ans = 0 → inboundServe s r ans hv = inEnd u r [0, if r.kind = 1 then 0 else hv % 2 ^ (8 * r.size)]) ∧
            (ans = 1 → refused u 6) ∧ (2 ≤ ans → inboundServe s r ans hv = u))) ∧
        (∀ u k, pageOf s d ia true = (u, .fault k) → (k = 0 → inboundServe s r ans hv = s) ∧ (k ≠ 0 → refused u k)))) ∧
  (∀ (s : State) (r : Inbound) (k v : Nat) (body : List Nat),
      let d := iaHome (r.ia % 2 ^ 52)
      let t := inRefuse s r k
      (inEnd s r body).replies = s.replies ++ [⟨r.node, r.tag, body⟩] ∧ (inEnd s r body).inbound = s.inbound.filter (·.id != r.id) ∧
      ((∀ i ∈ s.invs, i.isOf (2 ^ 80 + r.id) (fun _ => true) = false) → inDone s r v = inEnd s r [0, v]) ∧
      ((∃ i ∈ s.invs, i.isOf (2 ^ 80 + r.id) (fun _ => true) = true) → inDone s r v =
        { s with inbound := s.inbound.map fun q => if q.id = r.id then { q with val := some v } else q }) ∧
      t.replies = s.replies ++ [⟨r.node, r.tag, [1]⟩] ∧ t.inbound = s.inbound.filter (·.id != r.id) ∧
      (∀ i, (s.dom d).repQ = [] → waitFree (s.dom d) = some i → ∃ e, Tbl.find? (t.dom d).wait i = some e ∧ e.v = false ∧ e.kind = k ∧
        e.page = r.ia % 2 ^ 52 / 2 ^ 16 ∧ e.union = (if r.kind = 0 then tyRead else if r.kind = 1 then tyWrite else tyAtom) ∧
        e.first = [0, r.node, d, 0, 0, 0, 6] ∧
        ((s.dom d).fqwait = [] → (s.dom d).fqput = false → (s.dom d).fqprod - (s.dom d).fqcons ≠ BitVec.ofNat 32 (2 ^ (s.dom d).fqsize) →
          (∀ h, (s.dom h).dir = []) → (∀ i ∈ s.invs, i.isOf (2 ^ 82 + d) (fun _ => true) = false) → (t.dom d).fqprod = (s.dom d).fqprod + 1) ∧
        ((s.dom d).fqwait ≠ [] ∨ (s.dom d).fqput = true → (t.dom d).fqwait = (s.dom d).fqwait ++ [(none, e.record i)])) ∧
      ((s.dom d).repQ ≠ [] ∨ waitFree (s.dom d) = none → ∃ l, (t.dom d).repQ = (s.dom d).repQ ++ [d :: r.ia % 2 ^ 52 / 2 ^ 16 :: k :: l]))

/-! ## The engines at work -/

/-- R106, R155, R160 to R162, R342, R343: the oldest entry that waits starts once its reservation is granted and a TMMAF's weights have landed; a product
reads its operands then. A window element that an operation has written and no wait has observed reads as one of the values that a vector
read may see, but the accumulator of an earlier entry as that entry's checked result (R164); one that a vector instruction has written
since the entry was posted is the old one or the new (R81). The entry's run is 32 cycles, or 43 with a fenced sub-array, and holds its reservation. A TMMAF among
the first two entries raises the fetch of its weights. That an event which is not enabled changes nothing is the model's choice (log entry 2). That a product reads
its operands when it starts is the model's choice (log entry 10).
Completes: matrixEntryStart and tmmafOperandFetch. -/
def Obligations.MatrixEntryStarts : Prop :=
  (∀ (s : State) (e : MEnt) (r : List MEnt), let x := s.cur.arg
    let c := s.core x.a
    let subs := 4 - c.subF.length
    let busy := if subs = 4 then 32 else 43
    let w := (readWin s e.tk e.grp e.was true).2
    c.fifo = e :: r → e.st = .queued →
    (e.kind = 0 ∧ e.weights = none ∨ e.kind = 1 ∧ (∃ b, e.weights = some b ∧ b.length = 4160) → e.granted = true → e.code = 0 →
      ∃ t e', exec .matrixEntryStart s = .next t ∧ (t.core x.a).fifo.head? = some e' ∧ e'.st = .started subs ∧
        { e' with st := e.st, res := e.res, flags := e.flags, tfmt := e.tfmt } = e ∧ t.teams = s.teams ∧
        (∀ i < 32, ∀ j < 64, e'.res[64 * i + j]? = some ((s.team e.tk).accBase e.d / 4 + 64 * i + j, BitVec.ofNat 32 (product w e i j).1)) ∧
        (t.quad (x.a / 4)).mruns = (s.quad (x.a / 4)).mruns ++ [(c.cyc - c.cbase, c.cyc - c.cbase + busy)] ∧
        ∀ y ∈ (s.quad (x.a / 4)).resv, y.who = .matrix x.a e.id → y.granted = true → y.till = none →
          { y with till := some (c.cyc + busy) } ∈ (t.quad (x.a / 4)).resv) ∧
    (e.kind = 2 ∨ e.kind = 1 ∧ e.code ≠ 0 → ∃ t, exec .matrixEntryStart s = .next t ∧
      (t.core x.a).fifo.head? = some { e with st := .started subs } ∧ t.teams = s.teams) ∧
    (e.kind = 0 → e.granted = false → exec .matrixEntryStart s = .next s) ∧
    (e.kind = 1 → e.fetch = none → e.code = 0 → c.copyQ.length < 32 → ∃ t m, exec .tmmafOperandFetch s = .next t ∧
      Tbl.find? t.cmds s.fresh = some m ∧ m.kind = .wfetch ∧ m.bytes = 4160 ∧ m.work = e.spec ∧ m.tk = e.tk ∧ m.core = x.a ∧
      (t.core x.a).copyQ = c.copyQ ++ [s.fresh] ∧ (t.core x.a).fifo.head? = some { e with fetch := some s.fresh } ∧ t.teams = s.teams)) ∧
  (∀ (s : State) (f e : MEnt) (r : List MEnt), let x := s.cur.arg
    let c := s.core x.a
    c.fifo = f :: e :: r → f.id ≠ e.id → f.kind ≠ 1 ∨ f.fetch ≠ none ∨ f.code ≠ 0 →
    e.kind = 1 → e.fetch = none → e.code = 0 → c.copyQ.length < 32 → ∃ t m, exec .tmmafOperandFetch s = .next t ∧
      Tbl.find? t.cmds s.fresh = some m ∧ m.kind = .wfetch ∧ m.inst = e.id ∧ m.bytes = 4160 ∧ m.work = e.spec ∧ m.tk = e.tk ∧ m.core = x.a ∧
      (t.core x.a).copyQ = c.copyQ ++ [s.fresh] ∧ (t.core x.a).fifo.take 2 = [f, { e with fetch := some s.fresh }] ∧ t.teams = s.teams) ∧
  (∀ (s : State) (tk g : Nat) (was : Tbl Word) (fifo : Bool), let w := (readWin s tk g was fifo).2
    let v := upTo s tk g
    w = { v with win := w.win } ∧ ((∀ p ∈ (s.team tk).pend, g ≤ p.grp) → v = s.team tk) ∧
    (∀ n, (∀ q ∈ s.races, q.tk = tk → q.elem ≠ n) →
      Tbl.getD w.win n 0 = Tbl.getD v.win n 0 ∨ Tbl.getD w.win n 0 = Tbl.getD was n 0) ∧
    (∀ q ∈ s.races, q.tk = tk → (∀ p ∈ s.races, p.tk = tk → p.elem = q.elem → p = q) → let now := Tbl.getD v.win q.elem 0
      (now = q.shown → (fifo = false ∨ q.ordered = false → Tbl.getD w.win q.elem 0 ∈ q.values) ∧
        (fifo = true → q.ordered = true → Tbl.getD w.win q.elem 0 = q.final)) ∧
      (now ≠ q.shown → Tbl.getD w.win q.elem 0 = now ∨ Tbl.getD w.win q.elem 0 ∈ q.values)))

/-- R155, R161, R164, R165, R332: the self-test of the entry at the head. A product that passes is written to its accumulator, and
its target is credited, with its flags for TSTAT; the first sub-array that fails is fenced, with a record to the domain's controller, and the product is made again;
another failure fences the column. A TZERO writes its zeros and is credited. R81: a written element may still be read as it was, until a wait
has observed the completion of its last write; one that a vector instruction wrote after the operation was posted may end with that value. The record to the controller, [0, core, number of the sub-array], is read from the
spec by inference (log entry 19).
Completes: matrixCheck and tzeroCredit. -/
def Obligations.MatrixEntryEnds : Prop :=
  ∀ (s : State) (e : MEnt) (r : List MEnt) (n : Nat), let x := s.cur.arg
    let c := s.core x.a
    c.fifo = e :: r → e.st = .started n → (∀ p ∈ s.credits, p.inst ≠ e.id) →
    (e.kind ≠ 2 → e.code = 0 →
      let bad := (x.us.filter fun b => decide (b < 4) && !c.subF.contains b).eraseDups
      (bad = [] → exec .matrixCheck s = .next (matCredit
        (engineWrite s e.tk e.cw.toNat e.id 4 e.grp true e.was ((s.team e.tk).accBase e.d) (e.res.flatMap fun p => toBytes p.2.toNat 4)) x.a e)) ∧
      (∀ b, bad = [b] → c.subF = [] → ∃ t, exec .matrixCheck s = .next t ∧ (t.core x.a).subF = [b] ∧ t.trip = s.trip ++ [⟨3, 0, s.tick⟩] ∧
        (t.dom (domOf x.a)).notes = (s.dom (domOf x.a)).notes ++ [[0, x.a, b]] ∧
        (t.core x.a).fifo.head? = some { e with st := .redo, granted := false } ∧ t.teams = s.teams) ∧
      (2 ≤ bad.length ∨ (∃ b, bad = [b]) ∧ c.subF ≠ [] → exec .matrixCheck s = .next (fenceColumn s (domOf x.a) (x.a % 48 / 4)))) ∧
    (e.kind ≠ 2 → e.code ≠ 0 → exec .matrixCheck s = .next (matCredit s x.a e)) ∧
    (e.kind = 2 → exec .tzeroCredit s = .next (matCredit (engineWrite s e.tk e.cw.toNat e.id 4 e.grp (decide (0x80 ≤ e.d)) e.was
      (if e.d < 0x80 then (s.team e.tk).tileBase e.d else (s.team e.tk).accBase (e.d - 0x80)) (List.replicate e.bytes 0)) x.a e)) ∧
    (∀ u : State, matCredit u x.a e = creditTo (pmcAdd u x.a 0x0A 1) e.tk e.cw.toNat e.bytes e.code none 4 e.id 0 (some x.a) [cwKey u e.tk e.cw.toNat]
      (e.flags + if e.tfmt then 32 else 0)) ∧
    (∀ cw inst path g o was off bs, let u := engineWrite s e.tk cw inst path g o was off bs
      (∀ y, off ≤ y → y < off + bs.length → (u.team e.tk).winByte y = bs.getD (y - off) 0) ∧
      (∀ y, y < off ∨ off + bs.length ≤ y → (u.team e.tk).winByte y = (s.team e.tk).winByte y) ∧
      (∀ n, let a := Tbl.getD (s.team e.tk).win n 0
        let b := Tbl.getD (u.team e.tk).win n 0
        off / 4 ≤ n → n < (off + bs.length + 3) / 4 →
        let wrote (r : Race) (p : RStep) : Prop := r ∈ u.races ∧ r.tk = e.tk ∧ r.elem = n ∧ r.ordered = o ∧ r.shown = b ∧
          p.target = targetKey s e.tk cw ∧ p.inst = inst ∧ p.path = path ∧ p.grp = g ∧ p.landed = false ∧
          ∀ i < 32, p.mask.getLsbD i = decide (off ≤ 4 * n + i / 8 ∧ 4 * n + i / 8 < off + bs.length)
        ((∀ r ∈ s.races, r.tk = e.tk → r.elem ≠ n) → ∃ r p, wrote r p ∧ r.steps = [p] ∧
          (r.final = b ∧ p.others = [a] ∨ Tbl.getD was n 0 ≠ Tbl.getD (upTo s e.tk g).win n 0 ∧ r.final = a ∧ p.others = [b, a])) ∧
        (∀ q, s.races.find? (fun r => r.tk == e.tk && r.elem == n) = some q →
          ∃ r p early, wrote r p ∧ r.steps = early ++ [p] ∧ early.length = q.steps.length))) ∧
    (∀ tk, let u := reveal s tk
      ((∀ r ∈ s.races, r.tk ≠ tk) → u = s) ∧
      ∀ q ∈ s.races, q.tk = tk → (∀ p ∈ s.races, p.tk = tk → p.elem = q.elem → p = q) → s.races.count q = 1 → Tbl.getD (s.team tk).win q.elem 0 = q.shown →
        Tbl.getD (u.team tk).win q.elem 0 ∈ q.values) ∧
    (∀ tk cw, ∀ q ∈ (observeTarget s tk cw).races, ∀ p ∈ q.steps, ¬ (p.landed = true ∧ p.target = targetKey s tk cw))

/-- R157, R225, R226, R230 to R232, R162: the next piece of a command's work is made, in order. What a piece reads, in a scratchpad, in memory at its home, in a
fleeting tile or raw in DRAM, joins the bytes that the command holds; what it writes are the oldest of these. So a COPY, COPYG or COPYB moves its rows, a TLD, a TST or a
TFETCH its sectors, a TMMAF its weights, and an IRED sums its rows. An expired tile reads as zero with code 6, a write to one that is fenced is dropped with code 7; a page
without the permission stops the command with code 2, a row that the reduce path cannot reach with code 8. A piece waits for what R208 to R211 put before it. An access under the
same number is another event. Completes: memoryRequestAtHome for a command. -/
def Obligations.CommandWork : Prop :=
  ∀ (s : State) (m : Cmd) (w : Work) (rest : List Work), let x := s.cur.arg
    laneOf s x.a x.b = none → Tbl.find? s.cmds x.a = some m → m.id = x.a → m.work = w :: rest → m.started = true → m.tok = 0 →
    (m.chunked = true → m.left ≠ 0) → m.lost = false → unsentCmd s x.a = false → (∀ side, m.kind = .ired side → m.inst ∈ (s.core m.core).iredQ) → x.c ≠ 1 →
    let r := exec .memoryRequestAtHome s
    let dom := domOf m.core
    let has (t : State) (c : Cmd) : Prop := r = .next t ∧ ∃ was, Tbl.find? t.cmds m.id = some { c with was := was }
    let reads (t : State) (bs : List Byte) : Prop := has t { m with work := rest, buf := m.buf ++ bs } ∧ t.spm = s.spm
    let stops (t : State) (code : Nat) : Prop := has t { m with work := [], code := if m.code = 0 then code else min m.code code }
    let holds (loc : Loc) (n : Nat) : Prop := sectorWaits s m loc n = false
    let wrote (n : Nat) : Cmd := { m with work := rest, buf := m.buf.drop n, left := m.left - n }
    (∀ n, w = .zero n → ∃ t, reads t (List.replicate n 0)) ∧
    (∀ n, w = .drop n → ∃ t, has t { m with work := rest, buf := m.buf.drop n }) ∧
    (w = .comb → ∃ t, let row := widenRow m.typ m.buf
      has t { m with work := rest, buf := [], acc := some ((match m.acc with
        | none => row
        | some bs => row.zipIdx.map fun (p : Nat × Nat) => combElem m.typ m.op (ofBytes ((bs.drop (4 * p.2)).take 4)) p.1).flatMap fun y => toBytes y 4) }) ∧
    (∀ loc n, (∃ k, w = .rd (.lm k) n ∧ loc = .lm k) ∨ (∃ k b, w = .wr (.lm k) n b ∧ loc = .lm k) ∨ (∃ ia, w = .raw ia n ∧ loc = .ia ia) → ¬ holds loc n → r = .next s) ∧
    (∀ ia n, w = .rd (.mem ia) n ∨ (∃ b, w = .wr (.mem ia) n b) → inFleet s ia = false → ¬ holds (.ia ia) n → r = .next s) ∧
    (∀ k n, w = .rd (.lm k) n → holds (.lm k) n → ∃ t, reads t (toBytes (Mem.read s.spm k n) n)) ∧
    (∀ tk off n, w = .rd (.win tk off) n → ∃ t, reads t ((readWin s tk m.grp m.was false).2.winBytes off n)) ∧
    (∀ ia n, w = .rd (.mem ia) n → inFleet s ia = true →
      (tileLive s (iaHome ia) (tileOf ia) = true → ∃ t, reads t (toBytes (Mem.read s.fleet (fleetKey ia) n) n)) ∧
      (tileLive s (iaHome ia) (tileOf ia) = false → ∃ t,
        has t { m with work := rest, buf := m.buf ++ List.replicate n 0, code := if m.code = 0 then 6 else min m.code 6 })) ∧
    (∀ ia n, w = .rd (.mem ia) n → inFleet s ia = false → holds (.ia ia) n →
      (m.kind = .ired false → iaNode ia ≠ 0 → ∃ t, stops t 8) ∧
      (∀ u v, m.kind = .tld → m.strong = false ∨ m.scope = 0 → l1Read s m.core ia n = some (u, v) → ∃ t, reads t (toBytes v n)) ∧
      (m.kind ≠ .tld ∨ m.strong = true ∧ m.scope ≠ 0 ∨ l1Read s m.core ia n = none → iaNode ia = 0 →
        (m.kind = .ired false ∨ dom = iaHome ia ∨ m.strong = true ∧ 3 ≤ m.scope → ∀ u vc key p, pageOf s (iaHome ia) ia x.flag = (u, .local_ vc key p) →
          (permRead p = true → ∃ t, reads t (toBytes (if dom = iaHome ia then (homeRead (countUndef u dom false vc) dom vc ia key n).2 else homePeek u (iaHome ia) key n) n)) ∧
          (permRead p = false → ∃ t, stops t 2)) ∧
        (dom ≠ iaHome ia → m.kind ≠ .ired false → m.strong = false ∨ m.scope < 3 →
          ∀ u v, memLoad s dom false ia n x.flag m.tk m.grp x.ext = (u, .ok v) → ∃ t, reads t (toBytes v n)))) ∧
    (∀ ia n, w = .raw ia n → holds (.ia ia) n →
      (iaNode ia ≠ 0 → ∃ t, stops t 8) ∧
      (iaNode ia = 0 → ∀ u vc key p, pageOf s (iaHome ia) ia x.flag = (u, .local_ vc key p) →
        (permRead p = true → ∃ t, reads t (toBytes (Mem.read s.dram key n) n)) ∧ (permRead p = false → ∃ t, stops t 2)) ∧
      (iaNode ia = 0 → ∀ u p, pageOf s (iaHome ia) ia x.flag = (u, .far p) → ∃ t, stops t (if permRead p then 8 else 2))) ∧
    (∀ p n mask, w = .wr p n mask → n ≤ m.buf.length → 0 < n →
      let byte (j : Nat) : Byte := m.buf.getD j 0 &&& (if j + 1 = n then BitVec.ofNat 8 mask else 255)
      let bs := (List.range n).map byte
      (∀ k, p = .lm k → holds (.lm k) n → ∃ t, has t (wrote n) ∧ (∀ j < n, Mem.get t.spm (k + j) = byte j) ∧
        ∀ y, y < k ∨ k + n ≤ y → Mem.get t.spm y = Mem.get s.spm y) ∧
      (∀ tk off, p = .win tk off → ∃ t, has t (wrote n) ∧ t.spm = s.spm ∧ t.dram = s.dram ∧
        ∀ y, (t.team tk).winByte y = if off ≤ y ∧ y < off + n then byte (y - off) else (s.team tk).winByte y) ∧
      (∀ off, p = .buf off → ∃ t, has t { wrote n with acc := m.acc.map fun a => a.take off ++ bs ++ a.drop (off + n) }) ∧
      (∀ ia, p = .mem ia → inFleet s ia = true →
        (tileFenced s (iaHome ia) (tileOf ia) = true → ∃ t, has t { wrote n with code := if m.code = 0 then 7 else min m.code 7 } ∧ t.fleet = s.fleet) ∧
        (tileFenced s (iaHome ia) (tileOf ia) = false → ∃ t, has t (wrote n) ∧ t.fleet = Mem.write s.fleet (fleetKey ia) (ofBytes bs) n)) ∧
      (∀ ia, p = .mem ia → inFleet s ia = false → holds (.ia ia) n → iaNode ia = 0 → ∀ u vc key q, pageOf s (iaHome ia) ia x.flag = (u, .local_ vc key q) →
        (permWrite q = true → ∃ t, has t (if m.kind = .tst then wrote n else { wrote n with l1inv := (ia / 128) :: m.l1inv }) ∧ t.spm = s.spm ∧
          (dom = iaHome ia → (Tbl.getD (s.dom dom).vcs vc {}).st = 0 → t.dram = Mem.write s.dram key (ofBytes bs) n)) ∧
        (permWrite q = false → ∃ t bf, has t { m with work := [], buf := bf, code := if m.code = 0 then 2 else min m.code 2 }))) ∧
    (∀ k n, w = .put (.lm k) n → ∃ t, has t { m with work := rest, left := m.left - n } ∧ Mem.read t.spm k n = ofBytes (m.buf.take n) % 2 ^ (8 * n) ∧
      ∀ y, y < k ∨ k + n ≤ y → Mem.get t.spm y = Mem.get s.spm y)

/-- R222, R226, R157, R230: the oldest queued copy command starts while fewer than four are in flight; a command whose work is done is credited to its
target with its bytes and the lowest code it met, and leaves. R224: a COPYB is credited on each core it names. R217: a command that releases is credited once that has
performed, with its scope. R221: the oldest post that waits for the place takes it. That an event which is not enabled changes nothing is the model's choice (log entry 2).
Completes: copyCommandStart, copyCommandCredit, tileTransferCredit, iredCommandCredit and barrierCredit. -/
def Obligations.CommandsRun : Prop :=
  (∀ s : State, let x := s.cur.arg
    let c := s.core x.a
    let q := queueCmds s c.copyQ
    (∀ m, (q.filter (·.started)).length < 4 → q.find? (fun m => !m.started) = some m →
      let u := { s with cmds := Tbl.set s.cmds m.id { m with started := true } }
      exec .copyCommandStart s = .next (if m.acq = true ∧ 3 ≤ m.scope then emptyInvq u (domOf x.a) else u)) ∧
    (4 ≤ (q.filter (·.started)).length → exec .copyCommandStart s = .next s) ∧
    (∀ m, Tbl.find? s.cmds x.b = some m → m.work = [] → m.tok = 0 → m.started = true → m.core = x.a →
      (m.rel = true → m.scope < 3 ∨ invsDone s m.tk m.grp = true) →
      m.kind = .copy ∨ m.kind = .copyg ∨ m.kind = .copyb ∨ m.kind = .tfetch →
      let u := { s with cmds := Tbl.erase s.cmds m.id }.modCore x.a fun c => { c with
        l1 := c.l1.filter fun l => !m.l1inv.contains (l.base / 128), copyQ := c.copyQ.filter (· != x.b) }
      let u := dropResv u (quadOf x.a) fun w => w == .copy x.a x.b
      let u := if m.rel then releaseBy u m.tk x.a m.scope m.grp 0 else u
      let cw := m.cw.toNat
      let keys := if m.kind = .copyb then ((List.range 4).filter m.mask.testBit).map fun j => cwKey u m.tk (cw + 2 ^ 19 * j) else [cwKey u m.tk cw]
      let v := creditTo (pmcAdd u x.a 0x09 (m.bytes * keys.length)) m.tk cw m.bytes m.code (if m.code = 0 ∨ 6 ≤ m.code then m.packed else none)
        4 m.inst (if m.rel then m.scope else 0) none keys
      exec .copyCommandCredit s = .next (pumpCopy v x.a (v.core x.a).stallC.length)) ∧
    (∀ m, Tbl.find? s.cmds x.a = some m → m.kind = .tld ∨ m.kind = .tst → m.work = [] → m.tok = 0 → m.started = true →
      (m.rel = true ∨ m.kind = .tst → m.scope < 3 ∨ invsDone s m.tk m.grp = true) → exec .tileTransferCredit s = .next (creditTo { s with cmds := Tbl.erase s.cmds m.id }
        m.tk m.cw.toNat m.bytes m.code none m.path m.inst 0 none [cwKey s m.tk m.cw.toNat])) ∧
    (∀ m side, Tbl.find? s.cmds x.b = some m → m.kind = .ired side → m.work = [] → m.tok = 0 → m.core = x.a → m.inst ∈ c.iredQ →
      (m.rel = true → m.scope < 3 ∨ invsDone s m.tk m.grp = true) →
      let n := if m.typ = 1 then m.bytes / 2 else m.bytes / 4
      let sum : List Nat := match m.acc with
        | some bs => (List.range n).map fun j => ofBytes ((bs.drop (4 * j)).take 4)
        | none => List.replicate n (combIdent m.typ m.op)
      ∃ t, exec .iredCommandCredit s = .next t ∧ Tbl.find? t.cmds m.id = none ∧
        (m.code = 0 → Mem.read t.spm m.dst m.bytes = ofBytes (narrowRow m.typ sum) % 2 ^ (8 * m.bytes)) ∧
        (∀ y, m.code ≠ 0 ∨ y < m.dst ∨ m.dst + m.bytes ≤ y → Mem.get t.spm y = Mem.get s.spm y) ∧
        (cwBar m.cw.toNat = true → t.credits = s.credits ++ [{
          at_ := cwKey s m.tk m.cw.toNat, bytes := m.bytes, code := m.code, packed := none, tk := m.tk, path := 4, scope := if m.rel then m.scope else 0, inst := m.inst, mx := none, stat := 0 }])) ∧
    (∀ p, s.credits[x.a]? = some p → (p.mx = none ∨ ∀ b ∈ s.credits.take x.a, b.mx ≠ p.mx) →
      exec .barrierCredit s = .next (creditLands s p)) ∧
    (∀ tk cw n code pk path inst sc mx ks st, cwBar cw = true → creditTo s tk cw n code pk path inst sc mx ks st =
      { s with credits := s.credits ++ ks.map fun k => {
        at_ := k, bytes := n, code := code, packed := pk, tk := tk, path := path, scope := sc, inst := inst, mx := mx, stat := st } })) ∧
  (∀ (s : State) (core n : Nat), let c := s.core core
    (32 ≤ c.copyQ.length ∨ c.stallC = [] → pumpCopy s core n = s) ∧
    (∀ id r m, c.copyQ.length < 32 → c.stallC = id :: r → Tbl.find? s.cmds id = some m → mayPost s m.tk = true →
      let u := s.modCore core fun c => { c with stallC := r, copyQ := c.copyQ ++ [id] }
      let v := u.modTeam m.tk fun t => { t with infl := Tbl.put t.infl 4 (t.count 4 + 1) 0 }
      pumpCopy s core (n + 1) = pumpCopy (if (s.team m.tk).st = .engineStall then wakeTeam v m.tk else v) core n))

/-- R342: a matrix entry asks for a unit per live sub-array, once only its reservation keeps it from starting (log entry 25), a vector group whose largest pass
count is 8 or more for one, a copy command for one per chunk. A request is granted at once if it goes before every one that waits and the capacity holds it,
and counts and waits otherwise; the next one that waits is granted when the capacity holds it: teams owed their share first, then by class, then in order of
arrival. Units are held from the grant, which starts a matrix entry's run, to the end of the run, the passes or the chunk. That an event which is not enabled
changes nothing is the model's choice (log entry 2). The capacity is firmware's (log entry 16).
Completes: reservationRequest and reservationGrant. -/
def Obligations.Reservations : Prop :=
  (∀ s : State, let x := s.cur.arg
    (∀ w tk core units, x.who = w → resvAsk s w = some (tk, core, units) → (∀ k, w = .vector k → (s.plot (k / 16)).st = .bound) →
      let u := pruneResv s (core / 4)
      let q := u.quad (core / 4)
      let r : Resv := { who := w, units := units, tk := tk, core := core, cls := (s.plot (tk / 16)).cls, seq := s.fresh, granted := false }
      let v := ({ u with fresh := s.fresh + 1 } : State).modQuad (core / 4) fun q => { q with resv := q.resv ++ [r] }
      let first : Prop := ∃ y, resvNext v (v.quad (core / 4)) = some y ∧ y.seq = s.fresh
      (∀ y ∈ q.resv, y.who = w → y.till ≠ none) →
      (first → resvUsed u q + units ≤ q.cap → exec .reservationRequest s = .next (resvGrant v (core / 4))) ∧
      (¬ first ∨ q.cap < resvUsed u q + units → exec .reservationRequest s = .next (v.modQuad (core / 4) fun q => { q with qresw := q.qresw + 1 }))) ∧
    (resvAsk s x.who = none → exec .reservationRequest s = .next s) ∧
    (∀ core (e : MEnt) r, (s.core core).fifo = e :: r → e.st.waits = true → e.granted = false →
      (e.kind = 0 ∨ e.kind = 1 ∧ e.code = 0 ∧ e.weights ≠ none → resvAsk s (.matrix core e.id) = some (e.tk, core, 4 - (s.core core).subF.length)) ∧
      (e.kind = 2 ∨ e.kind = 1 ∧ e.code = 0 ∧ e.weights = none → resvAsk s (.matrix core e.id) = none)) ∧
    (∀ tk t, Tbl.find? s.teams tk = some t → resvAsk s (.vector tk) = if t.st = .ready ∧ 8 ≤ nextPasses s tk then some (tk, t.core, 1) else none) ∧
    (∀ id m, Tbl.find? s.cmds id = some m → m.chunked = true → m.started = true → m.left = 0 → m.work ≠ [] →
      resvAsk s (.copy m.core id) = some (m.tk, m.core, 1)) ∧
    exec .reservationGrant s = .next (resvGrant s x.a)) ∧
  (∀ (s : State) (n : Nat), let u := pruneResv s n
    let q := u.quad n
    (∀ y, resvNext u q = some y →
      let v := u.modQuad n fun q => { q with resv := q.resv.map fun z => if z.seq = y.seq then { z with granted := true } else z }
      (resvUsed u q + y.units ≤ q.cap → resvGrant s n = grantTo v y.who ∧ (∀ core id, y.who = .matrix core id → grantTo v y.who = matStart
        (v.modCore core fun c => { c with fifo := c.fifo.map fun e => if e.id = id then { e with granted := true } else e }) core)) ∧
      (q.cap < resvUsed u q + y.units → resvGrant s n = u)) ∧
    (resvNext u q = none → resvGrant s n = u) ∧
    (∀ y, y ∈ q.resv ↔ y ∈ (s.quad n).resv ∧ (y.granted = true → y.holds s = true) ∧ (y.till ≠ none ∨ y.wanted s = true)) ∧
    (∀ (y : Resv) n, y.granted = true → y.till = some n → (∀ c k, y.who ≠ .copy c k) → (y.holds s = true ↔ (s.core y.core).cyc < n)) ∧
    (∀ (u : State) q y, resvNext u q = some y → y ∈ q.resv ∧ y.granted = false ∧ ∀ z ∈ q.resv, z.granted = false →
      (z.owed u = true → y.owed u = true) ∧ (z.owed u = y.owed u → y.cls ≤ z.cls ∧ (z.cls = y.cls → y.seq ≤ z.seq))))

/-! ## Sowings and plots -/

/-- R31 to R33, R242: the classes are served in order, and in a class the sowings from the one whose turn it is: the first that has a plot that fits
has it bound, a co-resident one all its plots at once (R34). A new plot's teams start at ENTRY with their lanes in the mask
and every register zero, and its scratchpad reads zero. That an event which is not enabled changes nothing is the model's choice (log entry 2).
Completes: bindPlot. -/
def Obligations.PlotBinds : Prop :=
  ∀ (s : State) (c sid p : Nat) (sp : Spot),
    (s.lead ≠ none → c < 4 → (∀ k < c, Tbl.getD s.queues k [] = []) →
      let u := noteFails (noteHeads s) c
      { u with sows := s.sows } = s ∧
      ((∀ i r, Tbl.getD s.queues c [] = i :: r → (s.sow i).waitsWhole = false ∨ (s.sow i).eligible = false) →
        ∀ t, (roundRobin u c c false).findSome? (bindSowing u) = some t → exec .bindPlot s = .next (noteHeads t)) ∧
      (∀ i r t q, Tbl.getD s.queues c [] = i :: r → (s.sow i).waitsWhole = true → (s.sow i).eligible = true →
        bindWhole (noteHeads s) i = (some t, q) → exec .bindPlot s = .next (noteHeads t))) ∧
    ((s.sow sid).waitsWhole = false → bindSowing s sid = (firstFit s sid).map fun x => bindAt s sid x.1 x.2.2) ∧
    (s.lead = none → exec .bindPlot s = .next s) ∧
    let t := bindAt s sid p sp
    let l := launchOf (s.sow sid).words
    let h := headerOf (s.sow sid).hdr
    let q := 12 * sp.dom + sp.quad
    (t.plot (2 ^ 32 * sid + p)).st = .bound ∧ (t.plot (2 ^ 32 * sid + p)).dom = sp.dom ∧ (t.plot (2 ^ 32 * sid + p)).face = sp.face ∧ (t.plot (2 ^ 32 * sid + p)).quad = sp.quad ∧
    (∀ i cp pt, sp.cps[i]? = some (cp, pt) → { t.team (16 * (2 ^ 32 * sid + p) + i) with hb := [] } = {
      core := 4 * q + cp, part := pt, furr := h.furr, regs := h.regs, unif := h.unif, tiles := h.tiles, nacc := h.nacc, lmem := h.lmem
      lmbase := sp.lmbase, wsize := h.wsize, pc := l.entry % 2 ^ 57, via := some (l.entry % 2 ^ 57, false), mask := BitVec.ofNat 1024 (2 ^ l.lanes - 1)
      vwv := h.vwv, vwt := h.vwt, vwa := h.vwa, tstat := if l.chk then 128 else 0, since := (s.core (4 * q + cp)).cyc }) ∧
    (∀ k < 4, ∀ o < h.lmem, sp.lmbase + o < 2 ^ 19 → Mem.get t.spm (2 ^ 19 * (4 * q + k) + sp.lmbase + o) = 0) ∧
    (1 ≤ (s.sow sid).relScope → ∀ (i cp pt : Nat), sp.cps[i]? = some (cp, pt) → (t.core (4 * q + cp)).l1 = [])

/-- R32, R34, R42, R236: after 50 µs a plot may go elsewhere, and a co-resident sowing may spread; a ready team that has not issued for 255 cycles is
owed its share; a read of the wait counter, an acquire, makes its sowing eligible or not, and one that faults or is refused removes a sowing of which nothing is
bound, with a record. What another node or a far frame gives is the event's operand (log entry 15). R236, R363: a sowing is complete when all its plots have retired, or when it ends and none is left; it leaves the machine, and its counter, if it
names one that could be read, is read, increased by 1 and written at its home. That an event which is not enabled changes nothing is the model's choice (log entry 2).
Completes: hintFallbackExpiry, coresidentFallbackExpiry, minShareOwed, waitCounterPoll and sowingComplete. -/
def Obligations.SowingClocksAndCompletion : Prop :=
  (∀ s : State, let x := s.cur.arg
      let w := s.sow x.a
      let l := launchOf w.words
      let k := if w.redo.contains x.b then 128 + x.b else hintDom w.home l.hstep x.b
      (∀ t, Tbl.find? w.failAt k = some t → t + 50 ≤ s.tick → k ∉ w.fallback →
        exec .hintFallbackExpiry s = .next (s.modSow x.a fun w => { w with fallback := w.fallback ++ [k] })) ∧
      (∀ t, Tbl.find? w.failAt k = some t → s.tick < t + 50 → exec .hintFallbackExpiry s = .next s) ∧
      (∀ t, w.headAt = some t → exec .coresidentFallbackExpiry s = .next (if t + 50 ≤ s.tick then s.modSow x.a fun w => { w with coFall := true } else s)) ∧
      (∀ t, Tbl.find? s.teams x.a = some t → t.st = .ready →
        exec .minShareOwed s = .next (if t.since + 255 ≤ (s.core t.core).cyc then s.modTeam x.a fun t => { t with owed := true } else s)) ∧
      (Tbl.find? s.sows x.a = some w → w.ended = false → l.wcthr ≠ 0 → x.a ∈ Tbl.getD s.queues l.cls [] →
        let ia := wcIa s w
        let lead := s.lead.getD 0
        let r := pageOf (emptyInvq s lead) (iaHome ia) ia true
        let read (v : State) (n : Nat) : Prop := exec .waitCounterPoll s = .next (v.modSow x.a fun w => { w with eligible := decide (l.wcthr ≤ n % 2 ^ 32), pollAt := v.tick })
        let gone (v : State) : Prop := w.started = false → w.next = 0 → w.bound = [] → w.redo = [] →
          ∃ t, t = unqueue (sowRecord v x.a 9 (ia / 2 ^ 16) lead 0) x.a ∧ exec .waitCounterPoll s = .next { t with sows := Tbl.erase t.sows x.a }
        (iaNode ia = 0 →
          (∀ vc key p, r.2 = .local_ vc key p → permRead p = true → let h := readAtHome r.1 lead (iaHome ia) vc ia key 4; read h.1 h.2) ∧
          (∀ vc key p, r.2 = .local_ vc key p → permRead p = false → gone r.1) ∧
          (∀ p, r.2 = .far p → (permRead p = false ∨ x.flag = true → gone r.1) ∧ (permRead p = true → x.flag = false → read r.1 x.ext)) ∧
          (∀ k, r.2 = .fault k → (k ≠ 0 → gone r.1) ∧ (k = 0 → exec .waitCounterPoll s = .next r.1))) ∧
        (iaNode ia ≠ 0 → (x.flag = true → gone (emptyInvq s lead)) ∧ (x.flag = false → read (emptyInvq s lead) x.ext)))) ∧
  (∀ s : State, let x := s.cur.arg
      let w := s.sow x.a
      let l := launchOf w.words
      let ia := wcIa s w
      let gone (t : State) : State := { unqueue t x.a with sows := Tbl.erase t.sows x.a }
      (sowDone s x.a = false → exec .sowingComplete s = .next s) ∧
      (Tbl.find? s.sows x.a = some w → sowDone s x.a = true → w.ended = false →
        (l.wcaddr = 0 ∨ w.noInc = true → exec .sowingComplete s = .next (gone s)) ∧
        (l.wcaddr ≠ 0 → w.noInc = false → iaNode ia = 0 → ∀ u vc key p, pageOf s (iaHome ia) ia true = (u, .local_ vc key p) → permAtom p = true →
          let h := homeRead u (iaHome ia) vc ia key 4
          exec .sowingComplete s = .next (gone
            (storeAtHome (emptyInvq h.1 (s.lead.getD 0)) (iaHome ia) vc ia key 4 (h.2 + 1) (s.lead.getD 0) 0 0 false)))) ∧
      (Tbl.find? s.sows x.a = some w → sowDone s x.a = true → w.ended = true → l.wcaddr = 0 ∨ w.noInc = true → ∃ t, exec .sowingComplete s = .next t ∧
        Tbl.find? t.sows x.a = none ∧ ∀ c q, Tbl.find? t.queues c = some q → x.a ∉ q))

/-- R45 to R49, R133, R328 to R331: a stopped plot is saved with its scratchpad, and its slot is free; placed again it has every register it had, as its record in the
save area holds them. The plots of a co-resident sowing resume together. Where the block and its records stand, and that a plot whose block cannot be reached has what it was saved with, is the model's choice (log entry 17);
a debugger lets a halted plot go or ends it; a plot whose teams have ended, and to which nothing is owed, retires. That an event which is not enabled changes nothing is the model's choice (log entry 2).
Completes: plotSave, resumePlot, debugResumePlot and plotRetire. -/
def Obligations.PlotLife : Prop :=
  ∀ s : State, let pid := s.cur.arg.a
    let p := s.plot pid
    let q := 12 * p.dom + p.quad
    (p.st = .preempting → (plotTeams p).all (saveReady s) = true → (∀ tk ∈ plotTeams p, (s.team tk).after = none) → Mem.wf s.spm = true → ∃ t, exec .plotSave s = .next t ∧
      (t.plot pid).st = (if p.halt then .halted else .saved) ∧ Tbl.find? (t.quad q).slots p.slot = none ∧
      (∀ k < 4, ∀ o < p.lmem, p.lmem ≤ 2 ^ 19 →
        Mem.get (t.plot pid).spm (2 ^ 19 * k + o) = Mem.get s.spm (2 ^ 19 * coreAt s (4 * q) k + p.lmbase + o))) ∧
    (p.st ≠ .preempting ∨ (plotTeams p).all (saveReady s) = false → exec .plotSave s = .next s) ∧
    (∀ sp, Tbl.find? s.plots pid = some p → p.cores = false → mayResume s p = true → resumeSpot s p = some sp →
      (∀ o ∈ s.plots, o.2.homeDom = p.homeDom → o.1 ≠ pid → mayResume s o.2 = true → o.2.cls < p.cls ∨ o.2.cls = p.cls ∧ o.2.seq < p.seq → resumeSpot s o.2 = none) →
      (∀ c < p.cls, fitsIn s c p.homeDom = false) →
      ∃ t, exec .resumePlot s = .next t ∧ (t.plot pid).st = .bound ∧ (t.plot pid).dom = sp.dom ∧ (t.plot pid).quad = sp.quad ∧
        (pid = 2 ^ 32 * p.sow + p.no → ∀ i cp pt, i < p.nteams → sp.cps[i]? = some (cp, pt) →
          let tk := 16 * pid + i
          (s.team tk).st = .ready → (∀ m ∈ s.cmds, m.2.tk ≠ tk) → (∀ c, ∀ e ∈ (s.core c).stallM, e.tk ≠ tk) →
          t.team tk = { (loadBlock s pid).team tk with core := 4 * (12 * sp.dom + sp.quad) + cp, part := pt, lmbase := sp.lmbase, fetchTok := none, last := none, redir := 0, tvecWas := none
                                                       owed := false, since := (s.core (4 * (12 * sp.dom + sp.quad) + cp)).cyc })) ∧
    (Tbl.find? s.plots pid = some p → p.cores = true →
      ((∃ m ∈ plotsOf s p.sow, mayResume s m.2 = false) → exec .resumePlot s = .next s) ∧
      ((∀ m ∈ plotsOf s p.sow, mayResume s m.2 = true) →
        (∀ o ∈ s.plots, o.2.homeDom = p.homeDom → o.1 ≠ pid → o.2.sow ≠ p.sow → mayResume s o.2 = true → o.2.cls < p.cls ∨ o.2.cls = p.cls ∧ o.2.seq < p.seq → resumeSpot s o.2 = none) →
        (∀ c < p.cls, fitsIn s c p.homeDom = false) → exec .resumePlot s = .next
          (((resumeAll ((plotsOf s p.sow).map (·.1)) s).map fun t => sameMoment t p.sow s.fresh).getD s))) ∧
    (∀ sid n, ∀ o ∈ (sameMoment s sid n).plots, o.2.sow = sid → o.2.seq = n) ∧
    (p.area = none → loadBlock s pid = s) ∧
    (∀ ia, p.area = some ia → blockReach s ia (blockSize s p) = true → pid = 2 ^ 32 * p.sow + p.no → ∀ i < p.nteams,
      (loadBlock s pid).team (16 * pid + i) = (s.team (16 * pid + i)).restored fun k => blockGet s (ia + recordAt s p i + 4 * k) 4) ∧
    (p.st = .halted → s.cur.arg.flag = true →
      exec .debugResumePlot s = .next (s.modPlot pid fun p => { p with st := .saved, halt := false, haltRec := [] })) ∧
    (p.st = .halted → s.cur.arg.flag = false → ∃ t, exec .debugResumePlot s = .next t ∧ Tbl.find? t.plots pid = none ∧
      (t.sow p.sow).retired = (s.sow p.sow).retired + 1 ∧ ∀ tk ∈ plotTeams p, Tbl.find? t.teams tk = none ∧ ∀ a ∈ t.accs, a.2.tk ≠ tk) ∧
    (Tbl.find? s.plots pid = some p → retireReady s p = true →
      (p.st = .bound ∨ p.st = .preempting ∨ p.st = .stopping ∧ (p.restart = false ∨ (s.sow p.sow).ended = true) → exec .plotRetire s = .next ((erasePlot s pid).modSow p.sow fun w => { w with retired := w.retired + 1 })) ∧
      (p.st = .stopping → p.restart = true → (s.sow p.sow).ended = false → ∃ t, exec .plotRetire s = .next t ∧ Tbl.find? t.plots pid = none ∧
        (t.sow p.sow).redo = (s.sow p.sow).redo ++ [p.no] ∧ p.sow ∈ Tbl.getD t.queues p.cls [])) ∧
    (retireReady s p = false → exec .plotRetire s = .next s) ∧
    (Tbl.find? (erasePlot s pid).plots pid = none ∧ ∀ i < p.nteams, Tbl.find? (erasePlot s pid).teams (16 * (2 ^ 32 * p.sow + p.no) + i) = none)

/-- R233 to R235, R347: a launch of a SOW, once its release has performed, or of the host, is judged; with status 0 the sowing stands at the end of its
class's queue under a new identifier; the team gets status and identifier, the host an answer. R34: no co-resident sowing that can never be bound whole is queued. Through
which ranges the header and the range image are read, the team's or the IAs that the host gives, is read
from the spec by inference (log entry 6), as is that the length of the constant block, which no word of the header holds, comes with the launch (log entry 14); the form of the
host's answer is the model's choice (log entry 24). That an event which is not enabled changes nothing is the model's choice (log entry 2).
Completes: launchStatus and hostLaunchMessage. -/
def Obligations.LaunchesAreJudged : Prop :=
  ∀ s : State, let x := s.cur.arg
    (∀ (r : Req) ws, Tbl.find? s.reqs x.a = some r → r.kind = .sow ws none → s.lead ≠ none →
      let o := launch s (ws.take 8) (ws.getD 8 0 == 1) r.dom (some r.tk) 0 x.b fun _ va off => translate s r.tk (va + off)
      exec .launchStatus s = .next (answer o.2.2 r (wrU r.dreg 1 o.1 ++ wrU (if r.dreg < 160 then r.dreg + 1 else 248) 1 o.2.1))) ∧
    (∀ (r : Req) ws sc, Tbl.find? s.reqs x.a = some r → r.kind = .sow ws (some sc) → s.lead ≠ none → releaseReady s r.tk r.grp sc = true →
      (s.team r.tk).rerr = false → gleanOf s r.tk = [] → trapsClear s r.tk r.id = true →
      let core := (s.team r.tk).core
      let u := noteScope (releaseBy (if 1 ≤ sc then l1Drop s core else s) r.tk core sc r.grp 0) (enKey r.tk) sc
      let o := launch u (ws.take 8) (ws.getD 8 0 == 1) r.dom (some r.tk) sc x.b fun _ va off => translate u r.tk (va + off)
      exec .launchStatus s = .next (answer o.2.2 r (wrU r.dreg 1 o.1 ++ wrU (if r.dreg < 160 then r.dreg + 1 else 248) 1 o.2.1))) ∧
    (∀ (r : Req) ws sc, Tbl.find? s.reqs x.a = some r → r.kind = .sow ws (some sc) → releaseReady s r.tk r.grp sc = false ∨ trapsClear s r.tk r.id = false →
      exec .launchStatus s = .next s) ∧
    (s.lead ≠ none → x.dest = 0 → ∃ t, exec .hostLaunchMessage s = .next t ∧
      let o := launch s x.words true (s.lead.getD 0) none 0 x.c fun img _ off => some ((if img then x.b else x.a) + off)
      t = { o.2.2 with replies := s.replies ++ [⟨x.node, x.tag % 2 ^ 32, [o.1, o.2.1]⟩] }) ∧
    (s.lead = none ∨ x.dest ≠ 0 → exec .hostLaunchMessage s = .next s) ∧
    (∀ ws priv dom tk rel clen tr, let l := launchOf ws
      let o := launch s ws priv dom tk rel clen tr
      let w := o.2.2.sow s.nextSid
      (l.cls = 0 → priv = false → o.1 = 7) ∧ (o.1 = 7 → o.2 = (0, s)) ∧ (o.1 ≠ 0 → o.1 ≠ 7 → o.2 = (0, kernelTouch s dom l.entry tr)) ∧
      (o.1 = 0 → o.2.1 = s.nextSid ∧ Tbl.getD o.2.2.queues l.cls [] = Tbl.getD s.queues l.cls [] ++ [s.nextSid] ∧
        (Tbl.getD s.queues l.cls []).length < 256 ∧ w.words = ws.take 8 ∧ w.cls = l.cls ∧ w.relScope = rel ∧ w.clen = clen ∧
        (∀ k, kernelOf s l.entry tr = some k → w.hdr = k.hdr ∧ w.ranges = k.ranges ∧
          (l.cores = true → neverWhole s l (if l.hint = 127 then dom else l.hint) (s.dom dom).guest k = false)) ∧
        (∀ k, k ≠ s.nextSid → o.2.2.sow k = s.sow k) ∧ o.2.2.teams = s.teams))

/-! ## Caches and tables -/

/-- R205, R206: cache maintenance acts once its team's earlier stores have performed, and is complete when its invalidations are acknowledged; a clean
leaves no line of the interval dirty, an invalidate or a flush leaves none at all; what was dirty a clean or a flush writes back to DRAM. That all lines of the
interval are acted on in one step is the model's choice (log entry 25). VCQUERY is answered with its word, by its home or, once it has left, by another node. That an event which is not enabled changes nothing is the model's choice (log entry 2).
Completes: vcmComplete. -/
def Obligations.CacheMaintenance : Prop :=
  ∀ (s : State) (r : Req), let x := s.cur.arg
    Tbl.find? s.reqs x.a = some r →
    (∀ op segs, r.kind = .vcm op segs →
      let mine (v : Inv) : Bool := v.isOf (2 ^ 64 + r.id) fun _ => true
      (r.acted = true → s.invs.any mine = true → exec .vcmComplete s = .next s) ∧
      (r.acted = true → s.invs.any mine = false → exec .vcmComplete s = .next (answer s r [])) ∧
      (r.acted = false → storesDone s r segs = false → exec .vcmComplete s = .next s) ∧
      (r.acted = false → storesDone s r segs = true →
        let u := segs.foldl (fun s q => vcmRun s op (s.team r.tk).core (2 ^ 64 + r.id) q.1 q.2) s
        exec .vcmComplete s = .next { u with reqs := Tbl.set u.reqs x.a { r with acted := true } })) ∧
    (∀ ia, r.kind = .vcquery ia →
      let out : Prop := iaNode ia ≠ 0 ∧ nodeIsHost s (iaNode ia) = false
      (iaNode ia = 0 → r.lost = false → exec .vcmComplete s = .next
        (answer ((readTables s (iaHome ia) (iaOff ia)).1.foldl (fun u k => touchMiss u (iaHome ia) k) s) r (wrU r.dreg 1 (vcQuery s ia)))) ∧
      (iaNode ia ≠ 0 → nodeIsHost s (iaNode ia) = true → r.lost = false → exec .vcmComplete s = .next (answer s r (wrU r.dreg 1 (vcQuery s ia)))) ∧
      (out → r.sent = none → exec .vcmComplete s = .next { s with reqs := Tbl.set s.reqs r.id { r with sent := some (sendOut s ia 0) } }) ∧
      (out → r.sent ≠ none → r.lost = false → exec .vcmComplete s = .next (answer s r (wrU r.dreg 1 (x.ext % 2 ^ 25)))) ∧
      (out → r.lost = true → expired s r.sent = false → exec .vcmComplete s = .next s)) ∧
    (∀ op core by_ ia n, iaNode ia = 0 → iaHome ia < 72 → iaOff ia < fleetBase → (∃ u vc key p, pageOf s (iaHome ia) ia true = (u, .local_ vc key p)) →
      let t := vcmRun s op core by_ ia n
      (∀ l ∈ (t.dom (iaHome ia)).lines, l.remote = false → l.base < ia + n → ia < l.base + l.size → op = 0 ∧ l.dirty = false) ∧
      ∀ l ∈ (s.dom (iaHome ia)).lines, op ≠ 1 → l.remote = false → l.base < ia + n → ia < l.base + l.size → l.dirty = true →
        (∀ k ∈ (s.dom (iaHome ia)).lines, k ≠ l → k.pa + k.size ≤ l.pa ∨ l.pa + l.size ≤ k.pa) → Mem.read t.dram l.pa l.size = l.data % 2 ^ (8 * l.size)) ∧
    (∀ ws, r.dropped = [] → (s.team r.tk).pend = [] → (∀ p thr, (s.team r.tk).st ≠ .counterWait p thr) →
      (answer s r ws).team r.tk = { (s.team r.tk).puts ws with infl := Tbl.put (s.team r.tk).infl 4 ((s.team r.tk).count 4 - 1) 0 } ∧
      Tbl.find? (answer s r ws).reqs r.id = none)

/-- R260 to R266: a table instruction is served when its image can be read, and writes its status: VCDEF and VCRESIZE take strips, unless
one is owned; RGSET writes an entry of a range set; PTINV drops translations and hints and ends waits on moving pages; REPLAY ends the entries it names, whose waiters repeat. An image on a
page that faults or moves waits for it; a word of it that may not be read gives status 4, which no
rule states: it is the model's choice, as are status 4 for a range of number 16 or more and status 7 for a token whose home is no domain or is down (log entry 19). That an image which another node or a far frame holds may be refused by it is log entry 15. R220: a dirty line may be written back at any moment.
R257, R258: a step of a sweep leaves no line in the set that it visits under the old geometry; the sweep ends when none is left: the record is active with its
new geometry, or free. That a step for a record which is active writes a dirty line back is the model's choice (log entry 21). That an event which is not enabled changes nothing is the model's choice (log entry 2).
Completes: tableInstructionStatus, vcSweepStep and vcSweepEnd. -/
def Obligations.TableInstructionsAndSweeps : Prop :=
  (∀ (s : State) (r : Req), let x := s.cur.arg
      let does (s : State) (ws : List Nat) : State × Nat := match r.kind with
        | .vcdef _ => vcDefine s r ws
        | .vcresize _ => vcResize s r ws
        | .rgset _ sid rn => rgSet s r sid.toNat rn.toNat ws
        | _ => (s, 0)
      let ends (o : State × Nat) : Prop := exec .tableInstructionStatus s = .next (answer o.1 r (wrU r.dreg 1 o.2))
      Tbl.find? s.reqs x.a = some r →
      (∀ ia n, r.kind = .ptinv ia n → x.flag = false → exec .tableInstructionStatus s = .next (answer (ptInv s ia n) r [])) ∧
      (∀ lo hi, r.kind = .replay lo hi → x.flag = false → ends (replayAct s lo.toNat hi.toNat)) ∧
      (∀ ia n, (r.kind = .vcdef ia ∨ r.kind = .vcresize ia) ∧ n = 16 ∨ (∃ a b, r.kind = .rgset ia a b) ∧ n = 8 →
        let out : Prop := imageOut s r ia n = true
        (x.flag = false → out → r.sent = none → exec .tableInstructionStatus s = .next { s with reqs := Tbl.set s.reqs r.id { r with sent := some (sendOut s ia 0) } }) ∧
        (x.flag = false → out → r.lost = true → exec .tableInstructionStatus s = .next s) ∧
        (x.flag = false → (out → r.sent ≠ none ∧ r.lost = false) →
          (∀ u ws, r.tok = 0 → imageRead s r ia n x.ext = some (u, some ws) → ends (does u ws)) ∧
          (r.tok ≠ 0 ∨ imageRead s r ia n x.ext = none → exec .tableInstructionStatus s = .next s) ∧
          (∀ u, r.tok = 0 → r.id = x.a → (s.plot (r.tk / 16)).st ≠ .stopping → imageRead s r ia n x.ext = some (u, none) →
            ∃ t k, exec .tableInstructionStatus s = .next t ∧ Tbl.find? t.reqs x.a = some { r with tok := k } ∧ t.teams = s.teams)) ∧
        (x.flag = true → out → r.sent ≠ none → (r.lost = true → expired s r.sent = true) → ends (does s (List.replicate n (2 ^ 32)))) ∧
        (out ↔ r.tok = 0 ∧ storesDone s r [(ia, 4 * n)] = true ∧ coreAhead s r ia (4 * n) = false ∧
          (iaNode ia ≠ 0 ∨ ∃ p, (pageOf s (iaHome ia) ia true).2 = .far p ∧ permRead p = true)))) ∧
  (∀ (s : State) (r : Req) (ws : List Nat), let d := s.dom (imgDom r ws)
      let g := imgGeo ws
      let old := Tbl.getD d.vcs (imgVc ws) {}
      2 ^ 32 ∉ ws → imgDom r ws < 72 → domUp d = true → nb (imgWord ws 0) 62 2 = 1 → imgZero ws = true → imgBadGeo d ws = false →
      (imgVc ws ≠ 63 →
        (old.st = 1 → vcDefine s r ws = (s, 2)) ∧ (old.st = 2 ∨ old.st = 3 → vcDefine s r ws = (s, 3)) ∧
        (old.st = 0 → g.strips.any (owned d) = true → vcDefine s r ws = (s, 1)) ∧
        (old.st = 0 → g.strips.any (owned d) = false → (vcDefine s r ws).2 = 0 ∧
          Tbl.find? ((vcDefine s r ws).1.dom (imgDom r ws)).vcs (imgVc ws) = some { st := 1, remote := nb (imgWord ws 0) 61 1 == 1, line := g.line
                                                                                    policy := nb (imgWord ws 0) 57 2, ways := g.ways, banks := g.banks } ∧
          ∀ st ∈ g.strips, imgVc ws < 64 → (Tbl.getD ((vcDefine s r ws).1.dom (imgDom r ws)).owner st 0).getLsbD 7 = true)) ∧
      (nb (imgWord ws 0) 61 1 = (if old.remote then 1 else 0) → nb (imgWord ws 0) 57 2 = old.policy →
        let o := vcResize s r ws
        let more := g.strips.filter fun x => !old.g.strips.contains x
        (old.st = 0 → o = (s, 6)) ∧ (2 ≤ old.st → o = (s, 3)) ∧ (old.st = 1 → more.any (owned d) = true → o = (s, 1)) ∧
        (old.st = 1 → more.any (owned d) = false → ¬ (g.line = old.line ∧ g.ways = old.ways ∧ g.banks = old.banks) → o.2 = 0 ∧
          Tbl.find? (o.1.dom (imgDom r ws)).vcs (imgVc ws) = some { old with st := 2, pline := g.line, pways := g.ways, pbanks := g.banks, sweep := 0 } ∧
          ∀ st ∈ more, imgVc ws < 64 → (Tbl.getD (o.1.dom (imgDom r ws)).owner st 0).getLsbD 7 = true) ∧
        (old.st = 1 → more.any (owned d) = false → g.line = old.line → g.ways = old.ways → g.banks = old.banks → o.2 = 0 ∧
          Tbl.find? (o.1.dom (imgDom r ws)).vcs (imgVc ws) = some { old with gen := (old.gen + 1) % 2 ^ 32 }))) ∧
  (∀ (s : State) (r : Req) (id rn : Nat) (ws : List Nat), let sid := if id = 0 then r.tk / 16 / 2 ^ 32 else id
      let g := imgRange ws
      let zero : Prop := nb g.w0.toNat 36 23 = 0 ∧ nb g.w1.toNat 56 8 = 0 ∧ nb g.w2.toNat 37 27 = 0 ∧ nb g.w3.toNat 36 28 = 0
      let valid : Prop := 1 ≤ g.count ∧ nodeIn s r.dom (g.ibase / 2 ^ 31) = true ∧
        (g.w0.getLsbD 62 = true → ∀ i ≤ nb g.w0.toNat 59 3, nb g.w1.toNat (7 * i) 7 < 72)
      (Tbl.find? s.sows sid = none → rgSet s r id rn ws = (s, 8)) ∧
      (Tbl.find? s.sows sid ≠ none → 2 ^ 32 ∈ ws ∨ 16 ≤ rn ∨ ¬ zero ∨ (g.v = true ∧ ¬ valid) → rgSet s r id rn ws = (s, 4)) ∧
      (Tbl.find? s.sows sid ≠ none → 2 ^ 32 ∉ ws → rn < 16 → zero → (g.v = true → valid) →
        rgSet s r id rn ws = (s.modSow sid fun w => { w with ranges := Tbl.set w.ranges rn g }, 0))) ∧
  (∀ (s : State) (ia n : Nat), let q := ia / 2 ^ 16
      let p := iaOff ia / 2 ^ 16
      ptInv s ia 0 = s ∧
      (1 ≤ n → ∃ (u : State) (es : List Nat), ptInv s ia n = es.foldl (fun s i => replayEntry s (iaHome ia) i) u ∧ { u with doms := s.doms } = s ∧
        (∀ i, i ∈ es ↔ ∃ e, (i, e) ∈ (s.dom (iaHome ia)).wait ∧ e.v = true ∧ e.st = 2 ∧ q ≤ e.page ∧ e.page < q + n) ∧
        (∀ c ∈ (u.dom (iaHome ia)).tcache, if c.2.1 then 32 * c.1 + 32 ≤ p ∨ p + n ≤ 32 * c.1 else c.1 < p ∨ p + n ≤ c.1) ∧
        ∀ d, (∀ h ∈ (u.dom d).hints, h.1 < q ∨ q + n ≤ h.1) ∧ (∀ h ∈ (s.dom d).hints, h.1 < q ∨ q + n ≤ h.1 → h ∈ (u.dom d).hints) ∧
          { u.dom d with hints := (s.dom d).hints, tcache := (s.dom d).tcache } = s.dom d)) ∧
  (∀ (s : State) (home i : Nat), let e := Tbl.getD (s.dom home).wait i {}
      let t := replayEntry s home i
      let tok := e.token i
      let mine (ia : Nat) : Prop := iaNode ia = 0 ∧ iaHome ia = home
      (e.v = false → t = s) ∧
      (e.v = true → let e' := Tbl.getD (t.dom home).wait i {}
        (e'.v = false ∨ e'.gen ≠ e.gen) ∧ ((s.dom home).repQ = [] → e' = { e with v := false, st := 3 }) ∧
        (∀ a ∈ t.accs, ∀ l ∈ a.2.lanes, ∀ ia b, l.loc = .ia ia → l.st = .faulted tok b → ¬ mine ia) ∧
        (∀ c, ∀ g ∈ (t.core c).glean, g.tok = tok → mine (g.block * 64) → g.ready = true) ∧
        (∀ c, ∀ f ∈ (t.core c).filt, f.tok = tok → ¬ mine (f.page * 2 ^ 16)) ∧
        ∀ m ∈ t.cmds, m.2.tok = tok + 2 ^ 32 * home → m.2.tok = 0)) ∧
  (∀ (s : State) (lo hi : Nat), let h := hi / 2 ^ 16 % 2 ^ 7
      let ia := lo + 2 ^ 32 * hi
      let o := replayAct s lo hi
      (2 ^ 31 ≤ hi →
        (72 ≤ h ∨ domUp (s.dom h) = false → o = (s, 7)) ∧
        (h < 72 → domUp (s.dom h) = true →
          (hi % 2 ^ 16 ≠ 0 ∨ hi / 2 ^ 23 % 2 ^ 8 ≠ 0 → o = (s, 4)) ∧
          (hi % 2 ^ 16 = 0 → hi / 2 ^ 23 % 2 ^ 8 = 0 → let e := Tbl.getD (s.dom h).wait (lo % 2 ^ 10) {}
            o = if e.v = true ∧ e.gen = lo / 2 ^ 10 then (replayEntry s h (lo % 2 ^ 10), 0) else (s, 9)))) ∧
      (hi < 2 ^ 31 → let es := ((s.dom (iaHome ia)).wait.filter fun e => e.2.v && e.2.page == ia / 2 ^ 16).map (·.1)
        (domUp (s.dom (iaHome ia)) = false → o = (s, 7)) ∧
        (domUp (s.dom (iaHome ia)) = true → o = if es = [] then (s, 9) else (es.foldl (fun s i => replayEntry s (iaHome ia) i) s, 0)))) ∧
  (∀ s : State, let x := s.cur.arg
      let d := s.dom x.a
      let r := Tbl.getD d.vcs x.b {}
      (r.st < 2 → exec .vcSweepEnd s = .next s ∧ ∃ t, exec .vcSweepStep s = .next t ∧ t.teams = s.teams ∧
        (findLine d false x.b r.gen x.c = none → t = s) ∧
        ∀ l, findLine d false x.b r.gen x.c = some l → ∀ y ∈ (t.dom x.a).lines, y.same l = true → y.dirty = false) ∧
      (∀ b st, 2 ≤ r.st → r.gen < 2 ^ 32 → sweepAt r = some (b, st) → ∃ t, exec .vcSweepStep s = .next t ∧
        Tbl.find? (t.dom x.a).vcs x.b = some { r with sweep := r.sweep + 1 } ∧
        (∀ l ∈ (t.dom x.a).lines, ¬ (l.vc = x.b ∧ l.remote = r.remote ∧ l.gen = r.gen ∧ l.bank = b ∧ l.set = st)) ∧ t.teams = s.teams) ∧
      (2 ≤ r.st → oldLines d x.b r ≠ [] → exec .vcSweepEnd s = .next s) ∧
      (r.st = 2 → oldLines d x.b r = [] → ∃ t, exec .vcSweepEnd s = .next t ∧ Tbl.find? (t.dom x.a).vcs x.b = some { r with
        st := 1, line := r.pline, ways := r.pways, banks := r.pbanks, pline := 0, pways := 0, pbanks := 0, sweep := 0, gen := (r.gen + 1) % 2 ^ 32 }) ∧
      (2 < r.st → oldLines d x.b r = [] → ∃ t, exec .vcSweepEnd s = .next t ∧ Tbl.find? (t.dom x.a).vcs x.b = none))

/-! ## Containment -/

/-- R8, R9, R189, R332: the fence of a column, a channel or a domain memory sets its bit and pulls the trip line, and no step clears a bit that is set. With a column go its banks' lines and strips,
the domain's watches, and the engines of its cores; a post that a saved plot is to make again stays. That an event which is not enabled changes nothing is the model's choice (log entry 2).
Completes: columnFence, channelFence and memoryFence. -/
def Obligations.Containments : Prop :=
  (∀ s : State, let x := s.cur.arg
    let d := s.dom x.a
    x.a < 72 →
    (x.b < 12 → d.colF.getLsbD x.b = false → ∃ t, exec .columnFence s = .next t ∧ (t.dom x.a).colF = d.colF ||| BitVec.twoPow 12 x.b ∧
      (∀ l ∈ (t.dom x.a).lines, l.bank / 12 ≠ x.b) ∧ (t.dom x.a).watch = [] ∧ t.trip = s.trip ++ [⟨3, 0, s.tick⟩] ∧
      (∀ c, c / 4 = 12 * x.a + x.b → (t.core c).fifo = [] ∧ (t.core c).copyQ = [] ∧ (t.core c).iredQ = []) ∧
      (∀ m ∈ t.cmds, m.2.core / 4 = 12 * x.a + x.b → (t.plot (pidOf m.2.tk)).resident = false) ∧ tileFenced t x.a (6144 * x.b) = true ∧ quadLive t x.a x.b = false) ∧
    (x.b < 12 → d.colF.getLsbD x.b = true → exec .columnFence s = .next s) ∧
    (x.b < 12 → d.chF.getLsbD x.b = false → ∃ t, exec .channelFence s = .next t ∧ (t.dom x.a).chF = d.chF ||| BitVec.twoPow 12 x.b ∧
      (t.dom x.a).colF = d.colF ∧ (t.dom x.a).lineMemF = d.lineMemF ∧ t.trip = s.trip ++ [⟨3, 0, s.tick⟩]) ∧
    (x.b < 12 → d.chF.getLsbD x.b = true → exec .channelFence s = .next s) ∧
    (d.lineMemF = false → ∃ t, exec .memoryFence s = .next t ∧ (t.dom x.a).lineMemF = true ∧ t.trip = s.trip ++ [⟨3, 0, s.tick⟩] ∧
      (∀ off tc, (walk t x.a off tc).2 = .fault 4)) ∧
    (d.lineMemF = true → exec .memoryFence s = .next s)) ∧
  (∀ s t : State, step s = .next t → ∀ d,
    (∀ c, (s.dom d).colF.getLsbD c = true → (t.dom d).colF.getLsbD c = true) ∧
    (∀ c, (s.dom d).chF.getLsbD c = true → (t.dom d).chF.getLsbD c = true) ∧ ((s.dom d).lineMemF = true → (t.dom d).lineMemF = true))

/-! ## The tick, snapshots, boot, power, controllers -/

/-- R280, R283, R284: a tick edge raises TICK by 1 and touches no team and no memory; a core's cycle counter runs to the clock of its quad, and that of a fenced core stands (R352); a debugger's trip joins the line; two ticks later, modulo 2^40, every
live block latches its counters, or counts a miss; VALID is cleared for one block. That the latch, and the action of a quad's controller (R341), are steps of their own, for which TICK waits, is read from the spec by inference (log entry 23). That an event which is not enabled changes nothing is the model's choice (log entry 2).
Completes: tick, debuggerSnapshotTrip, snapshotLatch and snapshotClear. -/
def Obligations.TickAndSnapshots : Prop :=
  ∀ s : State, let x := s.cur.arg
    (latchDue s = false → piDue s = false → ∃ t, exec .tick s = .next t ∧ t.tick = (s.tick + 1) % 2 ^ 40 ∧ t.teams = s.teams ∧ t.dram = s.dram ∧ t.spm = s.spm ∧ t.fleet = s.fleet ∧
      (∀ c y, Tbl.find? s.cores c = some y → (t.core c).cyc = if coreGone s c then y.cyc else max y.cyc (y.cbase + (s.quad (c / 4)).clock)) ∧
      { t with tick := s.tick, cores := s.cores, doms := s.doms, tiles := s.tiles, freeN := s.freeN, sows := s.sows } = s) ∧
    (latchDue s = true ∨ piDue s = true → exec .tick s = .next s) ∧
    exec .debuggerSnapshotTrip s = .next { s with trip := s.trip ++ [⟨2, 0, s.tick⟩] } ∧
    (latchDue s = false → exec .snapshotLatch s = .next s) ∧
    (∀ p r, s.trip = p :: r → 2 ≤ (s.tick + 2 ^ 40 - p.tick) % 2 ^ 40 → ∃ t, exec .snapshotLatch s = .next t ∧ t.trip = r ∧ t.teams = s.teams ∧
      ∀ d < 72, (s.dom d).live = true →
        let latched (o n : Snap) (cs : List Nat) : Prop := n = if o.valid then { o with miss := min 255 (o.miss + 1) }
          else { o with valid := true, src := p.src, tag := if p.src = 1 then p.tag else 0, tick := s.tick, copies := cs }
        latched (s.dom d).snap (t.dom d).snap (domCounters (s.dom d)) ∧
        ∀ q < 12, (s.dom d).colF.getLsbD q = false →
          latched (s.quad (12 * d + q)).snap (t.quad (12 * d + q)).snap (quadCounters (s.quad (12 * d + q))) ∧
          ∀ c < 4, latched (s.core (4 * (12 * d + q) + c)).snap (t.core (4 * (12 * d + q) + c)).snap (coreCounters (s.core (4 * (12 * d + q) + c)))) ∧
    (∀ c, x.block = .core c → exec .snapshotClear s = .next (s.modCore c fun y => { y with snap := { y.snap with valid := false } })) ∧
    (∀ q, x.block = .quad q → exec .snapshotClear s = .next (s.modQuad q fun y => { y with snap := { y.snap with valid := false } })) ∧
    (∀ d, x.block = .dom d → exec .snapshotClear s = .next (s.modDom d fun y => { y with snap := { y.snap with valid := false } }))

/-- R335 to R339: within 5 s of power-good, a domain whose image does not verify is held down; one that verifies is booted, with what its tests found fenced, VC 0 defined
over its live banks, and its measurements extended from 0, and its quads' controllers start (R341); 5 s after power-good the lowest domain that has booted leads; the lead answers for the wafer's measurements. That an event which is not enabled changes nothing is the model's choice (log entry 2). The order of the fields of a report is the model's choice (log entry 24).
Completes: powerGood, bootWindowClose and attestationRequest. -/
def Obligations.BootAndAttestation : Prop :=
  ∀ s : State, let x := s.cur.arg
    let m := s.dom x.a
    (x.a < 72 → m.booted = false → m.halted = false → s.windowClosed = false → s.tick < 5000000 →
      (imageOk x.img = false → exec .powerGood s = .next (s.modDom x.a fun m => { m with halted := true })) ∧
      (imageOk x.img = true → ∃ t, exec .powerGood s = .next t ∧ (t.dom x.a).booted = true ∧
        (∀ c < 12, (t.dom x.a).colF.getLsbD c = (m.colF.getLsbD c || x.us.contains c)) ∧
        (∀ c < 12, (t.dom x.a).chF.getLsbD c = (m.chF.getLsbD c || x.vs.contains c)) ∧ (t.dom x.a).lineMemF = (m.lineMemF || x.flag) ∧
        (t.dom x.a).live = decide (44 ≤ 4 * liveColumns (t.dom x.a)) ∧
        (∀ q < 12, let z := t.quad (12 * x.a + q); z.u = 500 ∧ z.ePrev = 0 ∧ z.f = 500 ∧ z.ratio = 0 ∧ z.raises = [] ∧ z.piAt = s.tick) ∧
        Tbl.getD (t.dom x.a).vcs 0 {} = { st := 1, remote := false, line := 1, policy := 0, ways := 1, banks := liveBanks (t.dom x.a) } ∧
        Tbl.getD (t.dom x.a).meas 0 0 = Config.sha384 (digestBytes 0 ++ digestBytes (Config.sha384 Config.bootRom)) ∧
        Tbl.getD (t.dom x.a).meas 1 0 = Config.sha384 (digestBytes 0 ++ x.img.hdr) ∧
        Tbl.getD (t.dom x.a).meas 2 0 = Config.sha384 (digestBytes 0 ++ (bytesLE Config.partid.toNat 4 ++ Config.fuseBlock ++ bandBytes)) ∧
        Tbl.getD (t.dom x.a).meas 3 0 = Config.sha384 (digestBytes 0 ++ topoBytes t x.a) ∧ (∀ d, d ≠ x.a → t.dom d = s.dom d))) ∧
    (s.windowClosed = true ∨ 5000000 ≤ s.tick ∨ m.booted = true ∨ m.halted = true → exec .powerGood s = .next s) ∧
    (s.windowClosed = true ∨ s.tick < 5000000 → exec .bootWindowClose s = .next s) ∧
    (s.windowClosed = false → 5000000 ≤ s.tick → ∃ t, exec .bootWindowClose s = .next t ∧ t.windowClosed = true ∧ t.epoch = (s.epoch + 1) % 2 ^ 32 ∧
      t.lead = (List.range 72).find? (fun d => (s.dom d).booted) ∧ t.doms = s.doms ∧ t.teams = s.teams ∧
      (t.lead ≠ none → ∀ n < 64, ∀ p ∈ s.ports, (nodeWord t n 1).testBit p = false)) ∧
    (x.dest ≠ 0 → exec .attestationRequest s = .next s) ∧
    (x.dest = 0 → ∃ t rep, exec .attestationRequest s = .next t ∧ t = { s with replies := s.replies ++ [⟨x.node, x.tag % 2 ^ 32, rep⟩] } ∧ (s.lead = none → rep = [1]) ∧
      (s.lead ≠ none → ∃ l, rep = 0 :: (x.c % 2 ^ 384) :: l ∧ s.tick ∈ l ∧ ∀ d < 72, ∀ n < 4, (Tbl.getD (s.dom d).meas n 0).toNat ∈ l))

/-- R340 to R343, R349: one action of a quad's controller on the power of a tick; a raise of the ratio comes into effect when it is due, modulo 2^40, a fall at once; the ceiling follows the cycles in which some matrix engine of the quad was busy in the last 64 ticks;
a write of the budget keeps the controller's state; a layer idle for 1 ms may sleep. That a raise
is due by a clock that wraps, that the ceiling takes what history there is where it is shorter than 64 ticks, and that a class-0 plot counts as bound until it is saved, are read from
the spec by inference (log entry 23). That an event which is not enabled changes nothing is the model's choice (log entry 2). The power estimate and the capacity come with their events (log entry 16).
Completes: quadPiTick, ratioRaise, budgetWrite and selfRefreshEntry. -/
def Obligations.PowerSteps : Prop :=
  ∀ s : State, let x := s.cur.arg
    let q := s.quad x.a
    (x.a < 864 → (s.dom (x.a / 12)).booted = true → q.piAt ≠ s.tick → ∃ t, exec .quadPiTick s = .next t ∧
      let r := t.quad x.a
      let e : Int := q.budget - x.b
      let floor : Int := if classZeroIn s x.a then 1300 else 500
      let u : Int := q.u + q.kp * (e - q.ePrev) + q.ki * e
      r.u = min (max u floor) q.ceil ∧ r.ePrev = e ∧ (0 ≤ r.u → (r.f : Int) ≤ r.u ∧ r.u < r.f + 25 ∧ r.f % 25 = 0) ∧
        r.mbusy = ((busyCycles q.mruns q.clock, q.clock) :: q.mbusy).take 64 ∧
        (r.ceil : Int) = min (if (r.mbusy.map (·.2)).sum ≤ 4 * (r.mbusy.map (·.1)).sum then 2100 else 2300) (10 * Config.bandFX (x.a / 12)) ∧
        r.energy = (q.energy + x.b) % 2 ^ 68 ∧ r.piAt = s.tick ∧ r.budget = q.budget ∧ r.ratio ≤ ratioFor r.f ∧
        (∀ k, k ≠ x.a → t.quad k = s.quad k) ∧ t.teams = s.teams) ∧
    (q.piAt = s.tick ∨ (s.dom (x.a / 12)).booted = false → exec .quadPiTick s = .next s) ∧
    (∀ runs n, busyCycles runs n = ((List.range n).filter fun c => runs.any fun r => decide (r.1 ≤ c) && decide (c < r.2)).length) ∧
    (x.a < 864 → ∃ t, exec .ratioRaise s = .next t ∧ (∀ k, k ≠ x.a → t.quad k = s.quad k) ∧
      { t.quad x.a with ratio := q.ratio, raises := q.raises } = q ∧ (t.quad x.a).raises = q.raises.filter (fun r => decide (2 ^ 39 ≤ (s.tick + 2 ^ 40 - r.2) % 2 ^ 40)) ∧
      q.ratio ≤ (t.quad x.a).ratio ∧ ∀ r ∈ q.raises, (s.tick + 2 ^ 40 - r.2) % 2 ^ 40 < 2 ^ 39 → r.1 ≤ (t.quad x.a).ratio) ∧
    (x.a < 864 → exec .budgetWrite s = .next (s.modQuad x.a fun q => { q with ki := x.c / 2 ^ 24 % 2 ^ 8, kp := x.c / 2 ^ 16 % 2 ^ 8, budget := x.c % 2 ^ 16, cap := x.b })) ∧
    (x.a < 72 → x.b < 12 →
      (mayRefresh s x.a x.b = true → exec .selfRefreshEntry s = .next (s.modDom x.a fun m => { m with srefresh := m.srefresh ||| BitVec.twoPow 12 x.b })) ∧
      (mayRefresh s x.a x.b = false → exec .selfRefreshEntry s = .next s))

/-- R237, R252, R344 to R346, R348: a write of a controller register reads back; a controller answers messages once its domain has booted, and a message for another node is not its own; a port out of service
leaves the PORTS of every node row, and what is on its way by it is lost; a debugger reads memory, as a load would, without changing what is held. That a write of a code which never occurs (NB, TVEC), or of what a controller only reads, changes nothing, and the form of an answer, are the model's choice (log entry 24). That an event which is not enabled changes nothing is the model's choice (log entry 2).
Completes: controllerRegisterWrite, controllerAccessMessage, portTrainingFailure and debugMemoryRead. -/
def Obligations.ControllersAndDebugger : Prop :=
  ∀ s : State, let x := s.cur.arg
    let w := BitVec.ofNat 64 x.c
    (x.a < 72 → exec .controllerRegisterWrite s = .next (regWrite s x.a x.reg x.c)) ∧
    ((x.reg = .ptroot → regWrite s x.a x.reg x.c = s.modDom x.a fun m => { m with ptroot := w }) ∧
     (∀ c, x.reg = .tvec c → x.c % 16 ∈ [4, 8, 12] → regWrite s x.a x.reg x.c =
        s.modCore (48 * x.a + c % 48) fun y => { y with tvec := BitVec.ofNat 64 (x.c % 2 ^ 57) }) ∧
     (∀ m k, x.reg = .chanMap m k → m < 4 → k < 2 → regWrite s x.a x.reg x.c = s.modDom x.a fun y => { y with
        maps := Tbl.set y.maps (2 * m + k) (BitVec.ofNat 64 (x.c &&& if k = 0 then 0xF000FFFFFFFFFFFF else 0xFFFFFCFFFFFFFFFF)) }) ∧
     (∀ c k, x.reg = .nb c k → x.c % 16 ∈ [4, 5, 6, 7, 8, 9, 10, 11, 12] → regWrite s x.a x.reg x.c = s) ∧
     (∀ n k, x.reg = .glean n k 0 → regWrite s x.a x.reg x.c = s) ∧
     (∀ c i, x.reg = .wpt c i → regWrite s x.a x.reg x.c = s.modCore (48 * x.a + c % 48) fun y => { y with wpt := Tbl.put y.wpt (i % 2) w 0 }) ∧
     (x.reg ∈ [.topoHeader, .fqprod] → regWrite s x.a x.reg x.c = s)) ∧
    (let back (r : CtlReg) (n : Nat) : Prop := ∀ g, regRead (regWrite s x.a r x.c) x.a g r = n
     back .ptroot (x.c % 2 ^ 64) ∧ back .fqbase (x.c % 2 ^ 58) ∧ back .fqsize (x.c % 2 ^ 5) ∧ back .pctxbase (x.c % 2 ^ 64) ∧ back .lctxbase (x.c % 2 ^ 64) ∧
     (∀ m < 4, back (.chanMap m 0) (x.c % 2 ^ 64 &&& 0xF000FFFFFFFFFFFF) ∧ back (.chanMap m 1) (x.c % 2 ^ 64 &&& 0xFFFFFCFFFFFFFFFF)) ∧
     (∀ c, (x.c % 16 ∈ [4, 8, 12] → back (.tvec c) (x.c % 2 ^ 57)) ∧ back (.pos c) (x.c % 4) ∧
       (∀ k, x.c % 16 ∉ [4, 5, 6, 7, 8, 9, 10, 11, 12] → back (.nb c k) (x.c % 16)) ∧
       back (.srg c 0) (x.c &&& (2 ^ 63 + (2 ^ 36 - 1))) ∧ back (.srg c 1) (x.c % 2 ^ 36) ∧ back (.srg c 2) (x.c % 2 ^ 37) ∧
       (∀ i, back (.bkpt c i) (x.c % 2 ^ 57 + x.c / 2 ^ 63 % 2 * 2 ^ 63) ∧ back (.wpt c i) (x.c % 2 ^ 64))) ∧
     back .guest x.c ∧ back .guestNo x.c ∧ back .guestNodes (x.c % 2 ^ 64) ∧
     back .retention (if x.c % 2 ^ 20 ≤ (s.dom x.a).w then x.c % 2 ^ 20 else (s.dom x.a).w) ∧
     (∀ q, back (.budget q) (x.c % 2 ^ 32) ∧ back (.subst q) x.c) ∧
     (∀ n < 64, regRead (regWrite s x.a (.nodeRow n 0) x.c) x.a false (.nodeRow n 0) = x.c % 2 ^ 64 ∧
       ∀ p, (regRead (regWrite s x.a (.nodeRow n 1) x.c) x.a false (.nodeRow n 1)).testBit p = ((x.c % 2 ^ 64).testBit p && !s.ports.contains p)) ∧
     (∀ e < 72, x.a < 72 → regRead (regWrite s x.a (.route e) x.c) x.a false (.route e) = if x.c / 2 ^ 7 % 2 = 1 then x.c % 2 ^ 8 &&& 0xBF else 0)) ∧
    ((s.dom x.a).booted = false ∨ x.dest ≠ 0 → exec .controllerAccessMessage s = .next s) ∧
    ((s.dom x.a).booted = true → x.dest = 0 →
      (x.wr = none → exec .controllerAccessMessage s = .next { regTouch s x.a x.reg with replies := (regTouch s x.a x.reg).replies ++ [⟨x.node, x.tag % 2 ^ 32, [0, regRead s x.a x.flag x.reg]⟩] }) ∧
      (∀ v, x.wr = some v → ∃ t, exec .controllerAccessMessage s = .next t ∧
        t = { regWrite s x.a x.reg v with replies := (regWrite s x.a x.reg v).replies ++ [⟨x.node, x.tag % 2 ^ 32, [0]⟩] })) ∧
    (x.a < 64 → ∃ t, exec .portTrainingFailure s = .next t ∧ x.a ∈ t.ports ∧ (∀ k, { t.team k with fetchSent := (s.team k).fetchSent } = s.team k) ∧
      (∀ n < 64, (nodeWord t n 1).testBit x.a = false) ∧ (∀ n < 64, nodeWord t n 0 = nodeWord s n 0) ∧
      (∀ a ∈ t.accs, ∀ l ∈ a.2.lanes, ∀ m, l.sent = some m → m.port = x.a → m.lost = true) ∧
      (∀ c ∈ t.cmds, ∀ m, c.2.sent = some m → m.port = x.a → m.lost = true) ∧ (∀ c ∈ t.reqs, ∀ m, c.2.sent = some m → m.port = x.a → m.lost = true) ∧
      (∀ k, ∀ m ∈ (t.team k).fetchSent, m.2.port = x.a → m.2.lost = true) ∧
      ∀ c, ∀ g ∈ (t.core c).glean, ∀ m, g.sent = some m → m.port = x.a → m.lost = true) ∧
    (let d := iaHome x.a
     let r := pageOf s d x.a x.flag
     let gives (u : State) (body : List Nat) : Prop := exec .debugMemoryRead s = .next { u with replies := u.replies ++ [⟨x.node, x.tag % 2 ^ 32, body⟩] }
     (iaNode x.a ≠ 0 → gives s [2, x.ext]) ∧
     (iaNode x.a = 0 → 72 ≤ d → gives s [1, 1]) ∧
     (iaNode x.a = 0 → d < 72 → (s.dom d).booted = false → exec .debugMemoryRead s = .next s) ∧
     (iaNode x.a = 0 → d < 72 → (s.dom d).booted = true → 1 ≤ x.b →
       (fleetBase ≤ iaOff x.a → gives s [1, 1]) ∧
       (iaOff x.a < fleetBase →
         (∀ k, r.2 = .fault k → gives r.1 [1, k]) ∧
         (∀ p, r.2 = .far p → gives r.1 (if permRead p then [2, x.ext] else [1, 5])) ∧
         (∀ vc key p, r.2 = .local_ vc key p → permRead p = false → gives r.1 [1, 5]) ∧
         (∀ vc key p, r.2 = .local_ vc key p → permRead p = true → x.a % 1024 + x.b ≤ 1024 →
           gives (touchMiss (dirTouch (countUndef r.1 d false vc) d (x.a / 256)) d key) [0, homePeek s d key x.b]))) ∧
     ∃ t, exec .debugMemoryRead s = .next t ∧ t.dram = s.dram ∧ t.teams = s.teams ∧ ∀ e, (t.dom e).lines = (s.dom e).lines)

/-- R34, R288 to R290, R293, R295, R296, R298: while fewer than 8 stand in a loam core's queue, the first plot of the sowing whose turn it is enters it, of the first class that no co-resident sowing holds up and that has one for the core, a plot to be bound again first, once
its issued stores have performed; a co-resident loam sowing that holds a class up enters the queues whole, once each has room. The head is bound, with LANES in every k register, or
stops when its core is fenced; a saved plot runs again, with what the record of its core holds if that is its own (that a record of another plot, or one that cannot be reached, restores nothing is the model's choice, log entry 17); a lane of an access reads or writes its layer
once every earlier access to the same bytes has performed; of two lanes of one store to one word the higher is written. That the
higher lane is written, and that a stop by the walker writes the lanes of a load that have performed and drops the plot's later loads, are read from the spec by inference (log entry 22). That an event which is not enabled changes nothing is the model's choice (log entry 2).
Completes: loamDispatch, loamBind, loamResume and loamAccessComplete. -/
def Obligations.LoamEvents : Prop :=
  ∀ s : State, let x := s.cur.arg
    let q := (s.loam x.a).queue
    (s.lead = none → exec .loamDispatch s = .next s) ∧
    (s.lead ≠ none →
      let here (sid k : Nat) : Prop := let w := s.sow sid
        k % 12 = x.a % 12 ∧ hintDom w.home (launchOf w.words).hstep (k / 12) = x.a / 12
      let fresh (sid k : Nat) : Prop := let w := s.sow sid
        here sid k ∧ w.next ≤ k ∧ k < (launchOf w.words).count ∧ k ∉ w.bound
      let again (sid k : Nat) : Prop := here sid k ∧ k ∈ (s.sow sid).redo ∧ (s.lplot (2 ^ 32 * sid + k)).out = []
      let waits (sid k : Nat) : Prop := again sid k ∨ fresh sid k
      let none_ (c : Nat) : Prop := ∀ z ∈ roundRobin s (4 + c) c true, ∀ k, ¬ waits z k
      (8 ≤ q.length ∨ (∀ c < 4, (∀ e ≤ c, headWaits s e = none) → none_ c) →
        ((∀ c < 4, ∀ sid, headWaits s c = some sid → (∀ e < c, headWaits s e = none) → (launchOf (s.sow sid).words).loam = false) → exec .loamDispatch s = .next s) ∧
        (∀ c sid, c < 4 → headWaits s c = some sid → (∀ e < c, headWaits s e = none) → (launchOf (s.sow sid).words).loam = true →
          exec .loamDispatch s = .next ((loamWhole sid (s.sow sid).unbound s).getD s))) ∧
      (∀ sid ps, ((∃ p ∈ ps, loamRoom s sid p = false) → loamWhole sid ps s = none) ∧
        ∀ t, loamWhole sid ps s = some t → t.teams = s.teams ∧ ∀ p ∈ ps, 2 ^ 32 * sid + p ∈ (t.loam (loamCoreOf (s.sow sid) p)).queue) ∧
      (q.length < 8 → ∀ c l sid r k, c < 4 → (∀ e ≤ c, headWaits s e = none) → (∀ e < c, none_ e) → roundRobin s (4 + c) c true = l ++ sid :: r →
        (∀ z ∈ l, ∀ n, ¬ waits z n) → waits sid k →
        ∃ t n, waits sid n ∧ ((∃ m, again sid m) → again sid n) ∧ ((∀ m, ¬ again sid m) → n ≤ k) ∧
          exec .loamDispatch s = .next t ∧ (t.loam x.a).queue = q ++ [2 ^ 32 * sid + n] ∧ t.teams = s.teams ∧
          let p := t.lplot (2 ^ 32 * sid + n)
          p.sow = sid ∧ p.lk = x.a ∧ p.cls = (launchOf (s.sow sid).words).cls ∧ p.lanes = (launchOf (s.sow sid).words).lanes ∧ p.bound = false ∧ p.out = [])) ∧
    (∀ pid, loamHead s x.a = some pid → (s.loam x.a).run = none → (s.lplot pid).bound = false →
      let p := s.lplot pid
      ((s.dom (x.a / 12)).chF.getLsbD (x.a % 12) = true → exec .loamBind s = .next (loamStop s pid 10 0 0 false)) ∧
      ((s.dom (x.a / 12)).chF.getLsbD (x.a % 12) = false → (s.dom (x.a / 12)).lineMemF = true →
        exec .loamBind s = .next (loamStop s pid 10 0 0 false (some (x.a / 12, 0)))) ∧
      ((s.dom (x.a / 12)).chF.getLsbD (x.a % 12) = false → (s.dom (x.a / 12)).lineMemF = false →
        ∀ img, loamImage s (s.sow p.sow).rangeList (x.a / 12) (((s.sow p.sow).words.getD 0 0).toNat + 2 ^ 32 * ((s.sow p.sow).words.getD 1 0).toNat) = some img →
        ∃ t, exec .loamBind s = .next t ∧ (t.loam x.a).run = some pid ∧ (t.lplot pid).bound = true ∧ (t.lplot pid).pc = 0 ∧
          (t.lplot pid).len = img.length ∧ (∀ j < img.length, Mem.get (t.lplot pid).code j = img.getD j 0) ∧
          (∀ cs, sowRead s (s.sow p.sow).rangeList (x.a / 12) (constAt (s.sow p.sow).hdr) (min (s.sow p.sow).clen 32768) = some cs →
            ∀ j < cs.length, Mem.get (t.lplot pid).code (32768 + j) = cs.getD j 0) ∧ (t.lplot pid).buf = [] ∧ (∀ n j, (t.lplot pid).rdW n j = 0) ∧ (∀ n, (t.lplot pid).rdX n = 0) ∧
          (∀ n < 4, p.lanes ≤ 32 → (t.lplot pid).rdK n = 2 ^ p.lanes - 1) ∧ t.teams = s.teams)) ∧
    (∀ pid, loamHead s x.a = some pid → (s.loam x.a).run = none → (s.lplot pid).bound = true →
      let p := s.lplot pid
      let word (i : Nat) : Option Nat := ctlRead s ((s.dom (p.lk / 12)).lctx.toNat + 4352 * (p.lk % 12) + 8 * i) 8
      let w (i : Nat) : Nat := (word i).getD 0
      let own : Bool := (List.range 544).all (fun i => (word i).isSome) && w 531 / 2 ^ 32 == p.sow && w 532 % 2 ^ 32 == pid % 2 ^ 32
      ∃ t, exec .loamResume s = .next t ∧ (t.loam x.a).run = some pid ∧ t.teams = s.teams ∧
        let q := t.lplot pid
        q.lstat = lstatOf 0 0 0 (p.lk % 12) ∧ q.out = (p.out.map fun a => if a.held then { a with held := false, tok := 0 } else a) ∧
        (own = true → q.pc = w 530 % 2 ^ 16 ∧ (∀ n, 1 ≤ n → n < 16 → q.rdX n = w (512 + n) % 2 ^ 64) ∧
          (∀ n < 4, q.rdK n = nb (w (528 + n / 2)) (32 * (n % 2)) 32) ∧ ∀ n < 32, ∀ j < 32, q.rdW n j = nb (w ((32 * n + j) / 2)) (32 * (j % 2)) 32) ∧
        (own = false → { q with lstat := p.lstat, out := p.out, spill := p.spill } = p)) ∧
    (∀ p a l vc key perm u, Tbl.find? s.lplots x.a = some p → p.out[x.b]? = some a → a.lanes.find? (fun l => l.1 == x.c) = some l → a.tok = 0 →
      let st := a.kind == 1 || a.kind == 3
      (a.held = true ∨ loamOrder (p.out.take x.b) l.2.2.1 a.n = false → exec .loamAccessComplete s = .next s) ∧
      (a.held = false → loamOrder (p.out.take x.b) l.2.2.1 a.n = true → st = false → pageOf s (p.lk / 12) l.2.2.1 x.flag = (u, .local_ vc key perm) →
      (permRead perm = false → exec .loamAccessComplete s = .next (if (p.out.take x.b).any (fun b => b.kind == 0 || b.kind == 2) then s else loamStop
        (u.modLPlot x.a fun q => { a.write q with out := q.out.take x.b }) x.a 7 5 (l.2.2.1 / 2 ^ 16) false)) ∧
      (permRead perm = true → exec .loamAccessComplete s = .next (loamFinish ((touchLayer u key).modLPlot x.a fun q => { q with
        out := q.out.set x.b { a with lanes := a.lanes.filter fun m => m.1 != l.1, got := a.got ++ [(l.1, Mem.read s.dram key a.n)] } }) x.a x.b)))) ∧
    (∀ p a l vc key perm u, Tbl.find? s.lplots x.a = some p → p.out[x.b]? = some a → a.lanes.find? (fun l => l.1 == x.c) = some l → a.tok = 0 →
      a.held = false → a.kind = 1 ∨ a.kind = 3 → loamOrder (p.out.take x.b) l.2.2.1 a.n = true → pageOf s (p.lk / 12) l.2.2.1 x.flag = (u, .local_ vc key perm) → permWrite perm = true →
      ∃ t, exec .loamAccessComplete s = .next t ∧
        t.dram = (if a.lanes.any fun m => decide (l.1 < m.1) && m.2.2.1 == l.2.2.1 then s.dram else Mem.write s.dram key l.2.2.2 a.n) ∧ t.teams = s.teams)

/-! ## Reset, encodings, the step, invariants -/

/-- R341, R182, R184, R237, R183, R280, R281: the machine at reset. The clock and the counters are 0, nothing is bound, no domain is live, every
register of a controller has its reset value, every fleeting tile is expired, and the memories are in canonical form. That a byte of memory reads as 0
before it is written is the model's choice (log entry 4), as are that no column is fenced, where R252 calls that bit's reset Shipment, and that no domain leads (log entry 5). -/
def Obligations.ResetState : Prop :=
  let s := State.reset
  s.tick = 0 ∧ s.lead = none ∧ s.trip = [] ∧ s.teams = [] ∧ s.plots = [] ∧ s.sows = [] ∧ s.lplots = [] ∧ s.accs = [] ∧ s.cmds = [] ∧ s.reqs = [] ∧
  (∀ d, let m := s.dom d
    m.live = false ∧ m.colF = 0 ∧ m.chF = 0 ∧ m.w = 1000 ∧ m.fqbase = 0 ∧ m.fqsize = 10 ∧ m.fqprod = 0 ∧ m.fqcons = 0 ∧
    nb (mapWord m 0 0) 60 4 = 12 ∧ (∀ i < 12, nb (mapWord m 0 0) (4 * i) 4 = i) ∧ nb (mapWord m 0 1) 42 22 = 0 ∧
    nb (mapWord m 0 1) 20 20 = 786432 ∧ nb (mapWord m 0 1) 0 20 = 0 ∧ (∀ k w, 1 ≤ k → k < 4 → w < 2 → mapWord m k w = 0) ∧
    (∀ t, tileAt s d t = ⟨true, 0⟩) ∧ ∀ b, (Tbl.getD m.owner b 0) = 0) ∧
  (∀ q, (s.quad q).ki = 1 ∧ (s.quad q).kp = 8 ∧ (s.quad q).budget = Config.nomBud ∧ (s.quad q).energy = 0) ∧
  (∀ c, (s.core c).cyc = 0 ∧ (s.core c).grp = 0 ∧ (s.core c).mstall = 0 ∧ (s.core c).rets = 0 ∧ (s.core c).snap.valid = false) ∧
  (Mem.wf s.dram = true ∧ Mem.wf s.spm = true ∧ Mem.wf s.fleet = true) ∧
  ∀ a, Mem.get s.dram a = 0 ∧ Mem.get s.spm a = 0 ∧ Mem.get s.fleet a = 0

/-- R53 to R56, R68 to R73, R299, R300: words written out from the encoding tables decode to the instructions that they stand for, every operand field at
every value. A word of an unassigned opcode decodes to its name. -/
def Obligations.DecodeWords : Prop :=
  ∀ (c : BitVec 1) (d a b : BitVec 8) (k : BitVec 16) (e : BitVec 24),
    decode [c ++ 0x20#7 ++ d ++ a ++ b] = some (.uadd d a b none) ∧
    decode [1#1 ++ 0x20#7 ++ d ++ a ++ b, 0#1 ++ 0x7F#7 ++ e] = some (.uadd d a b (some e)) ∧
    decode [c ++ 0x01#7 ++ d ++ a ++ b] = some (.vaddBu d a b none) ∧
    (∀ (n : BitVec 5) (p : BitVec 3), decode [c ++ 0x0C#7 ++ n ++ p ++ a ++ b] = some (.vfcmp n p a b none)) ∧
    (∀ u : BitVec 1, decode [c ++ 0x17#7 ++ d ++ a ++ u ++ 0x00#7] = some (.viunMov d a u none)) ∧
    decode [c ++ 0x3C#7 ++ d ++ k] = some (.ldcB32 d k none) ∧
    decode [c ++ 0x41#7 ++ d ++ a ++ b] = some (.ldB32 d a b none) ∧
    (∀ (n : BitVec 1) (q : BitVec 3), decode [c ++ 0x61#7 ++ 0#4 ++ n ++ q ++ k] = some (.bra n q k)) ∧
    decode [c ++ 0x64#7 ++ d ++ a ++ 0x00#8] = some (.jmp d a) ∧
    decode [c ++ 0x6D#7 ++ d ++ a ++ 0x02#8] = some (.barwait d a) ∧
    decode [c ++ 0x70#7 ++ d ++ k] = some (.csrr d k) ∧
    (∀ (r : BitVec 1) (sc : BitVec 3), decode [c ++ 0x79#7 ++ d ++ a ++ r ++ sc ++ 0#4] = some (.sow d a r sc)) ∧
    decode [c ++ 0x1F#7 ++ d ++ a ++ b] = some (.unassignedOpcode (c ++ 0x1F#7 ++ d ++ a ++ b)) ∧
    (∀ (x y z : BitVec 5) (m : BitVec 2) (t : BitVec 3) (v : BitVec 1) (i : BitVec 9) (j : BitVec 21),
      decodeLoam (0x00#6 ++ x ++ y ++ z ++ m ++ t ++ 0#5 ++ v) = .loamVadd x y z m t v ∧
      decodeLoam (0x11#6 ++ x ++ y ++ k) = .loamSaddi x y k ∧
      decodeLoam (0x20#6 ++ x ++ y ++ 0#5 ++ m ++ i) = .loamVld x y m i ∧
      decodeLoam (0x31#6 ++ x ++ y ++ k) = .loamBcc x y k ∧
      decodeLoam (0x0C#6 ++ x ++ j) = .loamUnassignedOpcode (0x0C#6 ++ x ++ j))

/-- R53 to R56, R68 to R73, R299 to R311: decoding the words of a well-formed instruction gives it back, with every operand at every value that
its encoding holds. -/
def Obligations.DecodeEncode : Prop :=
  ∀ i : Instr, i.wellFormed = true →
    (forCore i = true → decode (encode i) = some i) ∧
    (forLoam i = true → ∃ w, encode i = [w] ∧ decodeLoam w = i) ∧
    (i.isEvent = true → encode i = [])

/-- What a step does with the turn that is next: an event happens; a loam core runs the instruction at its plot's PC, or stops the plot past the end of its
image (R311), unless it is held; the team that the arbiter prefers starts at its PC, past a packet of filler there (R51), and runs the instruction that its group's word, with its E word if it has one, decodes to, once the word's checks
pass, and its PC is the address after the group. With no turn given, the tick comes; a latch that is due comes before any turn (R284; log entry 1). That a hold of a loam core comes before the stop past the end of
its image is read from the spec by inference (log entry 22), as is that a handler's first word is not passed over as filler (log entry 14). -/
def Obligations.StepRunsDecoded : Prop :=
  ∀ s : State,
    (latchDue s = true → step s = exec .snapshotLatch { s with cur := { arg := {} } }) ∧
    (latchDue s = false → s.sched = [] → step s = exec .tick { s with cur := { arg := {} } }) ∧
    (∀ i x r, latchDue s = false → s.sched = .event i x :: r →
      (i.isEvent = true → step s = exec i { s with sched := r, cur := { arg := x } }) ∧ (i.isEvent = false → step s = .next { s with sched := r })) ∧
    (∀ lk r pid, latchDue s = false → s.sched = .loam lk :: r → (s.loam lk).run = some pid →
      let u := { s with sched := r, cur := { lk := lk } }
      let p := s.lplot pid
      (p.pc < p.len → step s = exec (decodeLoam (BitVec.ofNat 32 (Mem.read p.code p.pc 4))) u) ∧
      (p.len ≤ p.pc → step s = .next (if loamHolds u pid then u else loamStop u pid 2 0 0 false))) ∧
    (∀ core n x r c cs, latchDue s = false → s.sched = .part core n x :: r → candidatesOf { s with sched := r } core n x = c :: cs →
      let o := openGroup { s with sched := r } c.tk c.cyc x
      (o.ct.via = none → o.ct.entered = true ∨ fillerAt o c.tk o.ct.pc = false → startOf o c.tk = .at_ o.ct.pc) ∧
      ∀ (va : Nat) (f : FWord) (fs : List FWord) (i : Instr), startOf o c.tk = .at_ va →
        let o := o.modCt fun t => { t with pc := va, via := none }
        let o := { o with cur := { o.cur with gpc := va } }
        breakAt o o.ct va = none → fetchFrom o c.tk 4 va true = .ok (f :: fs) [] →
        (fs = [] ∧ decode [f.word] = some i ∨
          ∃ g, fs = [g] ∧ takesE (opcode f.word) = true ∧ chain f.word = true ∧ isE g.word = true ∧ decode [f.word, g.word] = some i) →
        let g : GWord := ⟨f.addr, f.word, 0, i⟩
        let link := seqAfter o c.tk (match fs with | [g] => g.addr | _ => f.addr) fillerFuel
        let v := { fetchTouch o c.tk (f :: fs) with cur := { o.cur with link := link, cpp := max 1 (form i).cpp } }
        checkWord v [g] g = .go → reserved v o.ct c.tk [g] = true →
        ∃ u k, step s = Answer.bind (exec i (aim u [g] g .effect)) (fun t => .next (endGroup t k)) ∧ u.cur = v.cur ∧
          u.ct = { o.ct with pc := link, via := none, entered := false, last := some (k + 1), redir := 0, since := c.cyc, owed := false, fetchSent := [] } ∧
          (∀ tk, tk ≠ c.tk → u.team tk = o.team tk) ∧ { u with teams := v.teams, cores := v.cores, quads := v.quads } = v ∧
          { v with doms := o.doms, cur := o.cur } = o)

/-- A byte memory lists its bytes in rising order of address, and none that reads as an unlisted one: every step from a state whose memories are so
leaves them so. The form is the model's own: a byte that is not listed reads 0 (log entry 4, the model's choice). -/
def Obligations.MemoryCanonical : Prop :=
  ∀ s t : State, Mem.wf s.dram = true ∧ Mem.wf s.spm = true ∧ Mem.wf s.fleet = true → step s = .next t →
    Mem.wf t.dram = true ∧ Mem.wf t.spm = true ∧ Mem.wf t.fleet = true
end

