-- ==== Sys2Proof/Laws/Arith.lean ====
section
/-! SUPPORT. The integer operations on patterns held as natural numbers agree with those on bit vectors. -/
namespace Sys2Proof.Laws
open Sys2Proof.Machine Sys2Proof.Safety

theorem sx_toNat {w : Nat} (x : BitVec w) (hw : 0 < w) : sx w x.toNat = x.toInt := by
  have h := x.isLt
  have h2 : 2 ^ w = 2 * 2 ^ (w - 1) := by rw [← Nat.pow_succ']; congr 1; omega
  simp only [sx, Nat.mod_eq_of_lt h, BitVec.toInt_eq_toNat_cond]
  have h3 : ((2 ^ w : Nat) : Int) = 2 ^ w := by push_cast; rfl
  split <;> split <;> first | rfl | omega

theorem ux_toNat (w : Nat) (z : Int) : ux w z = (BitVec.ofInt w z).toNat := by
  simp [ux, BitVec.toNat_ofInt]

theorem ofNat_ux (w : Nat) (z : Int) : BitVec.ofNat w (ux w z) = BitVec.ofInt w z := by
  rw [ux_toNat, BitVec.ofNat_toNat]; simp

theorem divS_eq {w : Nat} (hw : 0 < w) (x y : BitVec w) : divS w x.toNat y.toNat = (sdivW x y).toNat := by
  have h0 : (y.toNat = 0) = (y = 0) := by simp [BitVec.toNat_eq]
  simp only [divS, sdivW, sx_toNat _ hw, ux_toNat, h0]
  split <;> simp [BitVec.toNat_allOnes]

theorem divU_eq {w : Nat} (x y : BitVec w) : divU w x.toNat y.toNat = (udivW x y).toNat := by
  have h0 : (y.toNat = 0) = (y = 0) := by simp [BitVec.toNat_eq]
  simp only [divU, udivW, h0]
  split <;> simp [BitVec.toNat_allOnes]

theorem remS_eq {w : Nat} (hw : 0 < w) (x y : BitVec w) : remS w x.toNat y.toNat = (sremW x y).toNat := by
  have h0 : (y.toNat = 0) = (y = 0) := by simp [BitVec.toNat_eq]
  simp only [remS, sremW, sx_toNat _ hw, ux_toNat, h0]
  split <;> rfl

theorem remU_eq {w : Nat} (x y : BitVec w) : remU w x.toNat y.toNat = (uremW x y).toNat := by
  have h0 : (y.toNat = 0) = (y = 0) := by simp [BitVec.toNat_eq]
  simp only [remU, uremW, h0]
  split <;> simp

theorem mulhS_eq {w : Nat} (hw : 0 < w) (x y : BitVec w) : mulhS w x.toNat y.toNat = (mulhsW x y).toNat := by
  simp only [mulhS, mulhsW, sx_toNat _ hw, ux_toNat]
  rw [Int.fdiv_eq_ediv_of_nonneg _ (by positivity)]

theorem mulhU_eq {w : Nat} (x y : BitVec w) : mulhU w x.toNat y.toNat = (mulhuW x y).toNat := by
  simp only [mulhU, mulhuW, BitVec.toNat_ofNat]
  refine (Nat.mod_eq_of_lt ?_).symm
  exact Nat.div_lt_of_lt_mul (Nat.mul_lt_mul'' x.isLt y.isLt)

theorem sarU_eq {w : Nat} (hw : 0 < w) (x : BitVec w) (n : Nat) : sarU w x.toNat n = (x.sshiftRight n).toNat := by
  simp only [sarU, sx_toNat _ hw, ux_toNat, BitVec.sshiftRight, Int.shiftRight_eq_div_pow]
  rw [Int.fdiv_eq_ediv_of_nonneg _ (by positivity)]
  push_cast; rfl

theorem minS_eq {w : Nat} (hw : 0 < w) (x y : BitVec w) : minS w x.toNat y.toNat = (minsW x y).toNat := by
  by_cases h : x.toInt ≤ y.toInt <;> simp [minS, minsW, sx_toNat _ hw, BitVec.sle, h]

theorem maxS_eq {w : Nat} (hw : 0 < w) (x y : BitVec w) : maxS w x.toNat y.toNat = (maxsW x y).toNat := by
  by_cases h : x.toInt ≤ y.toInt <;> simp [maxS, maxsW, sx_toNat _ hw, BitVec.sle, h]

theorem minU_eq {w : Nat} (x y : BitVec w) : min x.toNat y.toNat = (minuW x y).toNat := by
  simp only [minuW, BitVec.le_def]; split <;> omega

theorem maxU_eq {w : Nat} (x y : BitVec w) : max x.toNat y.toNat = (maxuW x y).toNat := by
  simp only [maxuW, BitVec.le_def]; split <;> omega

theorem absU_eq {w : Nat} (hw : 0 < w) (x : BitVec w) : absU w x.toNat = (absW x).toNat := by
  simp only [absU, absW, sx_toNat _ hw, ux_toNat]

theorem popc_count (x : Nat) : ∀ n, popc x n = (List.range n).countP (fun i => x.testBit i)
  | 0 => rfl
  | n + 1 => by
    rw [popc, popc_count x n, List.range_succ, List.countP_append]
    simp [List.countP_cons]; omega

theorem popc_eq {w : Nat} (x : BitVec w) : popc x.toNat w = (popW x).toNat := by
  have hb : (fun i => x.toNat.testBit i) = fun i => x.getLsbD i := by funext i; simp [BitVec.getLsbD]
  rw [popc_count, hb, popW, BitVec.toNat_ofNat, Nat.mod_eq_of_lt]
  exact lt_of_le_of_lt (List.countP_le_length) (by simpa using Nat.lt_two_pow_self)

theorem clz_spec (x : Nat) : ∀ n, x < 2 ^ n → clz x n = n - (if x = 0 then 0 else Nat.log2 x + 1)
  | 0, h => by simp at h; simp [clz]
  | n + 1, h => by
    rw [clz]
    by_cases hb : x.testBit n = true
    · have hge : 2 ^ n ≤ x := Nat.ge_two_pow_of_testBit hb
      have h0 : x ≠ 0 := by have := Nat.two_pow_pos n; omega
      have hl : Nat.log2 x = n := by
        rw [Nat.log2_eq_iff h0]; exact ⟨hge, h⟩
      simp [hb, h0, hl]
    · have hlt : x < 2 ^ n := by
        by_contra hc
        exact hb (by
          rw [Nat.testBit_eq_decide_div_mod_eq]
          have h1 : x / 2 ^ n = 1 := by
            apply Nat.div_eq_of_lt_le <;> omega
          simp [h1])
      rw [if_neg hb, clz_spec x n hlt]
      split
      · omega
      · next h0 =>
        have : Nat.log2 x < n := (Nat.log2_lt h0).mpr hlt
        omega

theorem clz_eq {w : Nat} (x : BitVec w) : clz x.toNat w = (clzW x).toNat := by
  rw [clz_spec _ _ x.isLt, clzW, BitVec.toNat_ofNat, Nat.mod_eq_of_lt]
  exact lt_of_le_of_lt (Nat.sub_le _ _) Nat.lt_two_pow_self

theorem brev_testBit (x : Nat) : ∀ n i, (brev x n).testBit i = (decide (i < n) && x.testBit (n - 1 - i))
  | 0, i => by simp [brev]
  | n + 1, 0 => by
    rw [brev, Nat.testBit_zero]
    by_cases h : x.testBit n <;> simp [h]
  | n + 1, i + 1 => by
    have hd : ((if x.testBit n then 1 else 0) + 2 * brev x n) / 2 = brev x n := by split <;> omega
    rw [brev, Nat.testBit_succ, hd, brev_testBit x n i]
    congr 1
    · simp
    · congr 1; omega

theorem brev_eq {w : Nat} (x : BitVec w) : brev x.toNat w = x.reverse.toNat := by
  apply Nat.eq_of_testBit_eq
  intro i
  rw [brev_testBit]
  have h := BitVec.getLsbD_reverse (i := i) (x := x)
  simp only [BitVec.getLsbD] at h
  rw [h, BitVec.getMsbD]
  simp only [BitVec.getLsbD]

theorem icond_eq {w : Nat} (hw : 0 < w) (k : Nat) (x y : BitVec w) : icond w k x.toNat y.toNat = condW k x y := by
  have he : (x.toNat == y.toNat) = (x == y) := by rw [Bool.eq_iff_iff]; simp [BitVec.toNat_eq]
  unfold icond condW
  simp only [sx_toNat _ hw, BitVec.slt, BitVec.sle, BitVec.ult, BitVec.ule, bne, he]
  all_goals (split <;> first | rfl | (split <;> simp_all))

end Sys2Proof.Laws
end

