-- ==== Sys2Proof/Laws/Ops.lean ====
section
/-! SUPPORT. What the shared operations can do: registers read and written, a word that issues, a result on its way. -/
namespace Sys2Proof.Laws
open Sys2Proof.Machine Sys2Proof.Safety

/-! ## The width of an E word -/

theorem eWidth_eq (e : EPay) : eWidth e = 32 * eRegs e := by unfold eWidth eRegs; split <;> rfl
theorem eWidth_pos (e : EPay) : 0 < eWidth e := by unfold eWidth; split <;> decide

/-! ## Registers -/

theorem get_s_lt (t : Team) (n : Nat) : t.get (.s n) < 2 ^ 32 := (Tbl.getD t.sreg n 0).isLt
theorem get_v_lt (t : Team) (l n : Nat) : t.get (.v l n) < 2 ^ 32 := (Tbl.getD t.win (t.elem l n) 0).isLt
theorem get_o_lt (t : Team) (l n : Nat) : t.get (.o l n) < 2 ^ 32 := (Tbl.getD t.ofile (8 * l + n) 0).isLt

theorem regs32_lt (t : Team) (f : Nat → Slot) (h : ∀ k, t.get (f k) < 2 ^ 32) : ∀ n k, t.regs32 f k n < 2 ^ (32 * n)
  | 0, _ => by simp [Team.regs32]
  | n + 1, k => by
    have h1 := h k
    have h2 := regs32_lt t f h n (k + 1)
    have h3 : 2 ^ (32 * (n + 1)) = 2 ^ 32 * 2 ^ (32 * n) := by rw [← pow_add]; congr 1; omega
    rw [Team.regs32, h3]
    have : t.regs32 f (k + 1) n + 1 ≤ 2 ^ (32 * n) := h2
    nlinarith

theorem rdU_lt (t : Team) (v n : Nat) : t.rdU v n < 2 ^ (32 * n) := by
  unfold Team.rdU
  split
  · exact regs32_lt t _ (get_s_lt t) n v
  · split
    · exact Nat.mod_lt _ (Nat.two_pow_pos _)
    · exact Nat.two_pow_pos _

theorem rdV_lt (t : Team) (v n l : Nat) : t.rdV v n l < 2 ^ (32 * n) := by
  unfold Team.rdV
  split
  · exact regs32_lt t _ (fun k => get_v_lt t l k) n v
  · split
    · exact regs32_lt t _ (fun k => get_o_lt t l k) n _
    · exact Nat.mod_lt _ (Nat.two_pow_pos _)

/-- A register read as a bit vector of its width loses nothing. -/
theorem toNat_rdU (t : Team) (v : Nat) (e : EPay) : (BitVec.ofNat (eWidth e) (t.rdU v (eRegs e))).toNat = t.rdU v (eRegs e) := by
  rw [BitVec.toNat_ofNat, Nat.mod_eq_of_lt]; rw [eWidth_eq]; exact rdU_lt t v _

theorem toNat_rdV (t : Team) (v l : Nat) (e : EPay) : (BitVec.ofNat (eWidth e) (t.rdV v (eRegs e) l)).toNat = t.rdV v (eRegs e) l := by
  rw [BitVec.toNat_ofNat, Nat.mod_eq_of_lt]; rw [eWidth_eq]; exact rdV_lt t v _ l

/-- Only the low 32 n bits of a value are written to n registers. -/
theorem wrRegs_mod (f : Nat → Slot) : ∀ (n k x : Nat), wrRegs f k (x % 2 ^ (32 * n)) n = wrRegs f k x n
  | 0, _, _ => rfl
  | n + 1, k, x => by
    have h3 : 2 ^ (32 * (n + 1)) = 2 ^ 32 * 2 ^ (32 * n) := by rw [← pow_add]; congr 1; omega
    rw [wrRegs, wrRegs, h3, Nat.mod_mul_right_mod, Nat.mod_mul_right_div_self, wrRegs_mod f n]

theorem wrU_mod (d n x : Nat) : wrU d n (x % 2 ^ (32 * n)) = wrU d n x := by
  unfold wrU; split
  · exact wrRegs_mod _ _ _ _
  · rfl

theorem wrV_mod (d n l x : Nat) : wrV d n l (x % 2 ^ (32 * n)) = wrV d n l x := by
  unfold wrV; split
  · exact wrRegs_mod _ _ _ _
  · split
    · exact wrRegs_mod _ _ _ _
    · rfl

theorem uniRes_mod (d n x : Nat) : uniRes d n (x % 2 ^ (32 * n)) = uniRes d n x := by
  simp [uniRes, wrU_mod]

/-- A uniform result given as a bit vector. -/
theorem uniRes_toNat (d x : Nat) (e : EPay) (r : BitVec (eWidth e)) (h : BitVec.ofNat _ x = r) :
    uniRes d (eRegs e) r.toNat = uniRes d (eRegs e) x := by
  rw [← h, BitVec.toNat_ofNat, eWidth_eq, uniRes_mod]

/-! ## A word that issues -/

theorem Clear.verdict {i : Instr} {s : State} (h : Clear i s) : formVerdict (form i) s = .go := by
  have hf : (form i).ops.find? (fun o => !o.legal s.ct) = none := by
    rw [List.find?_eq_none]; intro o ho; simp [h.legal o ho]
  have hm : ((form i).mem && fenceHold s) = false := by
    cases hm : (form i).mem
    · rfl
    · simpa using h.ordered hm
  have hp : ((form i).priv && !s.ct.priv) = false := by
    cases hp : (form i).priv
    · rfl
    · simp [h.mode hp]
  simp [formVerdict, h.formed, hp, hf, h.settled, h.written, hm]

/-- Where the checks of a form pass, the entry's own decide. -/
theorem wordVerdict_go {f : Form} {chk : State → Verdict} {s : State} (h : formVerdict f s = .go) : wordVerdict f chk s = chk s := by
  simp [wordVerdict, h]

theorem issue_clear {i : Instr} {s : State} (h : Clear i s) (chk : State → Verdict) (eff : State → State) (hc : chk s = .go) :
    issue (form i) chk eff s = .next (eff s) := by
  have hv : wordVerdict (form i) chk s = .go := (wordVerdict_go (Clear.verdict h)).trans hc
  cases hph : s.cur.phase
  · simp [issue, hv, hph]
  · exact absurd hph h.issues
  · simp [issue, hph]

end Sys2Proof.Laws
end

