-- ==== Sys2Proof/Laws/Table.lean ====
section
/-! SUPPORT. Sparse tables and byte memories: a read after a write, and the canonical form. -/
namespace Sys2Proof.Laws
open Sys2Proof.Machine

variable {α : Type}

@[simp] theorem find_nil (k : Nat) : Tbl.find? ([] : Tbl α) k = none := rfl

@[simp] theorem find_set_self (t : Tbl α) (k : Nat) (v : α) : Tbl.find? (Tbl.set t k v) k = some v := by
  induction t with
  | nil => simp [Tbl.set, Tbl.find?]
  | cons p r ih =>
    obtain ⟨k', v'⟩ := p
    simp only [Tbl.set]
    split
    · simp [Tbl.find?]
    · split
      · simp [Tbl.find?]
      · simp [Tbl.find?, ih, show ¬k' = k by omega]

@[simp] theorem find_set_ne (t : Tbl α) {k j : Nat} (v : α) (h : j ≠ k) : Tbl.find? (Tbl.set t k v) j = Tbl.find? t j := by
  induction t with
  | nil => simp [Tbl.set, Tbl.find?, Ne.symm h]
  | cons p r ih =>
    obtain ⟨k', v'⟩ := p
    simp only [Tbl.set]
    split
    · simp [Tbl.find?, Ne.symm h]
    · split
      · next h1 => subst h1; simp [Tbl.find?, Ne.symm h]
      · simp [Tbl.find?, ih]

@[simp] theorem getD_set_self (t : Tbl α) (k : Nat) (v d : α) : Tbl.getD (Tbl.set t k v) k d = v := by simp [Tbl.getD]
@[simp] theorem getD_set_ne (t : Tbl α) {k j : Nat} (v d : α) (h : j ≠ k) : Tbl.getD (Tbl.set t k v) j d = Tbl.getD t j d := by
  simp [Tbl.getD, h]

/-- Of two writes at one key the later stands. -/
@[simp] theorem set_set (t : Tbl α) (k : Nat) (v w : α) : Tbl.set (Tbl.set t k v) k w = Tbl.set t k w := by
  induction t with
  | nil => simp [Tbl.set]
  | cons p r ih =>
    obtain ⟨j, x⟩ := p
    by_cases h1 : k < j
    · simp [Tbl.set, h1]
    · by_cases h2 : k = j
      · simp [Tbl.set, h2]
      · simp [Tbl.set, h1, h2, ih]

/-- A change of every value. -/
theorem find_mapV (f : α → α) (t : Tbl α) (k : Nat) : Tbl.find? (Tbl.mapV f t) k = (Tbl.find? t k).map f := by
  induction t with
  | nil => rfl
  | cons p r ih =>
    obtain ⟨j, x⟩ := p
    by_cases h : j = k
    · simp [Tbl.mapV, Tbl.find?, h]
    · simpa [Tbl.mapV, Tbl.find?, h] using ih

theorem find_erase_self (t : Tbl α) (k : Nat) : Tbl.find? (Tbl.erase t k) k = none := by
  induction t with
  | nil => rfl
  | cons p r ih =>
    obtain ⟨k', v'⟩ := p
    by_cases h : k' = k
    · simpa [Tbl.erase, h] using ih
    · simpa [Tbl.erase, h, Tbl.find?] using ih

theorem find_erase_ne (t : Tbl α) {k j : Nat} (h : j ≠ k) : Tbl.find? (Tbl.erase t k) j = Tbl.find? t j := by
  induction t with
  | nil => rfl
  | cons p r ih =>
    obtain ⟨k', v'⟩ := p
    by_cases h' : k' = k
    · simpa [Tbl.erase, h', Tbl.find?, Ne.symm h] using ih
    · by_cases h2 : k' = j
      · simp [Tbl.erase, h2, h, Tbl.find?]
      · simpa [Tbl.erase, h', Tbl.find?, h2] using ih

theorem getD_erase_self (t : Tbl α) (k : Nat) (d : α) : Tbl.getD (Tbl.erase t k) k d = d := by simp [Tbl.getD, find_erase_self]
theorem getD_erase_ne (t : Tbl α) {k j : Nat} (d : α) (h : j ≠ k) : Tbl.getD (Tbl.erase t k) j d = Tbl.getD t j d := by
  simp [Tbl.getD, find_erase_ne t h]

variable [DecidableEq α]

/-- The value read after one is put at a key, whatever the table. -/
theorem getD_put_ne (t : Tbl α) {k j : Nat} (v d : α) (h : j ≠ k) : Tbl.getD (Tbl.put t k v d) j d = Tbl.getD t j d := by
  unfold Tbl.put; split
  · exact getD_erase_ne t d h
  · exact getD_set_ne t v d h

theorem getD_put_self (t : Tbl α) (k : Nat) (v d : α) : Tbl.getD (Tbl.put t k v d) k d = v := by
  unfold Tbl.put; split
  · next h => rw [getD_erase_self, h]
  · exact getD_set_self t k v d

theorem getD_put (t : Tbl α) (k j : Nat) (v d : α) : Tbl.getD (Tbl.put t k v d) j d = if k = j then v else Tbl.getD t j d := by
  split
  · next h => rw [← h, getD_put_self]
  · next h => rw [getD_put_ne t v d (Ne.symm h)]

theorem wfFrom_mono {d : α} {lo lo' : Nat} {t : Tbl α} (h : Tbl.wfFrom d lo t = true) (hl : lo' ≤ lo) : Tbl.wfFrom d lo' t = true := by
  cases t with
  | nil => rfl
  | cons p r => obtain ⟨k, v⟩ := p; simp [Tbl.wfFrom] at *; exact ⟨⟨by omega, h.1.2⟩, h.2⟩

theorem wfFrom_filter {d : α} {lo : Nat} {t : Tbl α} (f : Nat × α → Bool) (h : Tbl.wfFrom d lo t = true) : Tbl.wfFrom d lo (t.filter f) = true := by
  induction t generalizing lo with
  | nil => rfl
  | cons p r ih =>
    obtain ⟨k, v⟩ := p
    simp only [Tbl.wfFrom, Bool.and_eq_true, decide_eq_true_eq] at h
    rw [List.filter_cons]; split
    · simp [Tbl.wfFrom, h.1.1, h.1.2, ih h.2]
    · exact ih (wfFrom_mono h.2 (by omega))

theorem wfFrom_set {d : α} {lo : Nat} {t : Tbl α} (k : Nat) (v : α) (h : Tbl.wfFrom d lo t = true) (hk : lo ≤ k) (hv : v ≠ d) :
    Tbl.wfFrom d lo (Tbl.set t k v) = true := by
  induction t generalizing lo with
  | nil => simp [Tbl.set, Tbl.wfFrom, hk, hv]
  | cons p r ih =>
    obtain ⟨k', v'⟩ := p
    simp only [Tbl.wfFrom, Bool.and_eq_true, decide_eq_true_eq] at h
    simp only [Tbl.set]
    split
    · simp [Tbl.wfFrom, *]
    · split
      · simp [Tbl.wfFrom, *]
      · simp [Tbl.wfFrom, h.1.1, h.1.2, ih h.2 (by omega)]

theorem wfFrom_put {d : α} {lo : Nat} {t : Tbl α} (k : Nat) (v : α) (h : Tbl.wfFrom d lo t = true) (hk : lo ≤ k) :
    Tbl.wfFrom d lo (Tbl.put t k v d) = true := by
  unfold Tbl.put; split
  · exact wfFrom_filter _ h
  · next hv => exact wfFrom_set k v h hk hv

/-! ## Byte memories -/

theorem mem_wf_set {m : Mem} (a : Nat) (b : BitVec 8) (h : m.wf = true) : (m.set a b).wf = true :=
  wfFrom_put a b h (Nat.zero_le _)

theorem mem_wf_write {m : Mem} (a v n : Nat) (h : m.wf = true) : (m.write a v n).wf = true := by
  induction n generalizing m a v with
  | zero => exact h
  | succ n ih => exact ih (a + 1) (v / 256) (mem_wf_set a _ h)

theorem mem_wf_nil : Mem.wf [] = true := rfl

theorem mem_get_set_self (m : Mem) (a : Nat) (b : BitVec 8) : (m.set a b).get a = b := getD_put_self m a b 0
theorem mem_get_set_ne (m : Mem) {a j : Nat} (b : BitVec 8) (h : j ≠ a) : (m.set a b).get j = m.get j := getD_put_ne m b 0 h

/-- A write leaves every byte outside it. -/
theorem mem_get_write_ne (m : Mem) (a v n j : Nat) (h : j < a ∨ a + n ≤ j) : (m.write a v n).get j = m.get j := by
  induction n generalizing m a v with
  | zero => rfl
  | succ n ih => rw [Mem.write, ih _ _ _ (by omega), mem_get_set_ne _ _ (by omega)]

/-- A byte written is read back. -/
theorem mem_get_write (m : Mem) (a v n i : Nat) (hi : i < n) :
    (m.write a v n).get (a + i) = BitVec.ofNat 8 (v / 256 ^ i) := by
  induction n generalizing m a v i with
  | zero => omega
  | succ n ih =>
    rw [Mem.write]
    cases i with
    | zero =>
      have := mem_get_write_ne (m.set a (BitVec.ofNat 8 v)) (a + 1) (v / 256) n a (by omega)
      simpa [mem_get_set_self] using this
    | succ i =>
      have := ih (m.set a (BitVec.ofNat 8 v)) (a + 1) (v / 256) i (by omega)
      rw [show a + (i + 1) = a + 1 + i by omega, this, Nat.div_div_eq_div_mul, pow_succ, mul_comm]

/-- What was written is read back. -/
theorem mem_read_write (m : Mem) (a v n : Nat) : (m.write a v n).read a n = v % 2 ^ (8 * n) := by
  have key : ∀ (n : Nat) (m : Mem) (a v : Nat), (∀ i < n, m.get (a + i) = BitVec.ofNat 8 (v / 256 ^ i)) →
      m.read a n = v % 256 ^ n := by
    intro n
    induction n with
    | zero => intro m a v _; simp [Mem.read, Nat.mod_one]
    | succ n ih =>
      intro m a v hm
      have h0 := hm 0 (by omega)
      rw [Mem.read, ih m (a + 1) (v / 256)]
      · simp only [Nat.add_zero] at h0
        rw [h0, pow_succ', Nat.mod_mul]; simp
      · intro i hi
        have := hm (i + 1) (by omega)
        rw [show a + 1 + i = a + (i + 1) by omega, this, Nat.div_div_eq_div_mul, pow_succ, mul_comm]
  rw [key n _ a v (fun i hi => mem_get_write m a v n i hi), pow_mul]
  norm_num

end Sys2Proof.Laws
end

