-- ==== Sys2Proof/Laws/State.lean ====
section
/-! SUPPORT. What each update of the state leaves alone, field by field, and what it gives back. -/
namespace Sys2Proof.Laws
open Sys2Proof.Machine

@[simp] theorem setTeam_sched (s : State) (tk : Nat) (t : Team) : (s.setTeam tk t).sched = s.sched := rfl
@[simp] theorem setTeam_cur (s : State) (tk : Nat) (t : Team) : (s.setTeam tk t).cur = s.cur := rfl
@[simp] theorem setTeam_fresh (s : State) (tk : Nat) (t : Team) : (s.setTeam tk t).fresh = s.fresh := rfl
@[simp] theorem setTeam_tick (s : State) (tk : Nat) (t : Team) : (s.setTeam tk t).tick = s.tick := rfl
@[simp] theorem setTeam_epoch (s : State) (tk : Nat) (t : Team) : (s.setTeam tk t).epoch = s.epoch := rfl
@[simp] theorem setTeam_lead (s : State) (tk : Nat) (t : Team) : (s.setTeam tk t).lead = s.lead := rfl
@[simp] theorem setTeam_windowClosed (s : State) (tk : Nat) (t : Team) : (s.setTeam tk t).windowClosed = s.windowClosed := rfl
@[simp] theorem setTeam_plots (s : State) (tk : Nat) (t : Team) : (s.setTeam tk t).plots = s.plots := rfl
@[simp] theorem setTeam_sows (s : State) (tk : Nat) (t : Team) : (s.setTeam tk t).sows = s.sows := rfl
@[simp] theorem setTeam_queues (s : State) (tk : Nat) (t : Team) : (s.setTeam tk t).queues = s.queues := rfl
@[simp] theorem setTeam_nextSid (s : State) (tk : Nat) (t : Team) : (s.setTeam tk t).nextSid = s.nextSid := rfl
@[simp] theorem setTeam_rrNext (s : State) (tk : Nat) (t : Team) : (s.setTeam tk t).rrNext = s.rrNext := rfl
@[simp] theorem setTeam_cores (s : State) (tk : Nat) (t : Team) : (s.setTeam tk t).cores = s.cores := rfl
@[simp] theorem setTeam_quads (s : State) (tk : Nat) (t : Team) : (s.setTeam tk t).quads = s.quads := rfl
@[simp] theorem setTeam_doms (s : State) (tk : Nat) (t : Team) : (s.setTeam tk t).doms = s.doms := rfl
@[simp] theorem setTeam_loams (s : State) (tk : Nat) (t : Team) : (s.setTeam tk t).loams = s.loams := rfl
@[simp] theorem setTeam_lplots (s : State) (tk : Nat) (t : Team) : (s.setTeam tk t).lplots = s.lplots := rfl
@[simp] theorem setTeam_accs (s : State) (tk : Nat) (t : Team) : (s.setTeam tk t).accs = s.accs := rfl
@[simp] theorem setTeam_cmds (s : State) (tk : Nat) (t : Team) : (s.setTeam tk t).cmds = s.cmds := rfl
@[simp] theorem setTeam_reqs (s : State) (tk : Nat) (t : Team) : (s.setTeam tk t).reqs = s.reqs := rfl
@[simp] theorem setTeam_credits (s : State) (tk : Nat) (t : Team) : (s.setTeam tk t).credits = s.credits := rfl
@[simp] theorem setTeam_races (s : State) (tk : Nat) (t : Team) : (s.setTeam tk t).races = s.races := rfl
@[simp] theorem setTeam_seen (s : State) (tk : Nat) (t : Team) : (s.setTeam tk t).seen = s.seen := rfl
@[simp] theorem setTeam_invs (s : State) (tk : Nat) (t : Team) : (s.setTeam tk t).invs = s.invs := rfl
@[simp] theorem setTeam_dram (s : State) (tk : Nat) (t : Team) : (s.setTeam tk t).dram = s.dram := rfl
@[simp] theorem setTeam_spm (s : State) (tk : Nat) (t : Team) : (s.setTeam tk t).spm = s.spm := rfl
@[simp] theorem setTeam_fleet (s : State) (tk : Nat) (t : Team) : (s.setTeam tk t).fleet = s.fleet := rfl
@[simp] theorem setTeam_tiles (s : State) (tk : Nat) (t : Team) : (s.setTeam tk t).tiles = s.tiles := rfl
@[simp] theorem setTeam_pos (s : State) (tk : Nat) (t : Team) : (s.setTeam tk t).pos = s.pos := rfl
@[simp] theorem setTeam_nodes (s : State) (tk : Nat) (t : Team) : (s.setTeam tk t).nodes = s.nodes := rfl
@[simp] theorem setTeam_routes (s : State) (tk : Nat) (t : Team) : (s.setTeam tk t).routes = s.routes := rfl
@[simp] theorem setTeam_ports (s : State) (tk : Nat) (t : Team) : (s.setTeam tk t).ports = s.ports := rfl
@[simp] theorem setTeam_trip (s : State) (tk : Nat) (t : Team) : (s.setTeam tk t).trip = s.trip := rfl
@[simp] theorem setTeam_inbound (s : State) (tk : Nat) (t : Team) : (s.setTeam tk t).inbound = s.inbound := rfl
@[simp] theorem setTeam_replies (s : State) (tk : Nat) (t : Team) : (s.setTeam tk t).replies = s.replies := rfl
@[simp] theorem setTeam_freeN (s : State) (tk : Nat) (t : Team) : (s.setTeam tk t).freeN = s.freeN := rfl

@[simp] theorem modTeam_sched (s : State) (tk : Nat) (f : Team → Team) : (s.modTeam tk f).sched = s.sched := rfl
@[simp] theorem modTeam_cur (s : State) (tk : Nat) (f : Team → Team) : (s.modTeam tk f).cur = s.cur := rfl
@[simp] theorem modTeam_fresh (s : State) (tk : Nat) (f : Team → Team) : (s.modTeam tk f).fresh = s.fresh := rfl
@[simp] theorem modTeam_tick (s : State) (tk : Nat) (f : Team → Team) : (s.modTeam tk f).tick = s.tick := rfl
@[simp] theorem modTeam_epoch (s : State) (tk : Nat) (f : Team → Team) : (s.modTeam tk f).epoch = s.epoch := rfl
@[simp] theorem modTeam_lead (s : State) (tk : Nat) (f : Team → Team) : (s.modTeam tk f).lead = s.lead := rfl
@[simp] theorem modTeam_windowClosed (s : State) (tk : Nat) (f : Team → Team) : (s.modTeam tk f).windowClosed = s.windowClosed := rfl
@[simp] theorem modTeam_plots (s : State) (tk : Nat) (f : Team → Team) : (s.modTeam tk f).plots = s.plots := rfl
@[simp] theorem modTeam_sows (s : State) (tk : Nat) (f : Team → Team) : (s.modTeam tk f).sows = s.sows := rfl
@[simp] theorem modTeam_queues (s : State) (tk : Nat) (f : Team → Team) : (s.modTeam tk f).queues = s.queues := rfl
@[simp] theorem modTeam_nextSid (s : State) (tk : Nat) (f : Team → Team) : (s.modTeam tk f).nextSid = s.nextSid := rfl
@[simp] theorem modTeam_rrNext (s : State) (tk : Nat) (f : Team → Team) : (s.modTeam tk f).rrNext = s.rrNext := rfl
@[simp] theorem modTeam_cores (s : State) (tk : Nat) (f : Team → Team) : (s.modTeam tk f).cores = s.cores := rfl
@[simp] theorem modTeam_quads (s : State) (tk : Nat) (f : Team → Team) : (s.modTeam tk f).quads = s.quads := rfl
@[simp] theorem modTeam_doms (s : State) (tk : Nat) (f : Team → Team) : (s.modTeam tk f).doms = s.doms := rfl
@[simp] theorem modTeam_loams (s : State) (tk : Nat) (f : Team → Team) : (s.modTeam tk f).loams = s.loams := rfl
@[simp] theorem modTeam_lplots (s : State) (tk : Nat) (f : Team → Team) : (s.modTeam tk f).lplots = s.lplots := rfl
@[simp] theorem modTeam_accs (s : State) (tk : Nat) (f : Team → Team) : (s.modTeam tk f).accs = s.accs := rfl
@[simp] theorem modTeam_cmds (s : State) (tk : Nat) (f : Team → Team) : (s.modTeam tk f).cmds = s.cmds := rfl
@[simp] theorem modTeam_reqs (s : State) (tk : Nat) (f : Team → Team) : (s.modTeam tk f).reqs = s.reqs := rfl
@[simp] theorem modTeam_credits (s : State) (tk : Nat) (f : Team → Team) : (s.modTeam tk f).credits = s.credits := rfl
@[simp] theorem modTeam_races (s : State) (tk : Nat) (f : Team → Team) : (s.modTeam tk f).races = s.races := rfl
@[simp] theorem modTeam_seen (s : State) (tk : Nat) (f : Team → Team) : (s.modTeam tk f).seen = s.seen := rfl
@[simp] theorem modTeam_invs (s : State) (tk : Nat) (f : Team → Team) : (s.modTeam tk f).invs = s.invs := rfl
@[simp] theorem modTeam_dram (s : State) (tk : Nat) (f : Team → Team) : (s.modTeam tk f).dram = s.dram := rfl
@[simp] theorem modTeam_spm (s : State) (tk : Nat) (f : Team → Team) : (s.modTeam tk f).spm = s.spm := rfl
@[simp] theorem modTeam_fleet (s : State) (tk : Nat) (f : Team → Team) : (s.modTeam tk f).fleet = s.fleet := rfl
@[simp] theorem modTeam_tiles (s : State) (tk : Nat) (f : Team → Team) : (s.modTeam tk f).tiles = s.tiles := rfl
@[simp] theorem modTeam_pos (s : State) (tk : Nat) (f : Team → Team) : (s.modTeam tk f).pos = s.pos := rfl
@[simp] theorem modTeam_nodes (s : State) (tk : Nat) (f : Team → Team) : (s.modTeam tk f).nodes = s.nodes := rfl
@[simp] theorem modTeam_routes (s : State) (tk : Nat) (f : Team → Team) : (s.modTeam tk f).routes = s.routes := rfl
@[simp] theorem modTeam_ports (s : State) (tk : Nat) (f : Team → Team) : (s.modTeam tk f).ports = s.ports := rfl
@[simp] theorem modTeam_trip (s : State) (tk : Nat) (f : Team → Team) : (s.modTeam tk f).trip = s.trip := rfl
@[simp] theorem modTeam_inbound (s : State) (tk : Nat) (f : Team → Team) : (s.modTeam tk f).inbound = s.inbound := rfl
@[simp] theorem modTeam_replies (s : State) (tk : Nat) (f : Team → Team) : (s.modTeam tk f).replies = s.replies := rfl
@[simp] theorem modTeam_freeN (s : State) (tk : Nat) (f : Team → Team) : (s.modTeam tk f).freeN = s.freeN := rfl

@[simp] theorem modCore_sched (s : State) (c : Nat) (f : Core → Core) : (s.modCore c f).sched = s.sched := rfl
@[simp] theorem modCore_cur (s : State) (c : Nat) (f : Core → Core) : (s.modCore c f).cur = s.cur := rfl
@[simp] theorem modCore_fresh (s : State) (c : Nat) (f : Core → Core) : (s.modCore c f).fresh = s.fresh := rfl
@[simp] theorem modCore_tick (s : State) (c : Nat) (f : Core → Core) : (s.modCore c f).tick = s.tick := rfl
@[simp] theorem modCore_epoch (s : State) (c : Nat) (f : Core → Core) : (s.modCore c f).epoch = s.epoch := rfl
@[simp] theorem modCore_lead (s : State) (c : Nat) (f : Core → Core) : (s.modCore c f).lead = s.lead := rfl
@[simp] theorem modCore_windowClosed (s : State) (c : Nat) (f : Core → Core) : (s.modCore c f).windowClosed = s.windowClosed := rfl
@[simp] theorem modCore_teams (s : State) (c : Nat) (f : Core → Core) : (s.modCore c f).teams = s.teams := rfl
@[simp] theorem modCore_plots (s : State) (c : Nat) (f : Core → Core) : (s.modCore c f).plots = s.plots := rfl
@[simp] theorem modCore_sows (s : State) (c : Nat) (f : Core → Core) : (s.modCore c f).sows = s.sows := rfl
@[simp] theorem modCore_queues (s : State) (c : Nat) (f : Core → Core) : (s.modCore c f).queues = s.queues := rfl
@[simp] theorem modCore_nextSid (s : State) (c : Nat) (f : Core → Core) : (s.modCore c f).nextSid = s.nextSid := rfl
@[simp] theorem modCore_rrNext (s : State) (c : Nat) (f : Core → Core) : (s.modCore c f).rrNext = s.rrNext := rfl
@[simp] theorem modCore_quads (s : State) (c : Nat) (f : Core → Core) : (s.modCore c f).quads = s.quads := rfl
@[simp] theorem modCore_doms (s : State) (c : Nat) (f : Core → Core) : (s.modCore c f).doms = s.doms := rfl
@[simp] theorem modCore_loams (s : State) (c : Nat) (f : Core → Core) : (s.modCore c f).loams = s.loams := rfl
@[simp] theorem modCore_lplots (s : State) (c : Nat) (f : Core → Core) : (s.modCore c f).lplots = s.lplots := rfl
@[simp] theorem modCore_accs (s : State) (c : Nat) (f : Core → Core) : (s.modCore c f).accs = s.accs := rfl
@[simp] theorem modCore_cmds (s : State) (c : Nat) (f : Core → Core) : (s.modCore c f).cmds = s.cmds := rfl
@[simp] theorem modCore_reqs (s : State) (c : Nat) (f : Core → Core) : (s.modCore c f).reqs = s.reqs := rfl
@[simp] theorem modCore_credits (s : State) (c : Nat) (f : Core → Core) : (s.modCore c f).credits = s.credits := rfl
@[simp] theorem modCore_races (s : State) (c : Nat) (f : Core → Core) : (s.modCore c f).races = s.races := rfl
@[simp] theorem modCore_seen (s : State) (c : Nat) (f : Core → Core) : (s.modCore c f).seen = s.seen := rfl
@[simp] theorem modCore_invs (s : State) (c : Nat) (f : Core → Core) : (s.modCore c f).invs = s.invs := rfl
@[simp] theorem modCore_dram (s : State) (c : Nat) (f : Core → Core) : (s.modCore c f).dram = s.dram := rfl
@[simp] theorem modCore_spm (s : State) (c : Nat) (f : Core → Core) : (s.modCore c f).spm = s.spm := rfl
@[simp] theorem modCore_fleet (s : State) (c : Nat) (f : Core → Core) : (s.modCore c f).fleet = s.fleet := rfl
@[simp] theorem modCore_tiles (s : State) (c : Nat) (f : Core → Core) : (s.modCore c f).tiles = s.tiles := rfl
@[simp] theorem modCore_pos (s : State) (c : Nat) (f : Core → Core) : (s.modCore c f).pos = s.pos := rfl
@[simp] theorem modCore_nodes (s : State) (c : Nat) (f : Core → Core) : (s.modCore c f).nodes = s.nodes := rfl
@[simp] theorem modCore_routes (s : State) (c : Nat) (f : Core → Core) : (s.modCore c f).routes = s.routes := rfl
@[simp] theorem modCore_ports (s : State) (c : Nat) (f : Core → Core) : (s.modCore c f).ports = s.ports := rfl
@[simp] theorem modCore_trip (s : State) (c : Nat) (f : Core → Core) : (s.modCore c f).trip = s.trip := rfl
@[simp] theorem modCore_inbound (s : State) (c : Nat) (f : Core → Core) : (s.modCore c f).inbound = s.inbound := rfl
@[simp] theorem modCore_replies (s : State) (c : Nat) (f : Core → Core) : (s.modCore c f).replies = s.replies := rfl
@[simp] theorem modCore_freeN (s : State) (c : Nat) (f : Core → Core) : (s.modCore c f).freeN = s.freeN := rfl

@[simp] theorem modQuad_sched (s : State) (q : Nat) (f : Quad → Quad) : (s.modQuad q f).sched = s.sched := rfl
@[simp] theorem modQuad_cur (s : State) (q : Nat) (f : Quad → Quad) : (s.modQuad q f).cur = s.cur := rfl
@[simp] theorem modQuad_fresh (s : State) (q : Nat) (f : Quad → Quad) : (s.modQuad q f).fresh = s.fresh := rfl
@[simp] theorem modQuad_tick (s : State) (q : Nat) (f : Quad → Quad) : (s.modQuad q f).tick = s.tick := rfl
@[simp] theorem modQuad_epoch (s : State) (q : Nat) (f : Quad → Quad) : (s.modQuad q f).epoch = s.epoch := rfl
@[simp] theorem modQuad_lead (s : State) (q : Nat) (f : Quad → Quad) : (s.modQuad q f).lead = s.lead := rfl
@[simp] theorem modQuad_windowClosed (s : State) (q : Nat) (f : Quad → Quad) : (s.modQuad q f).windowClosed = s.windowClosed := rfl
@[simp] theorem modQuad_teams (s : State) (q : Nat) (f : Quad → Quad) : (s.modQuad q f).teams = s.teams := rfl
@[simp] theorem modQuad_plots (s : State) (q : Nat) (f : Quad → Quad) : (s.modQuad q f).plots = s.plots := rfl
@[simp] theorem modQuad_sows (s : State) (q : Nat) (f : Quad → Quad) : (s.modQuad q f).sows = s.sows := rfl
@[simp] theorem modQuad_queues (s : State) (q : Nat) (f : Quad → Quad) : (s.modQuad q f).queues = s.queues := rfl
@[simp] theorem modQuad_nextSid (s : State) (q : Nat) (f : Quad → Quad) : (s.modQuad q f).nextSid = s.nextSid := rfl
@[simp] theorem modQuad_rrNext (s : State) (q : Nat) (f : Quad → Quad) : (s.modQuad q f).rrNext = s.rrNext := rfl
@[simp] theorem modQuad_cores (s : State) (q : Nat) (f : Quad → Quad) : (s.modQuad q f).cores = s.cores := rfl
@[simp] theorem modQuad_doms (s : State) (q : Nat) (f : Quad → Quad) : (s.modQuad q f).doms = s.doms := rfl
@[simp] theorem modQuad_loams (s : State) (q : Nat) (f : Quad → Quad) : (s.modQuad q f).loams = s.loams := rfl
@[simp] theorem modQuad_lplots (s : State) (q : Nat) (f : Quad → Quad) : (s.modQuad q f).lplots = s.lplots := rfl
@[simp] theorem modQuad_accs (s : State) (q : Nat) (f : Quad → Quad) : (s.modQuad q f).accs = s.accs := rfl
@[simp] theorem modQuad_cmds (s : State) (q : Nat) (f : Quad → Quad) : (s.modQuad q f).cmds = s.cmds := rfl
@[simp] theorem modQuad_reqs (s : State) (q : Nat) (f : Quad → Quad) : (s.modQuad q f).reqs = s.reqs := rfl
@[simp] theorem modQuad_credits (s : State) (q : Nat) (f : Quad → Quad) : (s.modQuad q f).credits = s.credits := rfl
@[simp] theorem modQuad_races (s : State) (q : Nat) (f : Quad → Quad) : (s.modQuad q f).races = s.races := rfl
@[simp] theorem modQuad_seen (s : State) (q : Nat) (f : Quad → Quad) : (s.modQuad q f).seen = s.seen := rfl
@[simp] theorem modQuad_invs (s : State) (q : Nat) (f : Quad → Quad) : (s.modQuad q f).invs = s.invs := rfl
@[simp] theorem modQuad_dram (s : State) (q : Nat) (f : Quad → Quad) : (s.modQuad q f).dram = s.dram := rfl
@[simp] theorem modQuad_spm (s : State) (q : Nat) (f : Quad → Quad) : (s.modQuad q f).spm = s.spm := rfl
@[simp] theorem modQuad_fleet (s : State) (q : Nat) (f : Quad → Quad) : (s.modQuad q f).fleet = s.fleet := rfl
@[simp] theorem modQuad_tiles (s : State) (q : Nat) (f : Quad → Quad) : (s.modQuad q f).tiles = s.tiles := rfl
@[simp] theorem modQuad_pos (s : State) (q : Nat) (f : Quad → Quad) : (s.modQuad q f).pos = s.pos := rfl
@[simp] theorem modQuad_nodes (s : State) (q : Nat) (f : Quad → Quad) : (s.modQuad q f).nodes = s.nodes := rfl
@[simp] theorem modQuad_routes (s : State) (q : Nat) (f : Quad → Quad) : (s.modQuad q f).routes = s.routes := rfl
@[simp] theorem modQuad_ports (s : State) (q : Nat) (f : Quad → Quad) : (s.modQuad q f).ports = s.ports := rfl
@[simp] theorem modQuad_trip (s : State) (q : Nat) (f : Quad → Quad) : (s.modQuad q f).trip = s.trip := rfl
@[simp] theorem modQuad_inbound (s : State) (q : Nat) (f : Quad → Quad) : (s.modQuad q f).inbound = s.inbound := rfl
@[simp] theorem modQuad_replies (s : State) (q : Nat) (f : Quad → Quad) : (s.modQuad q f).replies = s.replies := rfl
@[simp] theorem modQuad_freeN (s : State) (q : Nat) (f : Quad → Quad) : (s.modQuad q f).freeN = s.freeN := rfl

@[simp] theorem modDom_sched (s : State) (d : Nat) (f : Dom → Dom) : (s.modDom d f).sched = s.sched := rfl
@[simp] theorem modDom_cur (s : State) (d : Nat) (f : Dom → Dom) : (s.modDom d f).cur = s.cur := rfl
@[simp] theorem modDom_fresh (s : State) (d : Nat) (f : Dom → Dom) : (s.modDom d f).fresh = s.fresh := rfl
@[simp] theorem modDom_tick (s : State) (d : Nat) (f : Dom → Dom) : (s.modDom d f).tick = s.tick := rfl
@[simp] theorem modDom_epoch (s : State) (d : Nat) (f : Dom → Dom) : (s.modDom d f).epoch = s.epoch := rfl
@[simp] theorem modDom_lead (s : State) (d : Nat) (f : Dom → Dom) : (s.modDom d f).lead = s.lead := rfl
@[simp] theorem modDom_windowClosed (s : State) (d : Nat) (f : Dom → Dom) : (s.modDom d f).windowClosed = s.windowClosed := rfl
@[simp] theorem modDom_teams (s : State) (d : Nat) (f : Dom → Dom) : (s.modDom d f).teams = s.teams := rfl
@[simp] theorem modDom_plots (s : State) (d : Nat) (f : Dom → Dom) : (s.modDom d f).plots = s.plots := rfl
@[simp] theorem modDom_sows (s : State) (d : Nat) (f : Dom → Dom) : (s.modDom d f).sows = s.sows := rfl
@[simp] theorem modDom_queues (s : State) (d : Nat) (f : Dom → Dom) : (s.modDom d f).queues = s.queues := rfl
@[simp] theorem modDom_nextSid (s : State) (d : Nat) (f : Dom → Dom) : (s.modDom d f).nextSid = s.nextSid := rfl
@[simp] theorem modDom_rrNext (s : State) (d : Nat) (f : Dom → Dom) : (s.modDom d f).rrNext = s.rrNext := rfl
@[simp] theorem modDom_cores (s : State) (d : Nat) (f : Dom → Dom) : (s.modDom d f).cores = s.cores := rfl
@[simp] theorem modDom_quads (s : State) (d : Nat) (f : Dom → Dom) : (s.modDom d f).quads = s.quads := rfl
@[simp] theorem modDom_loams (s : State) (d : Nat) (f : Dom → Dom) : (s.modDom d f).loams = s.loams := rfl
@[simp] theorem modDom_lplots (s : State) (d : Nat) (f : Dom → Dom) : (s.modDom d f).lplots = s.lplots := rfl
@[simp] theorem modDom_accs (s : State) (d : Nat) (f : Dom → Dom) : (s.modDom d f).accs = s.accs := rfl
@[simp] theorem modDom_cmds (s : State) (d : Nat) (f : Dom → Dom) : (s.modDom d f).cmds = s.cmds := rfl
@[simp] theorem modDom_reqs (s : State) (d : Nat) (f : Dom → Dom) : (s.modDom d f).reqs = s.reqs := rfl
@[simp] theorem modDom_credits (s : State) (d : Nat) (f : Dom → Dom) : (s.modDom d f).credits = s.credits := rfl
@[simp] theorem modDom_races (s : State) (d : Nat) (f : Dom → Dom) : (s.modDom d f).races = s.races := rfl
@[simp] theorem modDom_seen (s : State) (d : Nat) (f : Dom → Dom) : (s.modDom d f).seen = s.seen := rfl
@[simp] theorem modDom_invs (s : State) (d : Nat) (f : Dom → Dom) : (s.modDom d f).invs = s.invs := rfl
@[simp] theorem modDom_dram (s : State) (d : Nat) (f : Dom → Dom) : (s.modDom d f).dram = s.dram := rfl
@[simp] theorem modDom_spm (s : State) (d : Nat) (f : Dom → Dom) : (s.modDom d f).spm = s.spm := rfl
@[simp] theorem modDom_fleet (s : State) (d : Nat) (f : Dom → Dom) : (s.modDom d f).fleet = s.fleet := rfl
@[simp] theorem modDom_tiles (s : State) (d : Nat) (f : Dom → Dom) : (s.modDom d f).tiles = s.tiles := rfl
@[simp] theorem modDom_pos (s : State) (d : Nat) (f : Dom → Dom) : (s.modDom d f).pos = s.pos := rfl
@[simp] theorem modDom_nodes (s : State) (d : Nat) (f : Dom → Dom) : (s.modDom d f).nodes = s.nodes := rfl
@[simp] theorem modDom_routes (s : State) (d : Nat) (f : Dom → Dom) : (s.modDom d f).routes = s.routes := rfl
@[simp] theorem modDom_ports (s : State) (d : Nat) (f : Dom → Dom) : (s.modDom d f).ports = s.ports := rfl
@[simp] theorem modDom_trip (s : State) (d : Nat) (f : Dom → Dom) : (s.modDom d f).trip = s.trip := rfl
@[simp] theorem modDom_inbound (s : State) (d : Nat) (f : Dom → Dom) : (s.modDom d f).inbound = s.inbound := rfl
@[simp] theorem modDom_replies (s : State) (d : Nat) (f : Dom → Dom) : (s.modDom d f).replies = s.replies := rfl
@[simp] theorem modDom_freeN (s : State) (d : Nat) (f : Dom → Dom) : (s.modDom d f).freeN = s.freeN := rfl

@[simp] theorem modPlot_sched (s : State) (p : Nat) (f : Plot → Plot) : (s.modPlot p f).sched = s.sched := rfl
@[simp] theorem modPlot_cur (s : State) (p : Nat) (f : Plot → Plot) : (s.modPlot p f).cur = s.cur := rfl
@[simp] theorem modPlot_fresh (s : State) (p : Nat) (f : Plot → Plot) : (s.modPlot p f).fresh = s.fresh := rfl
@[simp] theorem modPlot_tick (s : State) (p : Nat) (f : Plot → Plot) : (s.modPlot p f).tick = s.tick := rfl
@[simp] theorem modPlot_epoch (s : State) (p : Nat) (f : Plot → Plot) : (s.modPlot p f).epoch = s.epoch := rfl
@[simp] theorem modPlot_lead (s : State) (p : Nat) (f : Plot → Plot) : (s.modPlot p f).lead = s.lead := rfl
@[simp] theorem modPlot_windowClosed (s : State) (p : Nat) (f : Plot → Plot) : (s.modPlot p f).windowClosed = s.windowClosed := rfl
@[simp] theorem modPlot_teams (s : State) (p : Nat) (f : Plot → Plot) : (s.modPlot p f).teams = s.teams := rfl
@[simp] theorem modPlot_sows (s : State) (p : Nat) (f : Plot → Plot) : (s.modPlot p f).sows = s.sows := rfl
@[simp] theorem modPlot_queues (s : State) (p : Nat) (f : Plot → Plot) : (s.modPlot p f).queues = s.queues := rfl
@[simp] theorem modPlot_nextSid (s : State) (p : Nat) (f : Plot → Plot) : (s.modPlot p f).nextSid = s.nextSid := rfl
@[simp] theorem modPlot_rrNext (s : State) (p : Nat) (f : Plot → Plot) : (s.modPlot p f).rrNext = s.rrNext := rfl
@[simp] theorem modPlot_cores (s : State) (p : Nat) (f : Plot → Plot) : (s.modPlot p f).cores = s.cores := rfl
@[simp] theorem modPlot_quads (s : State) (p : Nat) (f : Plot → Plot) : (s.modPlot p f).quads = s.quads := rfl
@[simp] theorem modPlot_doms (s : State) (p : Nat) (f : Plot → Plot) : (s.modPlot p f).doms = s.doms := rfl
@[simp] theorem modPlot_loams (s : State) (p : Nat) (f : Plot → Plot) : (s.modPlot p f).loams = s.loams := rfl
@[simp] theorem modPlot_lplots (s : State) (p : Nat) (f : Plot → Plot) : (s.modPlot p f).lplots = s.lplots := rfl
@[simp] theorem modPlot_accs (s : State) (p : Nat) (f : Plot → Plot) : (s.modPlot p f).accs = s.accs := rfl
@[simp] theorem modPlot_cmds (s : State) (p : Nat) (f : Plot → Plot) : (s.modPlot p f).cmds = s.cmds := rfl
@[simp] theorem modPlot_reqs (s : State) (p : Nat) (f : Plot → Plot) : (s.modPlot p f).reqs = s.reqs := rfl
@[simp] theorem modPlot_credits (s : State) (p : Nat) (f : Plot → Plot) : (s.modPlot p f).credits = s.credits := rfl
@[simp] theorem modPlot_races (s : State) (p : Nat) (f : Plot → Plot) : (s.modPlot p f).races = s.races := rfl
@[simp] theorem modPlot_seen (s : State) (p : Nat) (f : Plot → Plot) : (s.modPlot p f).seen = s.seen := rfl
@[simp] theorem modPlot_invs (s : State) (p : Nat) (f : Plot → Plot) : (s.modPlot p f).invs = s.invs := rfl
@[simp] theorem modPlot_dram (s : State) (p : Nat) (f : Plot → Plot) : (s.modPlot p f).dram = s.dram := rfl
@[simp] theorem modPlot_spm (s : State) (p : Nat) (f : Plot → Plot) : (s.modPlot p f).spm = s.spm := rfl
@[simp] theorem modPlot_fleet (s : State) (p : Nat) (f : Plot → Plot) : (s.modPlot p f).fleet = s.fleet := rfl
@[simp] theorem modPlot_tiles (s : State) (p : Nat) (f : Plot → Plot) : (s.modPlot p f).tiles = s.tiles := rfl
@[simp] theorem modPlot_pos (s : State) (p : Nat) (f : Plot → Plot) : (s.modPlot p f).pos = s.pos := rfl
@[simp] theorem modPlot_nodes (s : State) (p : Nat) (f : Plot → Plot) : (s.modPlot p f).nodes = s.nodes := rfl
@[simp] theorem modPlot_routes (s : State) (p : Nat) (f : Plot → Plot) : (s.modPlot p f).routes = s.routes := rfl
@[simp] theorem modPlot_ports (s : State) (p : Nat) (f : Plot → Plot) : (s.modPlot p f).ports = s.ports := rfl
@[simp] theorem modPlot_trip (s : State) (p : Nat) (f : Plot → Plot) : (s.modPlot p f).trip = s.trip := rfl
@[simp] theorem modPlot_inbound (s : State) (p : Nat) (f : Plot → Plot) : (s.modPlot p f).inbound = s.inbound := rfl
@[simp] theorem modPlot_replies (s : State) (p : Nat) (f : Plot → Plot) : (s.modPlot p f).replies = s.replies := rfl
@[simp] theorem modPlot_freeN (s : State) (p : Nat) (f : Plot → Plot) : (s.modPlot p f).freeN = s.freeN := rfl

@[simp] theorem modSow_sched (s : State) (w : Nat) (f : Sowing → Sowing) : (s.modSow w f).sched = s.sched := rfl
@[simp] theorem modSow_cur (s : State) (w : Nat) (f : Sowing → Sowing) : (s.modSow w f).cur = s.cur := rfl
@[simp] theorem modSow_fresh (s : State) (w : Nat) (f : Sowing → Sowing) : (s.modSow w f).fresh = s.fresh := rfl
@[simp] theorem modSow_tick (s : State) (w : Nat) (f : Sowing → Sowing) : (s.modSow w f).tick = s.tick := rfl
@[simp] theorem modSow_epoch (s : State) (w : Nat) (f : Sowing → Sowing) : (s.modSow w f).epoch = s.epoch := rfl
@[simp] theorem modSow_lead (s : State) (w : Nat) (f : Sowing → Sowing) : (s.modSow w f).lead = s.lead := rfl
@[simp] theorem modSow_windowClosed (s : State) (w : Nat) (f : Sowing → Sowing) : (s.modSow w f).windowClosed = s.windowClosed := rfl
@[simp] theorem modSow_teams (s : State) (w : Nat) (f : Sowing → Sowing) : (s.modSow w f).teams = s.teams := rfl
@[simp] theorem modSow_plots (s : State) (w : Nat) (f : Sowing → Sowing) : (s.modSow w f).plots = s.plots := rfl
@[simp] theorem modSow_queues (s : State) (w : Nat) (f : Sowing → Sowing) : (s.modSow w f).queues = s.queues := rfl
@[simp] theorem modSow_nextSid (s : State) (w : Nat) (f : Sowing → Sowing) : (s.modSow w f).nextSid = s.nextSid := rfl
@[simp] theorem modSow_rrNext (s : State) (w : Nat) (f : Sowing → Sowing) : (s.modSow w f).rrNext = s.rrNext := rfl
@[simp] theorem modSow_cores (s : State) (w : Nat) (f : Sowing → Sowing) : (s.modSow w f).cores = s.cores := rfl
@[simp] theorem modSow_quads (s : State) (w : Nat) (f : Sowing → Sowing) : (s.modSow w f).quads = s.quads := rfl
@[simp] theorem modSow_doms (s : State) (w : Nat) (f : Sowing → Sowing) : (s.modSow w f).doms = s.doms := rfl
@[simp] theorem modSow_loams (s : State) (w : Nat) (f : Sowing → Sowing) : (s.modSow w f).loams = s.loams := rfl
@[simp] theorem modSow_lplots (s : State) (w : Nat) (f : Sowing → Sowing) : (s.modSow w f).lplots = s.lplots := rfl
@[simp] theorem modSow_accs (s : State) (w : Nat) (f : Sowing → Sowing) : (s.modSow w f).accs = s.accs := rfl
@[simp] theorem modSow_cmds (s : State) (w : Nat) (f : Sowing → Sowing) : (s.modSow w f).cmds = s.cmds := rfl
@[simp] theorem modSow_reqs (s : State) (w : Nat) (f : Sowing → Sowing) : (s.modSow w f).reqs = s.reqs := rfl
@[simp] theorem modSow_credits (s : State) (w : Nat) (f : Sowing → Sowing) : (s.modSow w f).credits = s.credits := rfl
@[simp] theorem modSow_races (s : State) (w : Nat) (f : Sowing → Sowing) : (s.modSow w f).races = s.races := rfl
@[simp] theorem modSow_seen (s : State) (w : Nat) (f : Sowing → Sowing) : (s.modSow w f).seen = s.seen := rfl
@[simp] theorem modSow_invs (s : State) (w : Nat) (f : Sowing → Sowing) : (s.modSow w f).invs = s.invs := rfl
@[simp] theorem modSow_dram (s : State) (w : Nat) (f : Sowing → Sowing) : (s.modSow w f).dram = s.dram := rfl
@[simp] theorem modSow_spm (s : State) (w : Nat) (f : Sowing → Sowing) : (s.modSow w f).spm = s.spm := rfl
@[simp] theorem modSow_fleet (s : State) (w : Nat) (f : Sowing → Sowing) : (s.modSow w f).fleet = s.fleet := rfl
@[simp] theorem modSow_tiles (s : State) (w : Nat) (f : Sowing → Sowing) : (s.modSow w f).tiles = s.tiles := rfl
@[simp] theorem modSow_pos (s : State) (w : Nat) (f : Sowing → Sowing) : (s.modSow w f).pos = s.pos := rfl
@[simp] theorem modSow_nodes (s : State) (w : Nat) (f : Sowing → Sowing) : (s.modSow w f).nodes = s.nodes := rfl
@[simp] theorem modSow_routes (s : State) (w : Nat) (f : Sowing → Sowing) : (s.modSow w f).routes = s.routes := rfl
@[simp] theorem modSow_ports (s : State) (w : Nat) (f : Sowing → Sowing) : (s.modSow w f).ports = s.ports := rfl
@[simp] theorem modSow_trip (s : State) (w : Nat) (f : Sowing → Sowing) : (s.modSow w f).trip = s.trip := rfl
@[simp] theorem modSow_inbound (s : State) (w : Nat) (f : Sowing → Sowing) : (s.modSow w f).inbound = s.inbound := rfl
@[simp] theorem modSow_replies (s : State) (w : Nat) (f : Sowing → Sowing) : (s.modSow w f).replies = s.replies := rfl
@[simp] theorem modSow_freeN (s : State) (w : Nat) (f : Sowing → Sowing) : (s.modSow w f).freeN = s.freeN := rfl

@[simp] theorem modLoam_sched (s : State) (l : Nat) (f : Loam → Loam) : (s.modLoam l f).sched = s.sched := rfl
@[simp] theorem modLoam_cur (s : State) (l : Nat) (f : Loam → Loam) : (s.modLoam l f).cur = s.cur := rfl
@[simp] theorem modLoam_fresh (s : State) (l : Nat) (f : Loam → Loam) : (s.modLoam l f).fresh = s.fresh := rfl
@[simp] theorem modLoam_tick (s : State) (l : Nat) (f : Loam → Loam) : (s.modLoam l f).tick = s.tick := rfl
@[simp] theorem modLoam_epoch (s : State) (l : Nat) (f : Loam → Loam) : (s.modLoam l f).epoch = s.epoch := rfl
@[simp] theorem modLoam_lead (s : State) (l : Nat) (f : Loam → Loam) : (s.modLoam l f).lead = s.lead := rfl
@[simp] theorem modLoam_windowClosed (s : State) (l : Nat) (f : Loam → Loam) : (s.modLoam l f).windowClosed = s.windowClosed := rfl
@[simp] theorem modLoam_teams (s : State) (l : Nat) (f : Loam → Loam) : (s.modLoam l f).teams = s.teams := rfl
@[simp] theorem modLoam_plots (s : State) (l : Nat) (f : Loam → Loam) : (s.modLoam l f).plots = s.plots := rfl
@[simp] theorem modLoam_sows (s : State) (l : Nat) (f : Loam → Loam) : (s.modLoam l f).sows = s.sows := rfl
@[simp] theorem modLoam_queues (s : State) (l : Nat) (f : Loam → Loam) : (s.modLoam l f).queues = s.queues := rfl
@[simp] theorem modLoam_nextSid (s : State) (l : Nat) (f : Loam → Loam) : (s.modLoam l f).nextSid = s.nextSid := rfl
@[simp] theorem modLoam_rrNext (s : State) (l : Nat) (f : Loam → Loam) : (s.modLoam l f).rrNext = s.rrNext := rfl
@[simp] theorem modLoam_cores (s : State) (l : Nat) (f : Loam → Loam) : (s.modLoam l f).cores = s.cores := rfl
@[simp] theorem modLoam_quads (s : State) (l : Nat) (f : Loam → Loam) : (s.modLoam l f).quads = s.quads := rfl
@[simp] theorem modLoam_doms (s : State) (l : Nat) (f : Loam → Loam) : (s.modLoam l f).doms = s.doms := rfl
@[simp] theorem modLoam_lplots (s : State) (l : Nat) (f : Loam → Loam) : (s.modLoam l f).lplots = s.lplots := rfl
@[simp] theorem modLoam_accs (s : State) (l : Nat) (f : Loam → Loam) : (s.modLoam l f).accs = s.accs := rfl
@[simp] theorem modLoam_cmds (s : State) (l : Nat) (f : Loam → Loam) : (s.modLoam l f).cmds = s.cmds := rfl
@[simp] theorem modLoam_reqs (s : State) (l : Nat) (f : Loam → Loam) : (s.modLoam l f).reqs = s.reqs := rfl
@[simp] theorem modLoam_credits (s : State) (l : Nat) (f : Loam → Loam) : (s.modLoam l f).credits = s.credits := rfl
@[simp] theorem modLoam_races (s : State) (l : Nat) (f : Loam → Loam) : (s.modLoam l f).races = s.races := rfl
@[simp] theorem modLoam_seen (s : State) (l : Nat) (f : Loam → Loam) : (s.modLoam l f).seen = s.seen := rfl
@[simp] theorem modLoam_invs (s : State) (l : Nat) (f : Loam → Loam) : (s.modLoam l f).invs = s.invs := rfl
@[simp] theorem modLoam_dram (s : State) (l : Nat) (f : Loam → Loam) : (s.modLoam l f).dram = s.dram := rfl
@[simp] theorem modLoam_spm (s : State) (l : Nat) (f : Loam → Loam) : (s.modLoam l f).spm = s.spm := rfl
@[simp] theorem modLoam_fleet (s : State) (l : Nat) (f : Loam → Loam) : (s.modLoam l f).fleet = s.fleet := rfl
@[simp] theorem modLoam_tiles (s : State) (l : Nat) (f : Loam → Loam) : (s.modLoam l f).tiles = s.tiles := rfl
@[simp] theorem modLoam_pos (s : State) (l : Nat) (f : Loam → Loam) : (s.modLoam l f).pos = s.pos := rfl
@[simp] theorem modLoam_nodes (s : State) (l : Nat) (f : Loam → Loam) : (s.modLoam l f).nodes = s.nodes := rfl
@[simp] theorem modLoam_routes (s : State) (l : Nat) (f : Loam → Loam) : (s.modLoam l f).routes = s.routes := rfl
@[simp] theorem modLoam_ports (s : State) (l : Nat) (f : Loam → Loam) : (s.modLoam l f).ports = s.ports := rfl
@[simp] theorem modLoam_trip (s : State) (l : Nat) (f : Loam → Loam) : (s.modLoam l f).trip = s.trip := rfl
@[simp] theorem modLoam_inbound (s : State) (l : Nat) (f : Loam → Loam) : (s.modLoam l f).inbound = s.inbound := rfl
@[simp] theorem modLoam_replies (s : State) (l : Nat) (f : Loam → Loam) : (s.modLoam l f).replies = s.replies := rfl
@[simp] theorem modLoam_freeN (s : State) (l : Nat) (f : Loam → Loam) : (s.modLoam l f).freeN = s.freeN := rfl

@[simp] theorem modLPlot_sched (s : State) (p : Nat) (f : LPlot → LPlot) : (s.modLPlot p f).sched = s.sched := rfl
@[simp] theorem modLPlot_cur (s : State) (p : Nat) (f : LPlot → LPlot) : (s.modLPlot p f).cur = s.cur := rfl
@[simp] theorem modLPlot_fresh (s : State) (p : Nat) (f : LPlot → LPlot) : (s.modLPlot p f).fresh = s.fresh := rfl
@[simp] theorem modLPlot_tick (s : State) (p : Nat) (f : LPlot → LPlot) : (s.modLPlot p f).tick = s.tick := rfl
@[simp] theorem modLPlot_epoch (s : State) (p : Nat) (f : LPlot → LPlot) : (s.modLPlot p f).epoch = s.epoch := rfl
@[simp] theorem modLPlot_lead (s : State) (p : Nat) (f : LPlot → LPlot) : (s.modLPlot p f).lead = s.lead := rfl
@[simp] theorem modLPlot_windowClosed (s : State) (p : Nat) (f : LPlot → LPlot) : (s.modLPlot p f).windowClosed = s.windowClosed := rfl
@[simp] theorem modLPlot_teams (s : State) (p : Nat) (f : LPlot → LPlot) : (s.modLPlot p f).teams = s.teams := rfl
@[simp] theorem modLPlot_plots (s : State) (p : Nat) (f : LPlot → LPlot) : (s.modLPlot p f).plots = s.plots := rfl
@[simp] theorem modLPlot_sows (s : State) (p : Nat) (f : LPlot → LPlot) : (s.modLPlot p f).sows = s.sows := rfl
@[simp] theorem modLPlot_queues (s : State) (p : Nat) (f : LPlot → LPlot) : (s.modLPlot p f).queues = s.queues := rfl
@[simp] theorem modLPlot_nextSid (s : State) (p : Nat) (f : LPlot → LPlot) : (s.modLPlot p f).nextSid = s.nextSid := rfl
@[simp] theorem modLPlot_rrNext (s : State) (p : Nat) (f : LPlot → LPlot) : (s.modLPlot p f).rrNext = s.rrNext := rfl
@[simp] theorem modLPlot_cores (s : State) (p : Nat) (f : LPlot → LPlot) : (s.modLPlot p f).cores = s.cores := rfl
@[simp] theorem modLPlot_quads (s : State) (p : Nat) (f : LPlot → LPlot) : (s.modLPlot p f).quads = s.quads := rfl
@[simp] theorem modLPlot_doms (s : State) (p : Nat) (f : LPlot → LPlot) : (s.modLPlot p f).doms = s.doms := rfl
@[simp] theorem modLPlot_loams (s : State) (p : Nat) (f : LPlot → LPlot) : (s.modLPlot p f).loams = s.loams := rfl
@[simp] theorem modLPlot_accs (s : State) (p : Nat) (f : LPlot → LPlot) : (s.modLPlot p f).accs = s.accs := rfl
@[simp] theorem modLPlot_cmds (s : State) (p : Nat) (f : LPlot → LPlot) : (s.modLPlot p f).cmds = s.cmds := rfl
@[simp] theorem modLPlot_reqs (s : State) (p : Nat) (f : LPlot → LPlot) : (s.modLPlot p f).reqs = s.reqs := rfl
@[simp] theorem modLPlot_credits (s : State) (p : Nat) (f : LPlot → LPlot) : (s.modLPlot p f).credits = s.credits := rfl
@[simp] theorem modLPlot_races (s : State) (p : Nat) (f : LPlot → LPlot) : (s.modLPlot p f).races = s.races := rfl
@[simp] theorem modLPlot_seen (s : State) (p : Nat) (f : LPlot → LPlot) : (s.modLPlot p f).seen = s.seen := rfl
@[simp] theorem modLPlot_invs (s : State) (p : Nat) (f : LPlot → LPlot) : (s.modLPlot p f).invs = s.invs := rfl
@[simp] theorem modLPlot_dram (s : State) (p : Nat) (f : LPlot → LPlot) : (s.modLPlot p f).dram = s.dram := rfl
@[simp] theorem modLPlot_spm (s : State) (p : Nat) (f : LPlot → LPlot) : (s.modLPlot p f).spm = s.spm := rfl
@[simp] theorem modLPlot_fleet (s : State) (p : Nat) (f : LPlot → LPlot) : (s.modLPlot p f).fleet = s.fleet := rfl
@[simp] theorem modLPlot_tiles (s : State) (p : Nat) (f : LPlot → LPlot) : (s.modLPlot p f).tiles = s.tiles := rfl
@[simp] theorem modLPlot_pos (s : State) (p : Nat) (f : LPlot → LPlot) : (s.modLPlot p f).pos = s.pos := rfl
@[simp] theorem modLPlot_nodes (s : State) (p : Nat) (f : LPlot → LPlot) : (s.modLPlot p f).nodes = s.nodes := rfl
@[simp] theorem modLPlot_routes (s : State) (p : Nat) (f : LPlot → LPlot) : (s.modLPlot p f).routes = s.routes := rfl
@[simp] theorem modLPlot_ports (s : State) (p : Nat) (f : LPlot → LPlot) : (s.modLPlot p f).ports = s.ports := rfl
@[simp] theorem modLPlot_trip (s : State) (p : Nat) (f : LPlot → LPlot) : (s.modLPlot p f).trip = s.trip := rfl
@[simp] theorem modLPlot_inbound (s : State) (p : Nat) (f : LPlot → LPlot) : (s.modLPlot p f).inbound = s.inbound := rfl
@[simp] theorem modLPlot_replies (s : State) (p : Nat) (f : LPlot → LPlot) : (s.modLPlot p f).replies = s.replies := rfl
@[simp] theorem modLPlot_freeN (s : State) (p : Nat) (f : LPlot → LPlot) : (s.modLPlot p f).freeN = s.freeN := rfl

@[simp] theorem setTeam_core (s : State) (tk j : Nat) (t : Team) : (s.setTeam tk t).core j = s.core j := rfl
@[simp] theorem setTeam_quad (s : State) (tk j : Nat) (t : Team) : (s.setTeam tk t).quad j = s.quad j := rfl
@[simp] theorem setTeam_dom (s : State) (tk j : Nat) (t : Team) : (s.setTeam tk t).dom j = s.dom j := rfl
@[simp] theorem setTeam_plot (s : State) (tk j : Nat) (t : Team) : (s.setTeam tk t).plot j = s.plot j := rfl
@[simp] theorem setTeam_sow (s : State) (tk j : Nat) (t : Team) : (s.setTeam tk t).sow j = s.sow j := rfl
@[simp] theorem setTeam_loam (s : State) (tk j : Nat) (t : Team) : (s.setTeam tk t).loam j = s.loam j := rfl
@[simp] theorem setTeam_lplot (s : State) (tk j : Nat) (t : Team) : (s.setTeam tk t).lplot j = s.lplot j := rfl
@[simp] theorem modTeam_core (s : State) (tk j : Nat) (f : Team → Team) : (s.modTeam tk f).core j = s.core j := rfl
@[simp] theorem modTeam_quad (s : State) (tk j : Nat) (f : Team → Team) : (s.modTeam tk f).quad j = s.quad j := rfl
@[simp] theorem modTeam_dom (s : State) (tk j : Nat) (f : Team → Team) : (s.modTeam tk f).dom j = s.dom j := rfl
@[simp] theorem modTeam_plot (s : State) (tk j : Nat) (f : Team → Team) : (s.modTeam tk f).plot j = s.plot j := rfl
@[simp] theorem modTeam_sow (s : State) (tk j : Nat) (f : Team → Team) : (s.modTeam tk f).sow j = s.sow j := rfl
@[simp] theorem modTeam_loam (s : State) (tk j : Nat) (f : Team → Team) : (s.modTeam tk f).loam j = s.loam j := rfl
@[simp] theorem modTeam_lplot (s : State) (tk j : Nat) (f : Team → Team) : (s.modTeam tk f).lplot j = s.lplot j := rfl
@[simp] theorem modCore_team (s : State) (c j : Nat) (f : Core → Core) : (s.modCore c f).team j = s.team j := rfl
@[simp] theorem modCore_quad (s : State) (c j : Nat) (f : Core → Core) : (s.modCore c f).quad j = s.quad j := rfl
@[simp] theorem modCore_dom (s : State) (c j : Nat) (f : Core → Core) : (s.modCore c f).dom j = s.dom j := rfl
@[simp] theorem modCore_plot (s : State) (c j : Nat) (f : Core → Core) : (s.modCore c f).plot j = s.plot j := rfl
@[simp] theorem modCore_sow (s : State) (c j : Nat) (f : Core → Core) : (s.modCore c f).sow j = s.sow j := rfl
@[simp] theorem modCore_loam (s : State) (c j : Nat) (f : Core → Core) : (s.modCore c f).loam j = s.loam j := rfl
@[simp] theorem modCore_lplot (s : State) (c j : Nat) (f : Core → Core) : (s.modCore c f).lplot j = s.lplot j := rfl
@[simp] theorem modQuad_team (s : State) (q j : Nat) (f : Quad → Quad) : (s.modQuad q f).team j = s.team j := rfl
@[simp] theorem modQuad_core (s : State) (q j : Nat) (f : Quad → Quad) : (s.modQuad q f).core j = s.core j := rfl
@[simp] theorem modQuad_dom (s : State) (q j : Nat) (f : Quad → Quad) : (s.modQuad q f).dom j = s.dom j := rfl
@[simp] theorem modQuad_plot (s : State) (q j : Nat) (f : Quad → Quad) : (s.modQuad q f).plot j = s.plot j := rfl
@[simp] theorem modQuad_sow (s : State) (q j : Nat) (f : Quad → Quad) : (s.modQuad q f).sow j = s.sow j := rfl
@[simp] theorem modQuad_loam (s : State) (q j : Nat) (f : Quad → Quad) : (s.modQuad q f).loam j = s.loam j := rfl
@[simp] theorem modQuad_lplot (s : State) (q j : Nat) (f : Quad → Quad) : (s.modQuad q f).lplot j = s.lplot j := rfl
@[simp] theorem modDom_team (s : State) (d j : Nat) (f : Dom → Dom) : (s.modDom d f).team j = s.team j := rfl
@[simp] theorem modDom_core (s : State) (d j : Nat) (f : Dom → Dom) : (s.modDom d f).core j = s.core j := rfl
@[simp] theorem modDom_quad (s : State) (d j : Nat) (f : Dom → Dom) : (s.modDom d f).quad j = s.quad j := rfl
@[simp] theorem modDom_plot (s : State) (d j : Nat) (f : Dom → Dom) : (s.modDom d f).plot j = s.plot j := rfl
@[simp] theorem modDom_sow (s : State) (d j : Nat) (f : Dom → Dom) : (s.modDom d f).sow j = s.sow j := rfl
@[simp] theorem modDom_loam (s : State) (d j : Nat) (f : Dom → Dom) : (s.modDom d f).loam j = s.loam j := rfl
@[simp] theorem modDom_lplot (s : State) (d j : Nat) (f : Dom → Dom) : (s.modDom d f).lplot j = s.lplot j := rfl
@[simp] theorem modPlot_team (s : State) (p j : Nat) (f : Plot → Plot) : (s.modPlot p f).team j = s.team j := rfl
@[simp] theorem modPlot_core (s : State) (p j : Nat) (f : Plot → Plot) : (s.modPlot p f).core j = s.core j := rfl
@[simp] theorem modPlot_quad (s : State) (p j : Nat) (f : Plot → Plot) : (s.modPlot p f).quad j = s.quad j := rfl
@[simp] theorem modPlot_dom (s : State) (p j : Nat) (f : Plot → Plot) : (s.modPlot p f).dom j = s.dom j := rfl
@[simp] theorem modPlot_sow (s : State) (p j : Nat) (f : Plot → Plot) : (s.modPlot p f).sow j = s.sow j := rfl
@[simp] theorem modPlot_loam (s : State) (p j : Nat) (f : Plot → Plot) : (s.modPlot p f).loam j = s.loam j := rfl
@[simp] theorem modPlot_lplot (s : State) (p j : Nat) (f : Plot → Plot) : (s.modPlot p f).lplot j = s.lplot j := rfl
@[simp] theorem modSow_team (s : State) (w j : Nat) (f : Sowing → Sowing) : (s.modSow w f).team j = s.team j := rfl
@[simp] theorem modSow_core (s : State) (w j : Nat) (f : Sowing → Sowing) : (s.modSow w f).core j = s.core j := rfl
@[simp] theorem modSow_quad (s : State) (w j : Nat) (f : Sowing → Sowing) : (s.modSow w f).quad j = s.quad j := rfl
@[simp] theorem modSow_dom (s : State) (w j : Nat) (f : Sowing → Sowing) : (s.modSow w f).dom j = s.dom j := rfl
@[simp] theorem modSow_plot (s : State) (w j : Nat) (f : Sowing → Sowing) : (s.modSow w f).plot j = s.plot j := rfl
@[simp] theorem modSow_loam (s : State) (w j : Nat) (f : Sowing → Sowing) : (s.modSow w f).loam j = s.loam j := rfl
@[simp] theorem modSow_lplot (s : State) (w j : Nat) (f : Sowing → Sowing) : (s.modSow w f).lplot j = s.lplot j := rfl
@[simp] theorem modLoam_team (s : State) (l j : Nat) (f : Loam → Loam) : (s.modLoam l f).team j = s.team j := rfl
@[simp] theorem modLoam_core (s : State) (l j : Nat) (f : Loam → Loam) : (s.modLoam l f).core j = s.core j := rfl
@[simp] theorem modLoam_quad (s : State) (l j : Nat) (f : Loam → Loam) : (s.modLoam l f).quad j = s.quad j := rfl
@[simp] theorem modLoam_dom (s : State) (l j : Nat) (f : Loam → Loam) : (s.modLoam l f).dom j = s.dom j := rfl
@[simp] theorem modLoam_plot (s : State) (l j : Nat) (f : Loam → Loam) : (s.modLoam l f).plot j = s.plot j := rfl
@[simp] theorem modLoam_sow (s : State) (l j : Nat) (f : Loam → Loam) : (s.modLoam l f).sow j = s.sow j := rfl
@[simp] theorem modLoam_lplot (s : State) (l j : Nat) (f : Loam → Loam) : (s.modLoam l f).lplot j = s.lplot j := rfl
@[simp] theorem modLPlot_team (s : State) (p j : Nat) (f : LPlot → LPlot) : (s.modLPlot p f).team j = s.team j := rfl
@[simp] theorem modLPlot_core (s : State) (p j : Nat) (f : LPlot → LPlot) : (s.modLPlot p f).core j = s.core j := rfl
@[simp] theorem modLPlot_quad (s : State) (p j : Nat) (f : LPlot → LPlot) : (s.modLPlot p f).quad j = s.quad j := rfl
@[simp] theorem modLPlot_dom (s : State) (p j : Nat) (f : LPlot → LPlot) : (s.modLPlot p f).dom j = s.dom j := rfl
@[simp] theorem modLPlot_plot (s : State) (p j : Nat) (f : LPlot → LPlot) : (s.modLPlot p f).plot j = s.plot j := rfl
@[simp] theorem modLPlot_sow (s : State) (p j : Nat) (f : LPlot → LPlot) : (s.modLPlot p f).sow j = s.sow j := rfl
@[simp] theorem modLPlot_loam (s : State) (p j : Nat) (f : LPlot → LPlot) : (s.modLPlot p f).loam j = s.loam j := rfl

@[simp] theorem modTeam_self (s : State) (k : Nat) (f : Team → Team) : (s.modTeam k f).team k = f (s.team k) := by
  simp [State.modTeam, State.team, State.setTeam]
@[simp] theorem modTeam_ne (s : State) {k j : Nat} (f : Team → Team) (h : j ≠ k) : (s.modTeam k f).team j = s.team j := by
  simp [State.modTeam, State.team, h, State.setTeam]
@[simp] theorem modCore_self (s : State) (k : Nat) (f : Core → Core) : (s.modCore k f).core k = f (s.core k) := by
  simp [State.modCore, State.core]
@[simp] theorem modCore_ne (s : State) {k j : Nat} (f : Core → Core) (h : j ≠ k) : (s.modCore k f).core j = s.core j := by
  simp [State.modCore, State.core, h]
@[simp] theorem modQuad_self (s : State) (k : Nat) (f : Quad → Quad) : (s.modQuad k f).quad k = f (s.quad k) := by
  simp [State.modQuad, State.quad]
@[simp] theorem modQuad_ne (s : State) {k j : Nat} (f : Quad → Quad) (h : j ≠ k) : (s.modQuad k f).quad j = s.quad j := by
  simp [State.modQuad, State.quad, h]
@[simp] theorem modDom_self (s : State) (k : Nat) (f : Dom → Dom) : (s.modDom k f).dom k = f (s.dom k) := by
  simp [State.modDom, State.dom]
@[simp] theorem modDom_ne (s : State) {k j : Nat} (f : Dom → Dom) (h : j ≠ k) : (s.modDom k f).dom j = s.dom j := by
  simp [State.modDom, State.dom, h]
@[simp] theorem modPlot_self (s : State) (k : Nat) (f : Plot → Plot) : (s.modPlot k f).plot k = f (s.plot k) := by
  simp [State.modPlot, State.plot]
@[simp] theorem modPlot_ne (s : State) {k j : Nat} (f : Plot → Plot) (h : j ≠ k) : (s.modPlot k f).plot j = s.plot j := by
  simp [State.modPlot, State.plot, h]
@[simp] theorem modSow_self (s : State) (k : Nat) (f : Sowing → Sowing) : (s.modSow k f).sow k = f (s.sow k) := by
  simp [State.modSow, State.sow]
@[simp] theorem modSow_ne (s : State) {k j : Nat} (f : Sowing → Sowing) (h : j ≠ k) : (s.modSow k f).sow j = s.sow j := by
  simp [State.modSow, State.sow, h]
@[simp] theorem modLoam_self (s : State) (k : Nat) (f : Loam → Loam) : (s.modLoam k f).loam k = f (s.loam k) := by
  simp [State.modLoam, State.loam]
@[simp] theorem modLoam_ne (s : State) {k j : Nat} (f : Loam → Loam) (h : j ≠ k) : (s.modLoam k f).loam j = s.loam j := by
  simp [State.modLoam, State.loam, h]
@[simp] theorem modLPlot_self (s : State) (k : Nat) (f : LPlot → LPlot) : (s.modLPlot k f).lplot k = f (s.lplot k) := by
  simp [State.modLPlot, State.lplot]
@[simp] theorem modLPlot_ne (s : State) {k j : Nat} (f : LPlot → LPlot) (h : j ≠ k) : (s.modLPlot k f).lplot j = s.lplot j := by
  simp [State.modLPlot, State.lplot, h]
/-- Two changes of one entry are one. -/
@[simp] theorem modTeam_modTeam (s : State) (k : Nat) (f g : Team → Team) : (s.modTeam k f).modTeam k g = s.modTeam k fun x => g (f x) := by
  simp [State.modTeam, State.team, State.setTeam]
/-- Two changes of one entry are one. -/
@[simp] theorem modCore_modCore (s : State) (k : Nat) (f g : Core → Core) : (s.modCore k f).modCore k g = s.modCore k fun x => g (f x) := by
  simp [State.modCore, State.core]
/-- Two changes of one entry are one. -/
@[simp] theorem modQuad_modQuad (s : State) (k : Nat) (f g : Quad → Quad) : (s.modQuad k f).modQuad k g = s.modQuad k fun x => g (f x) := by
  simp [State.modQuad, State.quad]
/-- Two changes of one entry are one. -/
@[simp] theorem modDom_modDom (s : State) (k : Nat) (f g : Dom → Dom) : (s.modDom k f).modDom k g = s.modDom k fun x => g (f x) := by
  simp [State.modDom, State.dom]
/-- Two changes of one entry are one. -/
@[simp] theorem modPlot_modPlot (s : State) (k : Nat) (f g : Plot → Plot) : (s.modPlot k f).modPlot k g = s.modPlot k fun x => g (f x) := by
  simp [State.modPlot, State.plot]
/-- Two changes of one entry are one. -/
@[simp] theorem modSow_modSow (s : State) (k : Nat) (f g : Sowing → Sowing) : (s.modSow k f).modSow k g = s.modSow k fun x => g (f x) := by
  simp [State.modSow, State.sow]
/-- Two changes of one entry are one. -/
@[simp] theorem modLoam_modLoam (s : State) (k : Nat) (f g : Loam → Loam) : (s.modLoam k f).modLoam k g = s.modLoam k fun x => g (f x) := by
  simp [State.modLoam, State.loam]
/-- Two changes of one entry are one. -/
@[simp] theorem modLPlot_modLPlot (s : State) (k : Nat) (f g : LPlot → LPlot) : (s.modLPlot k f).modLPlot k g = s.modLPlot k fun x => g (f x) := by
  simp [State.modLPlot, State.lplot]

@[simp] theorem setTeam_self (s : State) (k : Nat) (t : Team) : (s.setTeam k t).team k = t := by simp [State.setTeam, State.team]
@[simp] theorem setTeam_ne (s : State) {k j : Nat} (t : Team) (h : j ≠ k) : (s.setTeam k t).team j = s.team j := by
  simp [State.setTeam, State.team, h]

/-- The team of the issue under way. -/
theorem ct_modCt (s : State) (f : Team → Team) : (s.modCt f).ct = f s.ct := by
  simp [State.modCt, State.ct]
@[simp] theorem modCt_cur (s : State) (f : Team → Team) : (s.modCt f).cur = s.cur := rfl
@[simp] theorem modCt_team_ne (s : State) (f : Team → Team) {k : Nat} (h : k ≠ s.cur.tk) : (s.modCt f).team k = s.team k := by
  simp [State.modCt, h]
@[simp] theorem modCore_ct (s : State) (c : Nat) (f : Core → Core) : (s.modCore c f).ct = s.ct := rfl

end Sys2Proof.Laws
end

