-- ==== Sys2Proof/Laws/Vector.lean ====
section
/-! SUPPORT. What counting, expansions and the sweep of a vector word can do. -/
namespace Sys2Proof.Laws
open Sys2Proof.Machine Sys2Proof.Safety

/-- Only the count of expansions of one team, the performance counters and the count of free values may differ. -/
structure Quiet (s t : State) (tk : Nat) : Prop where
  own   : { t.team tk with expcnt := (s.team tk).expcnt } = s.team tk
  teams : ∀ j, j ≠ tk → t.team j = s.team j
  cores : ∀ c, { t.core c with pmc := (s.core c).pmc } = s.core c
  rest  : { t with teams := s.teams, cores := s.cores, freeN := s.freeN } = s

theorem Quiet.refl (s : State) (tk : Nat) : Quiet s s tk := ⟨rfl, fun _ _ => rfl, fun _ => rfl, rfl⟩

theorem Quiet.trans {s t u : State} {tk : Nat} (h : Quiet s t tk) (k : Quiet t u tk) : Quiet s u tk := by
  obtain ⟨h1, h2, h3, h4⟩ := h
  obtain ⟨k1, k2, k3, k4⟩ := k
  refine ⟨?_, fun j hj => (k2 j hj).trans (h2 j hj), fun c => ?_, ?_⟩
  · rw [← h1, ← k1]
  · rw [← h3 c, ← k3 c]
  · rw [← h4, ← k4]

theorem Quiet.cur {s t : State} {tk : Nat} (h : Quiet s t tk) : t.cur = s.cur := by
  have := congrArg State.cur h.rest; exact this
theorem Quiet.pend {s t : State} {tk : Nat} (h : Quiet s t tk) : (t.team tk).pend = (s.team tk).pend := by
  have := congrArg Team.pend h.own; exact this
theorem Quiet.grp {s t : State} {tk : Nat} (h : Quiet s t tk) : (t.team tk).grp = (s.team tk).grp := by
  have := congrArg Team.grp h.own; exact this
theorem Quiet.home {s t : State} {tk : Nat} (h : Quiet s t tk) : (t.team tk).core = (s.team tk).core := by
  have := congrArg Team.core h.own; exact this

theorem pmcAdd_quiet (s : State) (core code n tk : Nat) : Quiet s (pmcAdd s core code n) tk := by
  unfold pmcAdd
  dsimp only
  split
  · exact Quiet.refl s tk
  · refine ⟨rfl, fun _ _ => rfl, fun c => ?_, rfl⟩
    by_cases h : c = core
    · subst h; simp
    · simp [h]

theorem pmcAdd_rest (s : State) (core code n : Nat) : { pmcAdd s core code n with cores := s.cores } = s := by
  unfold pmcAdd; dsimp only; split <;> rfl

theorem modExp_quiet (s : State) (tk : Nat) (n : Nat) (k : Nat) :
    Quiet s ({ s with freeN := k }.modTeam tk fun t => { t with expcnt := t.expcnt + BitVec.ofNat 32 n }) tk := by
  refine ⟨?_, fun j hj => ?_, fun _ => rfl, rfl⟩
  · simp; rfl
  · simp [hj]; rfl

theorem expandRows_quiet (s : State) (tk : Nat) (rows : List Nat) : Quiet s (expandRows s tk rows) tk := by
  unfold expandRows
  dsimp only
  generalize List.filter _ _ = rs
  have key : ∀ (rs : List Nat) (u : State), Quiet s u tk → Quiet s (rs.foldl (fun u _ =>
      pmcAdd ((drawBool u).2.modTeam tk fun t => { t with expcnt := t.expcnt + BitVec.ofNat 32 (if (drawBool u).1 then 1 else 0) })
        (s.team tk).core 0x08 (if (drawBool u).1 then 1 else 0)) u) tk := by
    intro rs
    induction rs with
    | nil => intro u h; exact h
    | cons r rs ih =>
      intro u h
      exact ih _ ((h.trans (modExp_quiet u tk _ _)).trans (pmcAdd_quiet _ _ _ _ tk))
  exact key rs s (Quiet.refl s tk)

theorem expand_quiet (s : State) (tk : Nat) (ws : List (Slot × Nat)) : Quiet s (expand s tk ws) tk := expandRows_quiet s tk _

/-! ## The registers that a pass is the first to write (R91) -/

theorem markRows_bare (t : Team) : ∀ (rows : List Nat) (ps : List PendW),
    (markRows t rows ps).map (fun p => { p with part := [] }) = ps.map fun p => { p with part := [] }
  | _, [] => rfl
  | rows, p :: r => by simp [markRows, markRows_bare t _ r]

theorem markRows_mem (t : Team) : ∀ (ps : List PendW) (rows : List Nat) (i : Nat) (p : PendW), (markRows t rows ps)[i]? = some p → ∀ r,
    r ∈ p.part ↔ r ∈ rows ∧ (∃ w ∈ p.ws, rowOf t w = some r) ∧ ∀ q ∈ (markRows t rows ps).take i, ∀ w ∈ q.ws, rowOf t w ≠ some r
  | [], _, _, _, h, _ => by simp [markRows] at h
  | p :: ps, rows, 0, q, h, r => by
    simp only [markRows, List.getElem?_cons_zero, Option.some.injEq] at h
    subst h
    simp
  | p :: ps, rows, i + 1, q, h, r => by
    simp only [markRows, List.getElem?_cons_succ] at h
    rw [markRows_mem t ps _ i q h r]
    simp only [markRows, List.take_succ_cons, List.forall_mem_cons]
    constructor
    · rintro ⟨h1, h2, h3⟩
      simp only [List.mem_filter, List.contains_eq_mem, List.mem_filterMap, Bool.not_eq_true', decide_eq_false_iff_not, decide_eq_true_eq, not_and] at h1
      exact ⟨h1.1, h2, fun w hw he => h1.2 h1.1 ⟨w, hw, he⟩, h3⟩
    · rintro ⟨h1, h2, h3, h4⟩
      refine ⟨?_, h2, h4⟩
      simp only [List.mem_filter, List.contains_eq_mem, List.mem_filterMap, Bool.not_eq_true', decide_eq_false_iff_not, decide_eq_true_eq, not_and]
      exact ⟨h1, fun _ ⟨w, hw, he⟩ => h3 w hw he⟩

theorem mem_partRows (t : Team) (ws : List (Slot × Nat)) (r : Nat) :
    r ∈ partRows t ws ↔ (∃ w ∈ ws, rowOf t w = some r) ∧ (ws.filter fun w => rowOf t w == some r).length < 64 := by
  have hc : (ws.filterMap (rowOf t)).count r = (ws.filter fun w => rowOf t w == some r).length := by
    induction ws with
    | nil => rfl
    | cons w ws ih =>
      cases h : rowOf t w with
      | none => simp [h, ih]
      | some x => by_cases hx : x = r <;> simp [h, hx, ih]
  simp [partRows, List.mem_filter, hc]

/-- The results of one instruction, with what each writes in part. -/
theorem passResults_parted (t : Team) (ps : List PendW) (h : ∀ p ∈ ps, p.part = []) : Parted t ps (passResults t ps) := by
  have hb : (passResults t ps).map (fun p => { p with part := [] }) = ps := by
    rw [passResults, markRows_bare]
    conv_rhs => rw [← List.map_id ps]
    exact List.map_congr_left fun p hp => by have := h p hp; cases p; simp_all
  refine ⟨hb, fun i p hp r => ?_⟩
  have hw : (passResults t ps).flatMap (·.ws) = ps.flatMap (·.ws) := by
    conv_rhs => rw [← hb]
    rw [List.flatMap_map]
  rw [hw, markRows_mem t ps _ i p hp r, mem_partRows]
  constructor
  · rintro ⟨⟨-, h1⟩, h2, h3⟩; exact ⟨h2, h3, h1⟩
  · rintro ⟨⟨w, hm, he⟩, h3, h1⟩
    refine ⟨⟨⟨w, ?_, he⟩, h1⟩, ⟨w, hm, he⟩, h3⟩
    rw [← hw]
    exact List.mem_flatMap.2 ⟨p, List.mem_of_getElem? hp, hm⟩

theorem sweepOf_bare (s : State) (lat : Option Nat) (cpp : Nat) (e : EPay) (g : Team → Nat → List (Slot × Nat)) : ∀ p ∈ sweepOf s lat cpp e g, p.part = [] := by
  intro p hp
  obtain ⟨q, -, rfl⟩ := List.mem_map.1 hp
  rfl

/-- The sweep of a vector word, whole (R135). -/
theorem vecExec_swept (f : Form) (hf : f.sweep = true) (e : EPay) (g : Team → Nat → List (Slot × Nat)) (s : State) :
    Swept s (vecExec f e g s) f.lat f.cpp e g := by
  have hps : ((f.passes s.ct).zipIdx.map fun (k, i) =>
      (s.cur.cyc + max f.cpp s.cur.cpp * i, ((passLanes s.ct.mask k).filter ((s.ct.view (s.cur.cyc + max f.cpp s.cur.cpp * i)).guardP e)).flatMap
        (g (s.ct.view (s.cur.cyc + max f.cpp s.cur.cpp * i))))) =
      (passesOf s f.cpp).map fun p => (p.2, (servedIn s e p.1 p.2).flatMap (g (s.ct.view p.2))) := by
    simp [Form.passes, hf, passesOf, servedIn, List.map_map, Function.comp_def]
  unfold vecExec
  dsimp only
  rw [hps]
  refine ⟨_, passResults_parted s.ct (sweepOf s f.lat f.cpp e g) (sweepOf_bare s f.lat f.cpp e g), ?_⟩
  have q := pmcAdd_quiet s s.ct.core 0x01 ((passesOf s f.cpp).map fun p => (p.2, (servedIn s e p.1 p.2).flatMap (g (s.ct.view p.2)))).length s.cur.tk
  have hct : (pmcAdd s s.ct.core 0x01 ((passesOf s f.cpp).map fun p => (p.2, (servedIn s e p.1 p.2).flatMap (g (s.ct.view p.2)))).length).ct = s.ct := by
    unfold pmcAdd; dsimp only; split <;> rfl
  have hr := pmcAdd_rest s s.ct.core 0x01 ((passesOf s f.cpp).map fun p => (p.2, (servedIn s e p.1 p.2).flatMap (g (s.ct.view p.2)))).length
  generalize pmcAdd s s.ct.core 0x01 _ = u at q hct hr
  have hc : u.cur = s.cur := q.cur
  refine ⟨?_, ?_, fun j hj => ?_, q.cores, ?_⟩
  · rw [ct_modCt, hct]; rfl
  · rw [ct_modCt, hct]
  · rw [modCt_team_ne _ _ (by rw [hc]; exact hj)]; exact q.teams j hj
  · exact congrArg (fun v : State => { v with teams := s.teams }) hr

end Sys2Proof.Laws
end

