-- ==== Sys2Proof/Laws/Issue.lean ====
section
/-! SUPPORT. What issuing one word does in each phase, what counting cycles can change, and elements that no operation has written. -/
namespace Sys2Proof.Laws
open Sys2Proof.Machine Sys2Proof.Safety

/-! ## The phases of one word (R61, R67) -/

theorem issue_check {s : State} (h : s.cur.phase = .check) (f : Form) (chk : State → Verdict) (eff : State → State) :
    issue f chk eff s = .next { s with cur := { s.cur with verd := wordVerdict f chk s } } := by simp [issue, h]

theorem issue_effect {s : State} (h : s.cur.phase = .effect) (f : Form) (chk : State → Verdict) (eff : State → State) :
    issue f chk eff s = .next (eff s) := by simp [issue, h]

theorem issue_go {s : State} (h : s.cur.phase = .alone) {f : Form} {chk : State → Verdict} (hv : wordVerdict f chk s = .go)
    (eff : State → State) : issue f chk eff s = .next (eff s) := by simp [issue, h, hv]

theorem issue_settles {s : State} (h : s.cur.phase = .alone) {f : Form} {chk : State → Verdict} (hv : wordVerdict f chk s ≠ .go)
    (eff : State → State) : issue f chk eff s = .next (settle s (wordVerdict f chk s)) := by
  cases hw : wordVerdict f chk s <;> simp_all [issue]

/-- A word always answers a next state. -/
theorem issue_next (s : State) (f : Form) (chk : State → Verdict) (eff : State → State) : ∃ t, issue f chk eff s = .next t := by
  unfold issue
  cases s.cur.phase
  · dsimp only
    split <;> exact ⟨_, rfl⟩
  · exact ⟨_, rfl⟩
  · exact ⟨_, rfl⟩

/-! ## Cycles counted (R281) -/

theorem passCycles_quiet (s : State) (core n tk : Nat) : Quiet s (passCycles s core n) tk := by
  unfold passCycles
  split
  · exact Quiet.refl s tk
  · generalize cycleEvents s core n = es
    have key : ∀ (es : List (Nat × Nat)) (u : State), Quiet s u tk → Quiet s (es.foldl (fun s e => pmcAdd s core e.1 e.2) u) tk := by
      intro es
      induction es with
      | nil => intro u h; exact h
      | cons e es ih => intro u h; exact ih _ (h.trans (pmcAdd_quiet _ _ _ _ tk))
    exact key es _ ⟨rfl, fun _ _ => rfl, fun _ => rfl, rfl⟩

/-! ## Elements of the window that an operation has written (R81) -/

theorem settleRaces_none {s : State} {f : Race → RStep → Bool} (h : ∀ r ∈ s.races, ∀ p ∈ r.steps, f r p = false) : settleRaces s f = s := by
  have : (s.races.filter fun r => r.steps.any (f r)) = [] := List.filter_eq_nil_iff.2 fun r hr => by simpa using h r hr
  unfold settleRaces
  rw [this]

theorem endRace_races (s : State) (r : Race) : (endRace s r).races = s.races := rfl

theorem observed_races (s : State) (tk g e : Nat) : (observed s tk g e).races = s.races := by
  unfold observed
  split <;> rfl

/-- Of a race that writes have been observed of, no write that was observed, or is older, is left. -/
theorem after_steps (r : Race) (f : RStep → Bool) : ∀ p ∈ (r.after f).steps, f p = false := by
  intro p hp
  have := List.mem_takeWhile_imp (List.mem_reverse.1 hp)
  simpa using this

/-- After the observation of the writes that a test of writes names, no element has one left. -/
theorem settleRaces_steps (s : State) (f : RStep → Bool) : ∀ q ∈ (settleRaces s fun _ => f).races, ∀ p ∈ q.steps, f p = false := by
  have key : ∀ (rs : List Race) (u : State), (∀ q ∈ u.races, ∀ p ∈ q.steps, f p = false) →
      ∀ q ∈ (rs.foldl (settleRace fun _ => f) u).races, ∀ p ∈ q.steps, f p = false := by
    intro rs
    induction rs with
    | nil => intro u h; exact h
    | cons r rs ih =>
      intro u h
      refine ih _ ?_
      unfold settleRace
      dsimp only
      split
      · rw [endRace_races, observed_races]; exact h
      · intro q hq
        rcases List.mem_append.1 hq with hq | hq
        · exact h q (observed_races .. ▸ hq)
        · rw [List.mem_singleton.1 hq]; exact after_steps r f
  unfold settleRaces
  split
  · next h =>
    intro q hq p hp
    have := List.filter_eq_nil_iff.1 h q hq
    simp only [List.any_eq_true, not_exists, not_and, Bool.not_eq_true] at this
    exact this p hp
  · refine key _ _ ?_
    intro q hq p hp
    have := (List.mem_filter.1 hq).2
    simp only [Bool.not_eq_true', List.any_eq_false, Bool.not_eq_true] at this
    exact this p hp

end Sys2Proof.Laws
end

