-- ==== Sys2Proof/Tests/Slice0.lean ====
section
/-! SUPPORT. Tests on small states, and for each statement states that meet the hypotheses of its clauses. -/
namespace Sys2Proof.Tests
open Sys2Proof.Machine Sys2Proof.Safety
-- The theorems are checked one after another: each is one evaluation by the kernel, and many at once need much memory.
set_option Elab.async false

/-! ## States -/

/-- The number of the one team, and the team: 64 vector registers, four tiles, two accumulators, 4,096 bytes of scratchpad, four lanes. -/
def tk : Nat := 16 * 2 ^ 32
def tm : Team := { pc := 4, mask := 15, regs := 64, unif := 160, tiles := 4, nacc := 2, lmem := 4096, wsize := 65536, vwt := 16384, vwa := 49152 }

/-- One bound team whose page 0 of virtual addresses is a page of domain 0 with every permission. -/
def base : State :=
  { placeCore {} [0#32] with sched := [], teams := [(tk, tm)], cur := { tk := tk, word := 0, addr := 4, gpc := 4, link := 8 } }

/-- The same with the team changed. -/
def withTeam (f : Team → Team) : State := base.modTeam tk f
/-- The same with uniform registers. -/
def withRegs (rs : List (Nat × Word)) : State := withTeam fun t => { t with sreg := rs }
/-- The same for a privileged team. -/
def asPriv (s : State) : State := s.modCt fun t => { t with tstat := t.tstat ||| 256#32 }

/-- Whether a word issues normally, as a computation. -/
def clearB (i : Instr) (s : State) : Bool :=
  decide (s.cur.phase ≠ .check) && !(form i).ill && (!(form i).priv || s.ct.priv) && (form i).ops.all (·.legal s.ct)
    && !interlockHold (form i) s && !underrun (form i) s && (!(form i).mem || !fenceHold s)

theorem clear_of {i : Instr} {s : State} (h : clearB i s = true) : Clear i s := by
  simp only [clearB, Bool.and_eq_true, Bool.not_eq_true', Bool.or_eq_true, decide_eq_true_eq, List.all_eq_true] at h
  obtain ⟨⟨⟨⟨⟨⟨h1, h2⟩, h3⟩, h4⟩, h5⟩, h6⟩, h7⟩ := h
  exact ⟨h1, h2, fun hp => h3.resolve_left (by simp [hp]), h4, h5, h6, fun hm => h7.resolve_left (by simp [hm])⟩

/-! ## Well-formed terms -/

/-- A word that names an instruction is no word without a meaning. -/
theorem test_illFormed_main : Instr.wellFormed (.unassignedOpcode 0x20010203#32) = false := by decide
theorem test_illFormed_loam : Instr.wellFormed (.loamUnassignedOpcode 0x00000000#32) = false := by decide
theorem test_wellFormed_main : Instr.wellFormed (.unassignedOpcode 0x1F000000#32) = true := by decide
theorem test_wellFormed_loam : Instr.wellFormed (.loamUnassignedOpcode 0x30200000#32) = true := by decide

/-! ## Witnesses -/

theorem witness_UniformOperationResult :
    (∃ u, uniformBinary (.uadd 1 2 3 none) = some u ∧ Clear (.uadd 1 2 3 none) base) ∧
    (∃ u, uniformAlu (.ualuNot 1 2 none) = some u ∧ Clear (.ualuNot 1 2 none) base) ∧
    (∃ u, uniformImmediate (.movi 159 0xFFFF none) = some u ∧ Clear (.movi 159 0xFFFF none) base) ∧
    (∃ u, uniformDecision (.ucmp 9 6 2 252 none) = some u ∧ Clear (.ucmp 9 6 2 252 none) base) ∧
    Clear (.setfmt 2 none) base ∧ Clear (.setst 2 none) (asPriv base) ∧ Clear (.getfmt 2 none) base ∧ Clear (.getst 2 none) base ∧
    (Clear (.ldcB64 2 0xFFF8 none) base ∧ (0xFFF8 : BitVec 16).toNat % 8 = 0) ∧
    (Clear (.ldcB32 2 2 none) base ∧ (2 : BitVec 16).toNat % 4 ≠ 0 ∧ base.cur.phase = .alone) :=
  ⟨⟨_, rfl, clear_of (by decide +kernel)⟩, ⟨_, rfl, clear_of (by decide +kernel)⟩, ⟨_, rfl, clear_of (by decide +kernel)⟩,
    ⟨_, rfl, clear_of (by decide +kernel)⟩, clear_of (by decide +kernel), clear_of (by decide +kernel), clear_of (by decide +kernel),
    clear_of (by decide +kernel), ⟨clear_of (by decide +kernel), by decide⟩, clear_of (by decide +kernel), by decide, rfl⟩

theorem witness_VectorOperationResult :
    (∃ u, vectorFloat (.vadd 63 1 2 none) = some u ∧ Clear (.vadd 63 1 2 none) base) ∧
    (∃ u, vectorInteger (.vialuDivs 4 2 1 none) = some u ∧ Clear (.vialuDivs 4 2 1 none) base) ∧
    (∃ u, vectorCompare (.vfcmp 0 6 1 2 none) = some u ∧ Clear (.vfcmp 0 6 1 2 none) base) :=
  ⟨⟨_, rfl, clear_of (by decide +kernel)⟩, ⟨_, rfl, clear_of (by decide +kernel)⟩, ⟨_, rfl, clear_of (by decide +kernel)⟩⟩

/-- Four lanes of v2 hold register numbers: the last even one of 64, or one too high. -/
def named (n : Nat) : State := withTeam fun t => (List.range 4).foldl (fun t l => t.put (.v l 2) n) t

theorem witness_VectorCrossLaneResult :
    (Clear (.vshufBu 1 2 3 none) base ∧ ∀ p ∈ passesOf base 1, ∀ l ∈ servedIn base none p.1 p.2,
      ∀ sl ∈ (src .vsrc (2 : BitVec 8).toNat 1 (eRegs none)).slots (shuffled (base.ct.view p.2) true 3 l), Readable base p.2 sl) ∧
    (∃ u, vectorReduce (.vredAdd 5 2 none) = some u ∧ Clear (.vredAdd 5 2 none) base) ∧
    (∃ u, vectorIndirect (.vrdiB64 4 2 none) = some u ∧ Clear (.vrdiB64 4 2 none) (named 62) ∧
      ∀ p ∈ indOf (form (.vrdiB64 4 2 none)) u.a u.n u.e (named 62), ∀ x ∈ p.sel,
        x.2 + u.n ≤ (named 62).ct.regs ∧ x.2 % u.n = 0 ∧ (u.wr = false → ∀ sl ∈ slotsFrom (.v x.1) x.2 u.n, Readable (named 62) p.cyc sl)) ∧
    (∀ p ∈ (indOf (form (.vrdiB64 4 2 none)) 2 2 none (named 62)).zip (sweepWords (named 62).ct.mask), ∀ l ∈ passLanes (named 62).ct.mask p.2,
      ∀ sl ∈ (form (.vrdiB64 4 2 none)).reads l, Readable (named 62) p.1.cyc sl) ∧
    (∃ u, vectorIndirect (.vwriB32 4 2 none) = some u ∧ Clear (.vwriB32 4 2 none) (named 64) ∧
      (∃ p ∈ indOf (form (.vwriB32 4 2 none)) u.a u.n u.e (named 64), ∃ x ∈ p.sel, (named 64).ct.regs < x.2 + u.n ∨ x.2 % u.n ≠ 0) ∧
      (named 64).cur.phase = .alone) := by
  refine ⟨⟨clear_of (by decide +kernel), by unfold Readable; decide +kernel⟩, ⟨_, rfl, clear_of (by decide +kernel)⟩,
    ⟨_, rfl, clear_of (by decide +kernel), ?_⟩, by unfold Readable; decide +kernel, ⟨_, rfl, clear_of (by decide +kernel), by decide +kernel, rfl⟩⟩
  have a : ∀ p ∈ indOf (form (.vrdiB64 4 2 none)) 2 2 none (named 62), ∀ x ∈ p.sel, x.2 + 2 ≤ (named 62).ct.regs ∧ x.2 % 2 = 0 := by
    decide +kernel
  have b : ∀ p ∈ indOf (form (.vrdiB64 4 2 none)) 2 2 none (named 62), ∀ x ∈ p.sel, ∀ sl ∈ slotsFrom (.v x.1) x.2 2, Readable (named 62) p.cyc sl := by
    unfold Readable; decide +kernel
  exact fun p hp x hx => ⟨(a p hp x hx).1, (a p hp x hx).2, fun _ => b p hp x hx⟩

theorem witness_SelectResult : Clear (.usel 159 2 3 (some 0)) base ∧ (Clear (.usel 1 2 3 (some 0x700000)) base ∧ eGuard (some 0x700000) = 7) :=
  ⟨clear_of (by decide +kernel), clear_of (by decide +kernel), by decide⟩

/-- The last places of one furrow that the clauses name. -/
theorem witness_RegisterReadAfterWrite : ∃ l k : Nat, l < 64 * tm.furr ∧ k < 1024 ∧ l = 63 ∧ k = 1023 := ⟨63, 1023, by decide⟩

/-- Two results on their way, the first due at cycle 3 and the second interlocked. -/
def owing : State := withTeam fun t => { t with pend := [{ grp := 0, due := some 3, ws := [(.s 1, 5)] }, { grp := 1, due := none, ws := [(.s 2, 6)] }] }
/-- The same in one team's event. -/
def owingEv : State := { owing with cur := { owing.cur with arg := { a := tk } } }

/-- An operation of group 5 has written the element of v0 of lane 0. -/
def covered : State := { base with races := [{ tk := tk, elem := base.ct.elem 0 0, ordered := true, final := 9, shown := 0
                                               steps := [{ target := 0, inst := 7, grp := 5, others := [0] }] }] }

theorem witness_ResultsLand :
    (∀ r ∈ base.races, r.tk ≠ tk) ∧
    (∃ r, covered.races.find? (fun q => q.tk == tk && q.elem == (covered.team tk).elem 0 0) = some r ∧ (∀ p ∈ r.steps, 4 < p.grp) ∧
      ∃ p ∈ r.steps, p.mask = BitVec.allOnes 32) ∧
    (∃ p ∈ (owingEv.team tk).pend, ∃ d, p.due = some d ∧ ∀ q ∈ (owingEv.team tk).pend, ∀ e, q.due = some e → d ≤ e) ∧
    (∃ l p r, (owingEv.team tk).pend = l ++ p :: r ∧ (∀ q ∈ l, q.due ≠ none) ∧ p.due = none ∧ (p.vwri = true → ∀ q ∈ l ++ r, q.vwri = false → p.grp < q.grp)) :=
  ⟨by decide +kernel, ⟨_, rfl, by decide +kernel, by decide +kernel⟩,
    ⟨{ grp := 0, due := some 3, ws := [(.s 1, 5)] }, by decide +kernel, 3, rfl, by decide +kernel⟩,
    ⟨[{ grp := 0, due := some 3, ws := [(.s 1, 5)] }], { grp := 1, due := none, ws := [(.s 2, 6)] }, [], by decide +kernel, by decide, rfl, nofun⟩⟩

theorem witness_RoundingModes : ∃ rm k : Nat, 0 < k ∧ rm = 0 ∧ k = 1 := ⟨0, 1, by decide⟩

/-- The checking scoreboard is on, and u1 is still to be written. -/
def late : State := withTeam fun t => { t with tstat := 128, grp := 1, pend := [{ grp := 0, due := some 3, ws := [(.s 1, 5)] }] }
/-- u1 is interlocked. -/
def locked : State := withTeam fun t => { t with grp := 1, pend := [{ grp := 0, due := none, ws := [(.s 1, 5)] }] }
/-- The reserved bits of the handle in u8 to u11 are not zero. -/
def mishandled : State := withRegs [(8, 0x100), (9, 0), (10, 0xFFFFFFFF), (11, 0)]
/-- An acquire fence that a load in flight has not met. -/
def fenced : State := { withTeam (fun t => { t with fences := [⟨false, 2, 1⟩], grp := 2 }) with
  accs := [(1, { id := 1, tk := tk, core := 0, dom := 0, grp := 0, kind := .load false, z := 4, ord := 1, scope := 2, path := 0, uni := true
                 dreg := 3, lanes := [{ lane := 0, va := 64, loc := .ia 64 }] })] }

theorem witness_WordsThatDoNotIssue :
    (forCore .eret = true ∧ base.cur.phase = .alone ∧ illegal .eret base = true) ∧
    (let i : Instr := .tfetch 2 8 0 0 0
     forCore i = true ∧ illegal i mishandled = false ∧ badHandle i mishandled = true ∧ interlockHold (form i) mishandled = false ∧ fenceHold mishandled = false) ∧
    (∃ o, forCore (.uadd 160 1 2 none) = true ∧ illegal (.uadd 160 1 2 none) base = false ∧
      (form (.uadd 160 1 2 none)).ops.find? (fun o => !o.legal base.ct) = some o) ∧
    (let i : Instr := .uadd 3 1 2 none
     forCore i = true ∧ illegal i locked = false ∧ (∀ o ∈ (form i).ops, o.legal locked.ct = true) ∧ interlockHold (form i) locked = true) ∧
    (let i : Instr := .uadd 3 1 2 none
     forCore i = true ∧ illegal i late = false ∧ (∀ o ∈ (form i).ops, o.legal late.ct = true) ∧ interlockHold (form i) late = false ∧
     underrun (form i) late = true) ∧
    (let i : Instr := .uldB32 4 2 0x20 none
     forCore i = true ∧ illegal i fenced = false ∧ (∀ o ∈ (form i).ops, o.legal fenced.ct = true) ∧ interlockHold (form i) fenced = false ∧
     underrun (form i) fenced = false ∧ (form i).mem = true ∧ fenceHold fenced = true ∧ fenced.cur.phase = .alone) := by
  refine ⟨by decide +kernel, by decide +kernel, ⟨_, rfl, rfl, by rfl⟩, by decide +kernel, by decide +kernel, by decide +kernel⟩

/-- A word of the team's group has entered a wait. -/
def parked : State := withTeam fun t => { t with st := .barWait 16 0 }
/-- The team stands at the first group of its handler. -/
def inHandler : State := withTeam fun t => { t with entered := true }

theorem witness_TrapsAndReturn :
    (base.team tk).entered = false ∧ (inHandler.team tk).entered = true ∧ (Clear (.trap 0xFFFFFF) base ∧ base.ct.st = .ready) ∧
    (Clear (.trap 0) parked ∧ parked.ct.st ≠ .ready) ∧ Clear .eret (asPriv base) :=
  ⟨by decide +kernel, by decide +kernel, ⟨clear_of (by decide +kernel), by decide +kernel⟩, ⟨clear_of (by decide +kernel), by decide +kernel⟩, clear_of (by decide +kernel)⟩

theorem witness_ControlTransfers :
    Clear (.bra 1 6 0x8000) base ∧ Clear (.call 158 0x7FFF) base ∧ Clear (.jmp 2 4) base ∧ Clear (.ret 4) base :=
  ⟨clear_of (by decide +kernel), clear_of (by decide +kernel), clear_of (by decide +kernel), clear_of (by decide +kernel)⟩

/-- Predicate p1 of lanes 0 to 3 as given, and a stack of a depth. -/
def split (p depth : Nat) : State := withTeam fun t => { t with
  pred := [(1, BitVec.ofNat 1024 p)], stack := List.replicate depth ⟨true, 4, 15, 0⟩ }

/-- A stack of one entry. -/
def sided (rejoin : Bool) (pc : Nat) : State := withTeam fun t => { t with stack := [⟨rejoin, pc, 15, 0⟩] }

/-- T of a BRV for those states. -/
def takes (n : BitVec 1) (s : State) (T : BitVec 1024) : Prop :=
  ∀ l < 1024, T.getLsbD l = (s.ct.mask.getLsbD l && (now s).rdP 1 l != (n == 1))

theorem witness_ControlTransfers_join :
    (∃ T, Clear (.brv 0 1 8 (some 0)) (split 15 31) ∧ takes 0 (split 15 31) T ∧ T = (split 15 31).ct.mask ∧ (split 15 31).ct.stack.length + 1 ≤ 32) ∧
    (∃ T, Clear (.brv 1 1 8 (some 0)) (split 15 31) ∧ takes 1 (split 15 31) T ∧ T ≠ (split 15 31).ct.mask ∧ T = 0 ∧
      (split 15 31).ct.stack.length + 1 ≤ 32) ∧
    (∃ T, Clear (.brv 0 1 8 (some 0)) (split 3 30) ∧ takes 0 (split 3 30) T ∧ T ≠ (split 3 30).ct.mask ∧ T ≠ 0 ∧
      (split 3 30).ct.stack.length + 2 ≤ 32) ∧
    (∃ T, Clear (.brv 0 1 8 (some 0)) (split 3 31) ∧ takes 0 (split 3 31) T ∧ T ≠ (split 3 31).ct.mask ∧ T ≠ 0 ∧
      32 < (split 3 31).ct.stack.length + (if T = (split 3 31).ct.mask ∨ T = 0 then 1 else 2) ∧ (split 3 31).cur.phase = .alone) ∧
    (Clear .join (split 3 1) ∧ ∃ x r, (split 3 1).ct.stack = x :: r ∧ x.rejoin = true ∧
      targetBad ((split 3 1).modCt fun t => { t with stack := r, mask := x.mask, fmt := x.fmt }) tk x.pc = false ∧
      codeFault ((split 3 1).modCt fun t => { t with stack := r, mask := x.mask, fmt := x.fmt }) tk x.pc = none) ∧
    (Clear .join (sided false 4) ∧ (sided false 4).ct.stack = [⟨false, 4, 15, 0⟩]) ∧
    (Clear .join (sided true 0x10004) ∧ (sided true 0x10004).ct.stack = [⟨true, 0x10004, 15, 0⟩] ∧ targetBad (sided true 0x10004) tk 0x10004 = false ∧
      codeFault (sided true 0x10004) tk 0x10004 ≠ none) ∧
    (Clear .join base ∧ base.ct.stack = [] ∧ base.cur.phase = .alone) := by
  unfold takes
  exact ⟨⟨15, clear_of (by decide +kernel), by decide +kernel⟩, ⟨0, clear_of (by decide +kernel), by decide +kernel⟩,
    ⟨3, clear_of (by decide +kernel), by decide +kernel⟩, ⟨3, clear_of (by decide +kernel), by decide +kernel⟩,
    ⟨clear_of (by decide +kernel), _, _, rfl, by decide +kernel⟩, ⟨clear_of (by decide +kernel), by decide +kernel⟩, ⟨clear_of (by decide +kernel), by decide +kernel⟩,
    clear_of (by decide +kernel), by decide +kernel⟩

/-- The plot of the team is of a co-resident sowing. -/
def coResident : State := base.modPlot (tk / 16) fun p => { p with cores := true }
/-- The plot has a second team. -/
def twoTeams (s : State) : State := { s.modPlot (tk / 16) fun p => { p with nteams := 2 } with teams := s.teams ++ [(tk + 1, tm)] }

theorem witness_PredicateAndPlotControl :
    Clear (.qredAny 6 1) base ∧ Clear (.qredAll 0 7) base ∧ Clear .nop base ∧ Clear .yield base ∧
    (Clear .endTeam base ∧ base.ct.st = .ready ∧ (base.plot (tk / 16)).st = .bound ∧ ∀ o ∈ plotTeams (base.plot (tk / 16)), o = tk) ∧
    (Clear .endTeam (twoTeams base) ∧ (twoTeams base).ct.st = .ready ∧ ∃ o ∈ plotTeams ((twoTeams base).plot (tk / 16)), o ≠ tk ∧ ((twoTeams base).team o).st ≠ .ended) ∧
    (Clear .endTeam parked ∧ parked.ct.st ≠ .ready) ∧ Clear (.snap 159) (asPriv base) ∧
    (Clear .halt (asPriv base) ∧ ((asPriv base).plot (tk / 16)).cores = false) ∧
    (Clear .halt (asPriv coResident) ∧ ((asPriv coResident).plot (tk / 16)).cores = true) :=
  ⟨clear_of (by decide +kernel), clear_of (by decide +kernel), clear_of (by decide +kernel), clear_of (by decide +kernel),
    ⟨clear_of (by decide +kernel), by decide +kernel⟩, ⟨clear_of (by decide +kernel), by decide +kernel⟩, ⟨clear_of (by decide +kernel), by decide +kernel⟩,
    clear_of (by decide +kernel), ⟨clear_of (by decide +kernel), by decide +kernel⟩, clear_of (by decide +kernel), by decide +kernel⟩

/-- Counter `en` stands at 3, u1 and u2 hold 3 and 2. -/
def counting : State := withTeam fun t => { t with infl := [(4, 3)], sreg := [(1, 3), (2, 2)] }
/-- u1 names completion register 1 or the byte barrier at scratchpad address 16; u2 holds a phase. -/
def naming (bar : Bool) (ph : Nat) (c : Word) : State := withTeam fun t => { t with
  sreg := [(1, if bar then 0x10#32 else 0x40000001#32), (2, BitVec.ofNat 32 ph)], cc := [(1, c)] }

/-- The same with the barrier in the state word given. -/
def barred (st : Nat) (ph : Nat) : State := { naming true ph 0 with spm := Mem.write [] 24 st 4 }

/-- What BARWAIT asks of u1 for a target that is not in use by an earlier access. -/
def askable (s : State) : Prop :=
  let cw := (now s).rdU 1 1
  Clear (.barwait 2 1) s ∧ cwBad cw = false ∧ (cwBar cw = true → cwTarget cw % 16 = 0 ∧ lmOk s.ct (cwTarget cw) 16 = true) ∧ barBusy s s.cur.tk cw = false

/-- A write of an element by an operation credited to u1's target, landed or not. -/
def stepTo (s : State) (landed : Bool) : RStep := { target := targetKey s tk 0x40000001, inst := 7, landed := landed, others := [0] }
/-- An element that the operation has written, still shown as it was. -/
def unseen (s : State) (elem : Nat) (landed : Bool) : State := { s with
  races := [{ tk := tk, elem := elem, ordered := true, final := 9, shown := 0, steps := [stepTo s landed] }] }

/-- A wait by u1's target would observe it. -/
def seenBy (s : State) (p : RStep) : Bool := p.landed && p.target == targetKey s tk 0x40000001
/-- A word of a group whose checks have been made. -/
def inGroup (s : State) : State := { s with cur := { s.cur with phase := .effect } }

/-- A release of a scope has been credited to `en`. -/
def released (n : Nat) : State := { base with seen := [(enKey tk, n)] }

/-- Another team of the core has released at .core, and its store before that has still to perform at .wafer. -/
def heeded : State := { base with
  teams := base.teams ++ [(tk + 1, { tm with part := 1, rels := [⟨0, 2, []⟩] })]
  accs := [(1, { id := 1, tk := tk + 1, core := 0, dom := 0, grp := 1, kind := .store, z := 4, ord := 0, scope := 0, path := 1, uni := true
                 dreg := 3, lanes := [{ lane := 0, va := 64, loc := .ia 64, data := 7 }] })] }

/-- WAITC at its threshold and above it; BARWAIT at a completion register that is 0, still counting, and at fault; and at a byte
barrier one phase on, with a fault, and not yet on. -/
theorem witness_WaitResult :
    (Clear (.waitc 4 1) counting ∧ counting.ct.count (4 : BitVec 8).toNat ≤ (now counting).rdU 1 1) ∧
    (Clear (.waitc 4 2) counting ∧ (now counting).rdU 2 1 < counting.ct.count (4 : BitVec 8).toNat) ∧
    (askable (naming false 0 0) ∧ ccWord (naming false 0 0).ct 1 = 0) ∧ (askable (naming false 0 5) ∧ ccWord (naming false 0 5).ct 1 = 5) ∧
    (askable (naming false 0 0x80000005) ∧ 2 ^ 31 ≤ ccWord (naming false 0 0x80000005).ct 1) ∧
    (askable (barred 1 0) ∧ (barAt (barred 1 0) 16).phase = 1 ∧ (barAt (barred 1 0) 16).fault = 0) ∧
    (askable (barred 0x210000 0xFFFF) ∧ (barAt (barred 0x210000 0xFFFF) 16).phase = 0 ∧ (barAt (barred 0x210000 0xFFFF) 16).fault = 0x21) ∧
    (askable (barred 0 0) ∧ (barAt (barred 0 0) 16).phase = 0) ∧
    (askable (inGroup (naming false 0 0x80000005)) ∧ 2 ^ 31 ≤ ccWord (inGroup (naming false 0 0x80000005)).ct 1) ∧
    ({ base.cur with barFlt := some (4, 0x40000001, 5) } : Cur).barFlt = some ((inGroup (naming false 0 0x80000005)).cur.addr, 0x40000001, 5) ∧
    base.ct.tvecWas = none ∧
    (∃ r ∈ (heeded.team (tk + 1)).rels, shareScope heeded tk (tk + 1) ≤ 0 ∧ shareScope heeded tk (tk + 1) ≤ r.scope ∧ storesOut heeded (tk + 1) r.grp 3 = true) ∧
    (∃ r ∈ (unseen base 3 true).races, r.steps.any (seenBy (unseen base 3 true)) = true ∧ (r.after (seenBy (unseen base 3 true))).steps = [] ∧ (∀ q ∈ (unseen base 3 true).races, q.tk = r.tk → q.elem = r.elem → q = r) ∧
      Tbl.getD ((unseen base 3 true).team r.tk).win r.elem 0 = r.shown) ∧
    (∀ r ∈ (unseen base 3 false).races, r.steps.any (seenBy (unseen base 3 false)) = false) ∧
    (∀ n ∈ [0, 1, 3], max (Tbl.getD (released n).seen (enKey tk) 0) 0 = n) ∧ max (Tbl.getD (released 0).seen (enKey tk) 0) (if true then 1 else 0) = 1 := by
  unfold askable
  exact ⟨⟨clear_of (by decide +kernel), by decide +kernel⟩, ⟨clear_of (by decide +kernel), by decide +kernel⟩,
    ⟨⟨clear_of (by decide +kernel), by decide +kernel⟩, by decide +kernel⟩, ⟨⟨clear_of (by decide +kernel), by decide +kernel⟩, by decide +kernel⟩,
    ⟨⟨clear_of (by decide +kernel), by decide +kernel⟩, by decide +kernel⟩, ⟨⟨clear_of (by decide +kernel), by decide +kernel⟩, by decide +kernel⟩,
    ⟨⟨clear_of (by decide +kernel), by decide +kernel⟩, by decide +kernel⟩, ⟨⟨clear_of (by decide +kernel), by decide +kernel⟩, by decide +kernel⟩,
    ⟨⟨clear_of (by decide +kernel), by decide +kernel⟩, by decide +kernel⟩, rfl, by decide +kernel, by decide +kernel,
    ⟨_, .head _, by decide +kernel, by decide +kernel, by decide +kernel, by decide +kernel⟩, by decide +kernel, by decide +kernel, by decide +kernel⟩

/-- A trap register that already names a word, and one that would not. -/
def trapping (v : Word) : State := asPriv (withTeam fun t => { t with tepc := 4, sreg := [(1, v)] })

theorem witness_CsrResult :
    Clear (.csrr 1 0x410) base ∧ Clear (.csrr 1 0x411) base ∧ Clear (.csrr 1 0) base ∧
    Clear (.csrw 1 0x20) (trapping 0x1FF) ∧ (Clear (.csrw 1 0x21) (trapping 12) ∧ ((12 : Nat) % 16 ∈ [4, 8, 12])) ∧
    (Clear (.csrw 1 0x22) (trapping 0) ∧ (trapping 0).ct.tepc.toNat % 16 ∈ [4, 8, 12]) ∧ Clear (.csrw 1 0x21) (trapping 16) ∧
    Clear (.csrw 1 0x23) (trapping 0) ∧ Clear (.csrw 1 0x24) (trapping 0) ∧ Clear (.csrw 1 0x25) (trapping 4) ∧
    Clear (.csrw 1 0x403) (trapping 0) ∧ Clear (.csrw 1 0x404) (trapping 0) ∧ (trapping 16).cur.phase = .alone :=
  ⟨clear_of (by decide +kernel), clear_of (by decide +kernel), clear_of (by decide +kernel), clear_of (by decide +kernel),
    ⟨clear_of (by decide +kernel), by decide⟩, ⟨clear_of (by decide +kernel), by decide +kernel⟩, clear_of (by decide +kernel),
    clear_of (by decide +kernel), clear_of (by decide +kernel), clear_of (by decide +kernel), clear_of (by decide +kernel),
    clear_of (by decide +kernel), by decide +kernel⟩

/-- Four ranges: domain 0's first pages at VA 0, its fleeting window at 2^21, node 1, a host, at 2^22. -/
def mapped : State := { base with
  sows := Tbl.set base.sows 1 { base.sow 1 with ranges := [
    (0, { w0 := BitVec.ofNat 64 (2 ^ 63), w3 := 1 }), (1, { w0 := BitVec.ofNat 64 (2 ^ 63 + 1), w2 := BitVec.ofNat 64 (fleetBase / 2 ^ 21), w3 := 1 }),
    (2, { w0 := BitVec.ofNat 64 (2 ^ 63 + 2), w2 := BitVec.ofNat 64 (2 ^ 31), w3 := 1 })] }
  nodes := [(2, BitVec.ofNat 64 (2 ^ 63 + 2 ^ 62))] }
/-- The pair u2 holds a VA, u1 a value and u4 a local address; TSTAT and the counters are as given. -/
def reaching (va : Nat) (stat : Word := 0) (infl : Tbl Nat := []) : State := mapped.modTeam tk fun t => { t with
  sreg := [(1, 7), (2, BitVec.ofNat 32 va), (3, BitVec.ofNat 32 (va / 2 ^ 32)), (4, BitVec.ofNat 32 va)], tstat := stat, infl := infl }
/-- The same VA in the pair v2 of each of the four lanes, and for a local address the last word of the scratchpad. -/
def lanewise (va : Nat) : State := mapped.modTeam tk fun t => (List.range 4).foldl (fun t l =>
  (t.put (.v l 2) (va + 64 * l)).put (.v l 3) ((va + 64 * l) / 2 ^ 32)) t

theorem starts_of {m : MemOp} {s : State} (h : ∀ a ∈ m.addrs s, a % m.z = 0 ∧ if m.lm = true then lmOk s.ct a m.z = true
    else (vaCheck s s.cur.tk m.fleeting a).1 = 0 ∧ nodeIsHost s (iaNode (vaCheck s s.cur.tk m.fleeting a).2) = false ∧
      watchHit s (m.kind != .store && m.kind != .fst) (m.kind != .fld && match m.kind with | .load _ => false | _ => true) a = false)
    (hr : m.rel = true → s.ct.rerr = false) (hg : s.ct.gleaning = false ∧ logBlocked s = false) (hc : s.ct.count m.path < 63) : m.Starts s := by
  refine ⟨fun a ha => ?_, fun hm => ⟨hr hm, hg.1⟩, fun h => absurd h (by simp [hg.1]), fun _ => hg.2, hc⟩
  obtain ⟨h0, h1⟩ := h a ha
  refine ⟨h0, ?_⟩
  split at h1
  · rw [if_pos ‹_›]; exact h1
  · rw [if_neg ‹_›]; exact ⟨h1.1, fun _ => h1.2.1, h1.2.2⟩

/-- A store of the team to block 7 is in the glean log, and TSTAT says so. -/
def logging (va : Nat) : State := (reaching va 0x200).modCore 0 fun c => { c with
  glean := [{ tk := tk, ready := true, ord := 0, scope := 0, tok := 0, block := 7, be := 15, data := 9, wake := false, grp := 0, seq := 1 }] }
/-- A store of the team waits for a log that is full of another team's. -/
def logFull : State := { (reaching 128).modCore 0 (fun c => { c with
    glean := List.replicate 256 { tk := 3, ready := true, ord := 0, scope := 0, tok := 0, block := 7, be := 15, data := 9, wake := false, grp := 0, seq := 5 } }) with
  accs := [(1, { id := 1, tk := tk, core := 0, dom := 0, grp := 0, kind := .store, z := 4, ord := 0, scope := 0, path := 1, uni := true
                 dreg := 0, lanes := [{ lane := 0, va := 64, loc := .ia 64, st := .faulted 1024 false }] })] }

theorem witness_MemoryInstructionStarts :
    (∃ m, memOp (.ustB32 1 2 0 none) = some m ∧ Clear (.ustB32 1 2 0 none) (logging 128) ∧ m.stores = true ∧ m.rel = false ∧ (logging 128).ct.gleaning = true ∧
      (logging 128).ct.fences = [] ∧ logBlocked (logging 128) = false ∧ (logging 128).ct.count m.path < 63 ∧ m.addrs (logging 128) = [128] ∧ m.passes (logging 128) 128 ∧
      (∀ g ∈ gleanOf (logging 128) (logging 128).cur.tk, g.seq ≤ (logging 128).fresh) ∧ ((logging 128).core (logging 128).ct.core).glean.length + 1 ≤ 256) ∧
    (∃ m, memOp (.ldB32 4 2 0 none) = some m ∧ Clear (.ldB32 4 2 0 none) (lanewise 128) ∧ m.Starts (lanewise 128) ∧ (m.lanes (lanewise 128)).length = 4) ∧
    (∃ m, memOp (.ustB64 0 2 0x68 none) = some m ∧ Clear (.ustB64 0 2 0x68 none) (reaching 0x1FFFF8 0 [(1, 62)]) ∧
      m.Starts (reaching 0x1FFFF8 0 [(1, 62)])) ∧
    (∃ m, memOp (.uldB32 1 4 3 none) = some m ∧ Clear (.uldB32 1 4 3 none) (reaching 4092) ∧ m.Starts (reaching 4092)) ∧
    (∃ m, memOp (.fatom 8 2 0x20 (some 0x700000)) = some m ∧ Clear (.fatom 8 2 0x20 (some 0x700000)) (lanewise 128) ∧ m.Starts (lanewise 128)) ∧
    (∃ m, memOp (.fld 4 2 0x20 none) = some m ∧ Clear (.fld 4 2 0x20 none) (lanewise 0x200000) ∧ m.Starts (lanewise 0x200000)) :=
  ⟨⟨_, rfl, clear_of (by decide +kernel), by decide +kernel, by decide +kernel, by decide +kernel, by decide +kernel, by decide +kernel, by decide +kernel, by decide +kernel,
      ⟨by decide, by decide +kernel, nofun, by decide +kernel⟩, by decide +kernel, by decide +kernel⟩,
    ⟨_, rfl, clear_of (by decide +kernel), starts_of (by decide +kernel) nofun (by decide +kernel) (by decide +kernel), by decide +kernel⟩,
    ⟨_, rfl, clear_of (by decide +kernel), starts_of (by decide +kernel) (by decide +kernel) (by decide +kernel) (by decide +kernel)⟩,
    ⟨_, rfl, clear_of (by decide +kernel), starts_of (by decide +kernel) nofun (by decide +kernel) (by decide +kernel)⟩,
    ⟨_, rfl, clear_of (by decide +kernel), starts_of (by decide +kernel) nofun (by decide +kernel) (by decide +kernel)⟩,
    ⟨_, rfl, clear_of (by decide +kernel), starts_of (by decide +kernel) nofun (by decide +kernel) (by decide +kernel)⟩⟩

/-- The checks at issue that fail, each at a lane after one that passes where the instruction is a vector one, and the holds. -/
theorem witness_MemoryInstructionHoldsAndTraps :
    (∃ m a, memOp (.uldB64 6 2 0 none) = some m ∧ Clear (.uldB64 6 2 0 none) (reaching 4) ∧ (m.addrs (reaching 4)).find? (fun a => a % m.z != 0) = some a) ∧
    (∃ m a, memOp (.uldB32 6 4 3 none) = some m ∧ Clear (.uldB32 6 4 3 none) (reaching 4096) ∧ (∀ a ∈ m.addrs (reaching 4096), a % m.z = 0) ∧ m.lm = true ∧
      (m.addrs (reaching 4096)).find? (fun a => !lmOk (reaching 4096).ct a m.z) = some a) ∧
    (∃ m a, memOp (.ldB32 4 2 0 none) = some m ∧ Clear (.ldB32 4 2 0 none) (lanewise 0x5FFFC0) ∧ (∀ a ∈ m.addrs (lanewise 0x5FFFC0), a % m.z = 0) ∧ m.lm = false ∧
      (m.addrs (lanewise 0x5FFFC0)).find? (fun a => (vaCheck (lanewise 0x5FFFC0) (lanewise 0x5FFFC0).cur.tk m.fleeting a).1 == 0x11) = some a) ∧
    (∃ m a, memOp (.ldB32 4 2 0 none) = some m ∧ Clear (.ldB32 4 2 0 none) (lanewise 0x1FFFC0) ∧ (∀ a ∈ m.addrs (lanewise 0x1FFFC0), a % m.z = 0) ∧ m.lm = false ∧
      (∀ a ∈ m.addrs (lanewise 0x1FFFC0), (vaCheck (lanewise 0x1FFFC0) (lanewise 0x1FFFC0).cur.tk m.fleeting a).1 ≠ 0x11) ∧
      (m.addrs (lanewise 0x1FFFC0)).find? (fun a => (vaCheck (lanewise 0x1FFFC0) (lanewise 0x1FFFC0).cur.tk m.fleeting a).1 == 0x13) = some a) ∧
    (∃ m a, memOp (.fatom 8 2 0x20 (some 0x700000)) = some m ∧ Clear (.fatom 8 2 0x20 (some 0x700000)) (lanewise 0x400000) ∧
      (∀ a ∈ m.addrs (lanewise 0x400000), a % m.z = 0) ∧ m.lm = false ∧ m.kind = .fatom 0 ∧
      (∀ a ∈ m.addrs (lanewise 0x400000), (vaCheck (lanewise 0x400000) (lanewise 0x400000).cur.tk m.fleeting a).1 = 0) ∧
      (m.addrs (lanewise 0x400000)).find? (fun a => nodeIsHost (lanewise 0x400000)
        (iaNode (vaCheck (lanewise 0x400000) (lanewise 0x400000).cur.tk m.fleeting a).2)) = some a) ∧
    (∃ m, memOp (.ustB32 1 2 0x68 none) = some m ∧ Clear (.ustB32 1 2 0x68 none) (reaching 128 0x40) ∧ m.addrs (reaching 128 0x40) = [128] ∧
      m.passes (reaching 128 0x40) 128 ∧ m.rel = true ∧ (reaching 128 0x40).ct.rerr = true) ∧
    (∃ m, memOp (.ustB32 1 2 0x68 none) = some m ∧ Clear (.ustB32 1 2 0x68 none) (reaching 128 0x200) ∧ m.addrs (reaching 128 0x200) = [128] ∧
      m.passes (reaching 128 0x200) 128 ∧ m.rel = true ∧ (reaching 128 0x200).ct.rerr = false ∧ (reaching 128 0x200).ct.gleaning = true) ∧
    (∃ m, memOp (.ustB32 1 2 0 none) = some m ∧ Clear (.ustB32 1 2 0 none) (reaching 128 0 [(1, 63)]) ∧ m.addrs (reaching 128 0 [(1, 63)]) = [128] ∧
      m.passes (reaching 128 0 [(1, 63)]) 128 ∧ m.rel = false ∧ (reaching 128 0 [(1, 63)]).ct.gleaning = false ∧ 63 ≤ (reaching 128 0 [(1, 63)]).ct.count m.path) ∧
    (∃ m, memOp (.uldB32 1 2 0 none) = some m ∧ Clear (.uldB32 1 2 0 none) (logging 448) ∧ m.addrs (logging 448) = [448] ∧ m.passes (logging 448) 448 ∧
      m.rel = false ∧ (logging 448).ct.gleaning = true ∧ m.lm = false ∧ m.kind ≠ .store ∧ m.kind ≠ .fst ∧
      ∃ g ∈ gleanOf (logging 448) tk, g.block = (vaCheck (logging 448) tk m.fleeting 448).2 / 64) ∧
    (∃ m, memOp (.ustB32 1 2 0 none) = some m ∧ Clear (.ustB32 1 2 0 none) logFull ∧ m.addrs logFull = [128] ∧ m.passes logFull 128 ∧
      m.rel = false ∧ m.stores = true ∧ logFull.ct.count m.path < 63 ∧ logBlocked logFull = true) := by
  refine ⟨⟨_, 4, rfl, clear_of (by decide +kernel), by decide +kernel⟩, ⟨_, 4096, rfl, clear_of (by decide +kernel), by decide +kernel⟩,
    ⟨_, 0x600000, rfl, clear_of (by decide +kernel), by decide +kernel⟩, ⟨_, 0x200000, rfl, clear_of (by decide +kernel), by decide +kernel⟩,
    ⟨_, 0x400000, rfl, clear_of (by decide +kernel), by decide +kernel⟩,
    ⟨_, rfl, clear_of (by decide +kernel), by decide +kernel, ?_, rfl, by decide +kernel⟩,
    ⟨_, rfl, clear_of (by decide +kernel), by decide +kernel, ?_, rfl, by decide +kernel⟩,
    ⟨_, rfl, clear_of (by decide +kernel), by decide +kernel, ?_, rfl, by decide +kernel⟩,
    ⟨_, rfl, clear_of (by decide +kernel), by decide +kernel, ?_, rfl, by decide +kernel⟩,
    ⟨_, rfl, clear_of (by decide +kernel), by decide +kernel, ?_, rfl, by decide +kernel⟩⟩
  all_goals exact ⟨by decide, by decide +kernel, nofun, by decide +kernel⟩

theorem witness_AccessStarts : (∃ ls : List Lane, ls ≠ [] ∧ base.ct.fences = [] ∧ NoBarWait base ∧ ls = [{ lane := 0, va := 16, loc := .lm 16, data := 9 }] ∧
    base.accs = [] ∧ base.cmds = [] ∧ (base.plot (base.cur.tk / 16)).resident = true ∧ base.ct.st = .ready) := ⟨_, List.cons_ne_nil _ _, rfl, by
      intro p hp cw ph
      have h : ∀ p ∈ base.teams, p.2.st = .ready := by decide +kernel
      rw [h p hp]; nofun, rfl, rfl, rfl, by decide +kernel⟩

theorem witness_FenceAndPrefetchResult :
    (Clear (.fence 3 2) base ∧ Free base) ∧ (Clear (.fence 2 3) base) ∧ (Clear (.fence 3 2) (reaching 0 0x40) ∧ (reaching 0 0x40).ct.rerr = true) ∧
    (Clear (.prefetchL1 2 0 none) (lanewise 128) ∧ (lanewise 128).ct.fences = [] ∧ ∀ d, ∀ l ∈ ((lanewise 128).dom d).lines, l.dirty = false) :=
  ⟨⟨clear_of (by decide +kernel), by unfold Free; decide +kernel⟩, clear_of (by decide +kernel), ⟨clear_of (by decide +kernel), by decide +kernel⟩,
    clear_of (by decide +kernel), by decide +kernel, fun d => by
      cases d with
      | zero => decide +kernel
      | succ n => exact fun l h => nomatch h⟩

/-- VC 63, which the page of VA 0 names, is active in a domain, for its own lines or for those of other homes. -/
def warm (d : Nat) (s : State) : State := s.modDom d fun m => { m with vcs := [(63, { st := 1, remote := d != 0, line := 1, ways := 1, banks := 1 })] }

/-- One address: no mapping, another node, a page without a cache, or with one that does not hold the line yet. -/
theorem witness_Prefetch_one :
    (vaCheck mapped tk false 0x600000).1 ≠ 0 ∧ (vaCheck mapped tk false 0x400000 = (0, 2 ^ 52) ∧ iaNode (2 ^ 52) ≠ 0) ∧
    (vaCheck mapped tk false 64 = (0, 64) ∧ iaNode 64 = 0 ∧ (match (pageOf mapped 0 64 false).2 with | .local_ 63 _ p => permRead p | _ => false) = true ∧
      fillGeo (Tbl.getD (mapped.dom 0).vcs 63 {}) false = none) ∧
    (let s := warm 0 mapped
     (match pageOf s 0 64 false with
      | (u, .local_ 63 _ p) => permRead p && (vcFind (dirTouch u 0 0) 0 false 63 64).2.isNone &&
          (match fillGeo (Tbl.getD (s.dom 0).vcs 63 {}) false with | some (g, _) => (g.place (u.dom 0) 64).isSome | none => false)
      | _ => false) = true ∧ ∀ x ∈ (s.dom 0).lines, x.dirty = false) := by
  exact ⟨by decide +kernel, by decide +kernel, by decide +kernel, by decide +kernel⟩

theorem witness_TileControlAndWatchStart :
    (Clear (.fbirth 1 2) (reaching 0x200000) ∧ (reaching 0x200000).ct.gleaning = false ∧ (vaCheck (reaching 0x200000) tk true 0x200000).1 = 0 ∧
      watchHit (reaching 0x200000) false true 0x200000 = false ∧ (reaching 0x200000).ct.count 3 < 63) ∧
    (Clear (.waita 1 2 0x12) (reaching 64) ∧ (vaCheck (reaching 64) tk false 64).1 = 0 ∧ watchHit (reaching 64) true false 64 = false ∧
      (reaching 64).ct.count 0 < 63) ∧
    (Clear (.wakea 1 2 0x1A) (reaching 64) ∧ watchHit (reaching 64) false true 64 = false ∧ (reaching 64).ct.count 1 < 63 ∧ logBlocked (reaching 64) = false ∧ Free (reaching 64)) := by
  unfold Free
  exact ⟨⟨clear_of (by decide +kernel), by decide +kernel⟩, ⟨clear_of (by decide +kernel), by decide +kernel⟩, clear_of (by decide +kernel), by decide +kernel⟩

/-- u1 holds a value and u2 a completion word. -/
def crediting (cw : Word) (infl : Tbl Nat := []) : State := withTeam fun t => { t with sreg := [(1, 3), (2, cw)], cc := [(1, 0x80000001)], infl := infl }

theorem witness_ByteBarriers :
    (∃ b : Bar, ∃ x : Nat, b.state < 2 ^ 32 ∧ x < 2 ^ 32 ∧ b.armed = true ∧ b.expect ≤ b.arrived ∧ b = ⟨7, 7, 2 ^ 31 + 0xFFFF, 0⟩ ∧ x = 2 ^ 32 - 1) ∧
    (Clear (.barinit 1 2) (crediting 0x80000000) ∧ cwBad ((now (crediting 0x80000000)).rdU 2 1) = true ∧ (crediting 0x80000000).cur.phase = .alone) ∧
    (Clear (.bararm 1 2) (crediting 0x40000001) ∧ cwBad ((now (crediting 0x40000001)).rdU 2 1) = false ∧ cwBar ((now (crediting 0x40000001)).rdU 2 1) = false) ∧
    (Clear (.bararm 1 2) (crediting 4080 [(2, 62)]) ∧ cwBad ((now (crediting 4080)).rdU 2 1) = false ∧ cwBar ((now (crediting 4080)).rdU 2 1) = true ∧
      lmOk (crediting 4080).ct 4080 16 = true ∧ (crediting 4080 [(2, 62)]).ct.count 2 < 63) ∧
    (Clear (.barinit 1 2) (crediting 4088) ∧ cwBad ((now (crediting 4088)).rdU 2 1) = false ∧ cwTarget ((now (crediting 4088)).rdU 2 1) % 16 ≠ 0) ∧
    (Clear (.barinit 1 2) (crediting 4096) ∧ cwBad ((now (crediting 4096)).rdU 2 1) = false ∧ lmOk (crediting 4096).ct 4096 16 = false) :=
  ⟨⟨_, _, by decide, by decide, by decide, by decide, rfl, rfl⟩, ⟨clear_of (by decide +kernel), by decide +kernel⟩, ⟨clear_of (by decide +kernel), by decide +kernel⟩,
    ⟨clear_of (by decide +kernel), by decide +kernel⟩, ⟨clear_of (by decide +kernel), by decide +kernel⟩, clear_of (by decide +kernel), by decide +kernel⟩

/-- The last arrival at issue: the one team of the plot, whose phase completes; and with a second team, which has not arrived. -/
def comesLast (s : State) : Prop :=
  let live := (netMembers s 0 (tk / 16) (domOf s.ct.core)).filter fun k => (s.team k).st != .ended
  live ≠ [] ∧ ∀ k ∈ live, (s.plot (k / 16)).resident = true ∧ (releaseReady s k ((s.team k).grp + 1) 1 = true ∧ (s.team k).rerr = false ∧ gleanOf s k = []) ∧
    ((s.team k).st = .netWait 0 ∨ k = s.cur.tk ∧ s.ct.st = .ready)
/-- The team has arrived at its plot barrier, and the event completes that phase. -/
def arrivedAt : State := { withTeam (fun t => { t with st := .netWait 0, grp := 1 }) with cur := { arg := { a := tk / 16, c := 0 } } }

theorem witness_NetworkBarriers :
    (Clear .pbar base ∧ Free base ∧ comesLast base) ∧ (Clear .pbar (twoTeams base) ∧ Free (twoTeams base) ∧ ¬ comesLast (twoTeams base)) ∧ (Clear .dbar coResident ∧ (coResident.plot (tk / 16)).cores = true ∧ Free coResident) ∧
    (Clear .pbar (reaching 0 0x40) ∧ (reaching 0 0x40).ct.rerr = true) ∧ (Clear .wbar base ∧ (base.plot (tk / 16)).cores = false) ∧
    (let live := (netMembers arrivedAt 0 (tk / 16) 0).filter fun k => (arrivedAt.team k).st != .ended
     live = [tk] ∧ ∀ k ∈ live, (arrivedAt.team k).st = .netWait 0 ∧ (arrivedAt.plot (k / 16)).resident = true ∧
       releaseReady arrivedAt k ((arrivedAt.team k).grp + 1) 1 = true ∧ (arrivedAt.team k).rerr = false ∧ gleanOf arrivedAt k = [] ∧ (arrivedAt.team k).later = [] ∧ (arrivedAt.team k).after = none) ∧
    (∃ k ∈ (netMembers base 0 (tk / 16) 0).filter fun k => (base.team k).st != .ended, (base.team k).st ≠ .netWait 0) := by
  unfold Free comesLast
  exact ⟨⟨clear_of (by decide +kernel), by decide +kernel⟩, ⟨clear_of (by decide +kernel), by decide +kernel⟩, ⟨clear_of (by decide +kernel), by decide +kernel⟩,
    ⟨clear_of (by decide +kernel), by decide +kernel⟩, ⟨clear_of (by decide +kernel), by decide +kernel⟩, by decide +kernel, tk, by decide +kernel⟩

/-- tc0 is the shape of activations and tc1 that of weights (R161), tc2 one row of 16 bytes; uniform registers are as given. -/
def engine (rs : List (Nat × Word)) : State := mapped.modTeam tk fun t => { t with
  tcr := [(0, BitVec.ofNat 32 (31 * 2 ^ 21 + 255 * 2 ^ 13 + 2 ^ 11)), (1, BitVec.ofNat 32 (2 ^ 29 + 255 * 2 ^ 21 + 63 * 2 ^ 13 + 2 * 2 ^ 11)), (2, 15 * 2 ^ 13)]
  sreg := [(1, 0x40000001), (2, 16), (4, 0x40000004)] ++ rs }
/-- A handle in u8 to u11 of rows 64 bytes apart, with a completion word in u12. -/
def handled : State := engine [(8, 0x100), (10, 64), (11, 0x00100001), (12, 0x40000002)]
/-- A transfer in u8 to u11. -/
def moving (b stride : Word) : State := engine [(8, b), (10, stride), (11, 0x40000000)]
/-- A copy descriptor in u8 to u19: two rows of 64 bytes. -/
def copying (src dst : Word) : State := engine [(8, src), (10, dst), (12, 0x400040), (13, 0x20002), (14, 64), (15, 128), (16, 2)]

theorem witness_TileShapeAndMatrixPost :
    (Clear (.tshape 3 1) base ∧ shapeBad ((now base).rdU 1 1) = false) ∧
    (Clear (.tshape 3 1) (withRegs [(1, 0x80000000)]) ∧ shapeBad ((now (withRegs [(1, 0x80000000)])).rdU 1 1) = true) ∧
    ((engine []).ct.fences = [] ∧ (engine []).ct.count 4 < 63) ∧
    (Clear (.tzero 0x81 1) (engine []) ∧ CwOk (engine []) ((now (engine [])).rdU 1 1) ∧ (engine []).ct.outside ((engine []).ct.accBase 1) 8192 = false) ∧
    (Clear (.tmma 1 0 1 (some 2)) (engine []) ∧ CwOk (engine []) ((now (engine [])).rdU 2 1) ∧
      tcOf (now (engine [])) 0 = 31 * 2 ^ 21 + 255 * 2 ^ 13 + 2 ^ 11 ∧ tcOf (now (engine [])) 1 = 2 ^ 29 + 255 * 2 ^ 21 + 63 * 2 ^ 13 + 2 * 2 ^ 11 ∧
      (engine []).ct.tileOut 0 (shapeOf (tcOf (now (engine [])) 0)) = false ∧ (engine []).ct.tileOut 1 (shapeOf (tcOf (now (engine [])) 1)) = false) ∧
    (Clear (.tmmaf 1 0 8 (some 1)) handled ∧ badHandle (.tmmaf 1 0 8 (some 1)) handled = false ∧ CwOk handled ((now handled).rdU 1 1) ∧
      hBase (now handled) 8 % 16 = 0 ∧ hStride (now handled) 8 % 16 = 0 ∧ 16 ≤ hStride (now handled) 8 ∧
      ∀ f ∈ (handleFrags (now handled) weightShape 8 0 4096).flatMap cut, (vaCheck handled tk false f.va).1 = 0) := by
  unfold CwOk
  exact ⟨⟨clear_of (by decide +kernel), by decide +kernel⟩, ⟨clear_of (by decide +kernel), by decide +kernel⟩, by decide +kernel,
    ⟨clear_of (by decide +kernel), by decide +kernel⟩, ⟨clear_of (by decide +kernel), by decide +kernel⟩, clear_of (by decide +kernel), by decide +kernel⟩

/-- What a transfer asks beyond Clear. -/
def movable (s : State) (st : Bool) (h : Shape) (off : Nat) (lm : Bool) : Prop :=
  let t := now s
  let fs := blockFrags (if lm then t.rdU 8 1 else t.rdU 8 2) (t.rdU 10 1) h.rows h.rowBytes h.scales off (s.ct.scaleBase h)
  CwOk s (t.rdU 11 1) ∧ (if st then s.ct.outside off 8192 = false else s.ct.tileOut 2 h = false) ∧ t.rdU 8 2 % 16 = 0 ∧ t.rdU 10 1 % 16 = 0 ∧
    h.rowBytes ≤ t.rdU 10 1 ∧ (if lm then ∀ f ∈ fs, firstOut s.ct (2 ^ 21) f = none else ∀ f ∈ fs.flatMap cut, (vaCheck s tk false f.va).1 = 0) ∧
    Free s ∧ s.ct.fences = [] ∧ s.ct.gleaning = false

theorem witness_TileTransferStarts :
    (Clear (.tld 2 8 0x49) (moving 0x1FFFF0 16) ∧ movable (moving 0x1FFFF0 16) false (shapeOf (tcOf (now (moving 0x1FFFF0 16)) 2)) ((moving 0x1FFFF0 16).ct.tileBase 2) false) ∧
    (Clear (.tld 2 8 3) (moving 4080 16) ∧ movable (moving 4080 16) false (shapeOf (tcOf (now (moving 4080 16)) 2)) ((moving 4080 16).ct.tileBase 2) true) ∧
    (Clear (.tst 1 8 0x69) (moving 0 256) ∧ movable (moving 0 256) true ⟨32, 32, 64, 0, 0⟩ ((moving 0 256).ct.accBase 1) false) := by
  unfold movable CwOk Free
  exact ⟨⟨clear_of (by decide +kernel), by decide +kernel⟩, ⟨clear_of (by decide +kernel), by decide +kernel⟩, clear_of (by decide +kernel), by decide +kernel⟩

/-- What a copy asks beyond Clear. -/
def copyable (s : State) (u : CopyOp) : Prop :=
  let t := now s
  let c := copyD t u.k u.a.toNat u.slm u.dlm
  let cw := t.rdU u.d.toNat 1
  let srcs := c.sel.map c.srcFrag
  let dsts := c.sel.zipIdx.map fun p => c.dstFrag p.2
  CwOk s cw ∧ (u.k ≠ .plain → cwBar cw = true) ∧ (u.k = .bcast → nb cw 19 2 = 0) ∧ c.bad = false ∧ c.src % 4 = 0 ∧ c.dst % 4 = 0 ∧ c.ss % 4 = 0 ∧ c.ds % 4 = 0 ∧
    (∀ f ∈ (if u.slm then srcs else []) ++ (if u.dlm then dsts else []), firstOut s.ct (if u.k = .bcast then 2 ^ 19 else 2 ^ 21) f = none) ∧
    (∀ f ∈ ((if u.slm then [] else srcs) ++ (if u.dlm then [] else dsts)).flatMap cut, (sideCheck s u.fleet f.va).1 = 0) ∧ Free s

theorem witness_CopyCommandQueues :
    (∃ u, copyOp (.copy 1 8 1 1 2 0 0 0) = some u ∧ Clear (.copy 1 8 1 1 2 0 0 0) (copying 0x1FFF80 0x1000) ∧ copyable (copying 0x1FFF80 0x1000) u) ∧
    (∃ u, copyOp (.copyg 2 8 0 0 0 0 1 0) = some u ∧ Clear (.copyg 2 8 0 0 0 0 1 0) (copying 0x1000 0x40) ∧ copyable (copying 0x1000 0x40) u) ∧
    (∃ u, copyOp (.copyb 2 8 0 0 15) = some u ∧ Clear (.copyb 2 8 0 0 15) (copying 0x1000 0x40) ∧ copyable (copying 0x1000 0x40) u) ∧
    (Clear (.tfetch 2 8 1 2 0) handled ∧ badHandle (.tfetch 2 8 1 2 0) handled = false ∧ CwOk handled ((now handled).rdU 12 1) ∧
      handled.ct.tileOut 2 (shapeOf (tcOf (now handled) 2)) = false ∧
      ∀ f ∈ (handleFrags (now handled) (shapeOf (tcOf (now handled) 2)) 8 (handled.ct.tileBase 2) (handled.ct.scaleBase (shapeOf (tcOf (now handled) 2)))).flatMap cut,
        (vaCheck handled tk false f.va).1 = 0) := by
  unfold copyable CwOk Free
  exact ⟨⟨_, rfl, clear_of (by decide +kernel), by decide +kernel⟩, ⟨_, rfl, clear_of (by decide +kernel), by decide +kernel⟩,
    ⟨_, rfl, clear_of (by decide +kernel), by decide +kernel⟩, clear_of (by decide +kernel), by decide +kernel⟩

/-- Sums of f32 rows of 1,024 bytes from VA 0x400 on, into scratchpad byte 3,072, with a release; lanes 0 to 3 name rows 0, 1, 2 and none. -/
def reducing : State := (engine [(8, 0x400), (10, 1024), (11, 1024 + 2 ^ 22 + 2 * 2 ^ 19), (12, 3072), (13, 0x40000001)]).modTeam tk fun t =>
  (((t.put (.v 0 2) 0).put (.v 1 2) 1).put (.v 2 2) 2).put (.v 3 2) 0xFFFFFFFF

theorem witness_IndexedReduceQueues : Clear (.iredC 8 2) reducing ∧ reducing.ct.fences = [] ∧ reducing.ct.count 4 < 63 ∧
    (let s := reducing
     let w (k : Nat) := (now s).rdU (8 + k) 1
     let rb := nb (w 3) 0 11
     let gs := ((maskLanes s.ct.mask).map (· / 16)).eraseDups
     nb (w 3) 28 4 < 3 ∧ nb (w 3) 24 4 < 3 ∧ nb (w 3) 11 8 = 0 ∧ rb = 1024 ∧ scopeIll (nb (w 3) 23 1 == 1 || nb (w 3) 22 1 == 1) (nb (w 3) 19 3) = false ∧
     CwOk s (w 5) ∧ (∀ x ∈ (iredRows s 8 2).map (·.2), x % 4 = 0 ∧ x / 1024 = (x + rb - 1) / 1024 ∧
       ∀ f ∈ cut { va := x, n := rb, off := 0 }, (vaCheck s s.cur.tk false f.va).1 = 0) ∧
     (∀ g ∈ gs, firstOut s.ct (2 ^ 21) { va := w 4 + g * rb, n := rb, off := 0 } = none) ∧ nb (w 3) 22 1 = 1 ∧ Free s ∧ gs ≠ [] ∧
     (s.core s.ct.core).iredQ.length < 16 ∧ (s.core s.ct.core).stallI = []) := by
  unfold CwOk Free
  exact ⟨clear_of (by decide +kernel), by decide +kernel⟩

theorem witness_RequestResult :
    (mapped.ct.fences = [] ∧ (reaching 0x1FFFC0 0 [(4, 62)]).ct.count 4 < 63) ∧
    (Clear (.vclean 1 2) (reaching 0x1FFFF9) ∧ ∀ r ∈ pageRuns ((now (reaching 0x1FFFF9)).rdU 2 2) ((now (reaching 0x1FFFF9)).rdU 1 1),
      (vaCheck (reaching 0x1FFFF9) tk false r.1).1 ≠ 0x11) ∧
    (Clear (.vcquery 1 2) (reaching 5) ∧ (vaCheck (reaching 5) tk false 5).1 = 0) ∧
    (Clear (.vcdef 1 2) (asPriv (reaching 0x1FFFC0)) ∧ (vaCheck (asPriv (reaching 0x1FFFC0)) tk false 0x1FFFC0).1 = 0) ∧
    (Clear (.vcresize 1 2) (asPriv (reaching 64)) ∧ (vaCheck (asPriv (reaching 64)) tk false 64).1 = 0) ∧
    (Clear (.rgset 4 2) (asPriv (reaching 32)) ∧ (vaCheck (asPriv (reaching 32)) tk false 32).1 = 0) ∧
    (Clear (.ptinv 1 2) (asPriv (reaching 0x10000)) ∧ pageIaBad ((now (reaching 0x10000)).rdU 2 2) ((now (reaching 0x10000)).rdU 1 1) = false) ∧
    (Clear (.replay 1 2) (asPriv (reaching 0x10000)) ∧ ((now (reaching 0x10000)).rdU 3 1 < 2 ^ 31 → pageIaBad 0x10000 1 = false)) ∧
    (Clear (.sow 6 8 1 2) (engine []) ∧ Free (engine [])) := by
  unfold Free
  exact ⟨by decide +kernel, ⟨clear_of (by decide +kernel), by decide +kernel⟩, ⟨clear_of (by decide +kernel), by decide +kernel⟩,
    ⟨clear_of (by decide +kernel), by decide +kernel⟩, ⟨clear_of (by decide +kernel), by decide +kernel⟩, ⟨clear_of (by decide +kernel), by decide +kernel⟩,
    ⟨clear_of (by decide +kernel), by decide +kernel⟩, ⟨clear_of (by decide +kernel), by decide +kernel⟩, clear_of (by decide +kernel), by decide +kernel⟩

/-! The loam level -/

/-- A running loam plot of 64 words with 256 bytes of buffer: mask k1 serves lanes 0 and 31, x1 holds an address, and the ranges are those
of `mapped`. -/
def loam (x1 : DWord) (out : List LAcc := []) : State :=
  let s := (placeLoam mapped 0).modSow 1 fun w => { w with ranges := (mapped.sow 1).ranges }
  { s with sched := [], cur := { lk := 0 } }.modLPlot (2 ^ 32) fun p => { p with
    len := 256, lmem := 256, k := [(1, 0x80000001)], x := [(1, x1)], pc := 8, out := out }

/-- Whether a loam instruction goes on, as a computation. -/
def loamClearB (i : Instr) (s : State) : Bool :=
  let p := s.lplot s.lrun
  !loamIllegal i && (p.cls == 0 || (s.loam p.lk).queue.all fun o => (s.lplot o).cls != 0) &&
    p.out.all fun a => a.tok == 0 && (loamRegs i).all fun r => !a.owes r

theorem loamClear_of {i : Instr} {s : State} (h : loamClearB i s = true) : LoamClear i s := by
  simp only [loamClearB, Bool.and_eq_true, Bool.or_eq_true, Bool.not_eq_true', List.all_eq_true, beq_iff_eq, bne_iff_ne, ne_eq] at h
  exact ⟨⟨fun a ha => (h.2 a ha).1, h.1.2⟩, h.1.1, fun a ha => (h.2 a ha).2⟩

/-- A plot of class 1 runs, and one of class 0 stands in the queue. -/
def giveWay : State :=
  let s := (loam 0).modLPlot (2 ^ 32) fun p => { p with cls := 1 }
  { s with lplots := s.lplots ++ [(2 ^ 32 + 1, { sow := 1, lk := 0, cls := 0, lanes := 1, lmem := 0 })]
           loams := [(0, { queue := [2 ^ 32, 2 ^ 32 + 1], run := some (2 ^ 32) })] }

/-- A load into w4 is on its way; a load of a moving page. -/
def coming : LAcc := { kind := 0, reg := 4, lanes := [(0, 64, 64, 0)], n := 4 }

theorem witness_LoamIllegalAndHeld :
    LoamFree (loam 0) ∧ ¬ LoamFree (loam 0 [{ coming with tok := 5 }]) ∧ ¬ LoamFree giveWay ∧
    (forLoam (.loamKnot 4 1) = true ∧ loamIllegal (.loamKnot 4 1) = true) ∧
    (forLoam (.loamVadd 1 2 4 1 0 0) = true ∧ loamIllegal (.loamVadd 1 2 4 1 0 0) = false ∧ LoamFree (loam 0 [coming]) ∧
      ∃ a ∈ ((loam 0 [coming]).lplot (loam 0 [coming]).lrun).out, ∃ r ∈ loamRegs (.loamVadd 1 2 4 1 0 0), a.owes r = true) := by
  unfold LoamFree
  exact ⟨by decide +kernel, by decide +kernel, by decide +kernel, by decide, by decide, by decide, by decide +kernel, coming, by decide +kernel⟩

theorem witness_LoamRegisterResult :
    (∃ u, loamVector (.loamVadd 31 2 3 1 2 1) = some u ∧ LoamClear (.loamVadd 31 2 3 1 2 1) (loam 0)) ∧
    (∃ d b, loamMask (.loamVcmp 3 1 2 0 0 5 0) = some (d, b) ∧ LoamClear (.loamVcmp 3 1 2 0 0 5 0) (loam 0)) ∧
    (∃ d v, loamScalar (.loamLdk 15 0x7FF8) = some (d, v) ∧ LoamClear (.loamLdk 15 0x7FF8) (loam 0)) :=
  ⟨⟨_, rfl, loamClear_of (by decide +kernel)⟩, ⟨_, _, rfl, loamClear_of (by decide +kernel)⟩, ⟨_, _, rfl, loamClear_of (by decide +kernel)⟩⟩

theorem loamCause_num {s : State} {p : LPlot} {n va c : Nat} (h : loamCause s p n va c) : c = 3 ∨ c = 4 ∨ c = 5 ∨ c = 8 := by
  unfold loamCause at h
  rcases h with h | h
  · exact .inl h.1
  · split at h
    · exact .inr (.inl h)
    · rcases h with h | h | h <;> simp [h.1]

/-- An access that no cause stops; one that is misaligned and reaches another node, so that cause 3 is the lowest; buffer accesses in
bounds, misaligned, and at the allocation's end. -/
theorem witness_LoamMemoryResult :
    (∃ m, loamMemOp (.loamVld 4 1 1 0) = some m ∧ LoamClear (.loamVld 4 1 1 0) (loam 0x1FFF80) ∧
      ∀ j ∈ loamLanes ((loam 0x1FFF80).lplot (loam 0x1FFF80).lrun) m.k, ∀ c,
        ¬ loamCause (loam 0x1FFF80) ((loam 0x1FFF80).lplot (loam 0x1FFF80).lrun) m.n (m.addr ((loam 0x1FFF80).lplot (loam 0x1FFF80).lrun) j).toNat c) ∧
    (∃ m, loamMemOp (.loamSld 4 1 4) = some m ∧ LoamClear (.loamSld 4 1 4) (loam 0x400000) ∧
      (∃ j ∈ loamLanes ((loam 0x400000).lplot (loam 0x400000).lrun) m.k,
        loamCause (loam 0x400000) ((loam 0x400000).lplot (loam 0x400000).lrun) m.n (m.addr ((loam 0x400000).lplot (loam 0x400000).lrun) j).toNat 3) ∧
      ∀ j ∈ loamLanes ((loam 0x400000).lplot (loam 0x400000).lrun) m.k, ∀ e,
        loamCause (loam 0x400000) ((loam 0x400000).lplot (loam 0x400000).lrun) m.n (m.addr ((loam 0x400000).lplot (loam 0x400000).lrun) j).toNat e → 3 ≤ e) ∧
    (LoamClear (.loamBst 2 1 1 0) (loam 128) ∧
      ∀ j ∈ loamLanes ((loam 128).lplot (loam 128).lrun) (some 1), (loamAddr 1 0 ((loam 128).lplot (loam 128).lrun) j).toNat % 4 = 0 ∧
        (loamAddr 1 0 ((loam 128).lplot (loam 128).lrun) j).toNat < ((loam 128).lplot (loam 128).lrun).lmem) ∧
    (LoamClear (.loamBld 2 1 1 0) (loam 2) ∧ ∃ j ∈ loamLanes ((loam 2).lplot (loam 2).lrun) (some 1), (loamAddr 1 0 ((loam 2).lplot (loam 2).lrun) j).toNat % 4 ≠ 0) ∧
    (LoamClear (.loamBld 2 1 1 0) (loam 132) ∧ (∀ j ∈ loamLanes ((loam 132).lplot (loam 132).lrun) (some 1), (loamAddr 1 0 ((loam 132).lplot (loam 132).lrun) j).toNat % 4 = 0) ∧
      ∃ j ∈ loamLanes ((loam 132).lplot (loam 132).lrun) (some 1), ((loam 132).lplot (loam 132).lrun).lmem ≤ (loamAddr 1 0 ((loam 132).lplot (loam 132).lrun) j).toNat) := by
  refine ⟨⟨_, rfl, loamClear_of (by decide +kernel), fun j hj c hc => ?_⟩, ⟨_, rfl, loamClear_of (by decide +kernel), ⟨0, by decide +kernel, .inl (by decide +kernel)⟩, ?_⟩,
    ⟨loamClear_of (by decide +kernel), by decide +kernel⟩, ⟨loamClear_of (by decide +kernel), 0, by decide +kernel⟩, loamClear_of (by decide +kernel), by decide +kernel,
    31, by decide +kernel⟩
  · have h : ∀ j ∈ loamLanes ((loam 0x1FFF80).lplot (loam 0x1FFF80).lrun) (some 1), ∀ c < 9,
        ¬ loamCause (loam 0x1FFF80) ((loam 0x1FFF80).lplot (loam 0x1FFF80).lrun) 4 (loamAddr 1 0 ((loam 0x1FFF80).lplot (loam 0x1FFF80).lrun) j).toNat c := by
      unfold loamCause
      have e : ∀ j ∈ loamLanes ((loam 0x1FFF80).lplot (loam 0x1FFF80).lrun) (some 1),
          loamIa (loam 0x1FFF80) ((loam 0x1FFF80).lplot (loam 0x1FFF80).lrun) (loamAddr 1 0 ((loam 0x1FFF80).lplot (loam 0x1FFF80).lrun) j).toNat =
            some (loamAddr 1 0 ((loam 0x1FFF80).lplot (loam 0x1FFF80).lrun) j).toNat := by decide +kernel
      intro j hj c hc
      rw [e j hj]
      revert c; revert j
      decide +kernel
    exact h j hj c (by have := loamCause_num hc; omega) hc
  · intro j _ e he
    have := loamCause_num he
    omega

/-- An image of 256 bytes, one word at 8: a branch to its last word, and one past its end; a counter at 2 and at 1. -/
theorem witness_LoamControlResult :
    (LoamClear (.loamBr 61) (loam 0) ∧ (8 : Int) + 4 * (61 : BitVec 24).toInt < 256) ∧ (LoamClear (.loamBr 62) (loam 0) ∧ (256 : Int) ≤ 8 + 4 * (62 : BitVec 24).toInt) ∧
    LoamClear (.loamBcc 0 1 61) (loam 0) ∧ LoamClear (.loamBcc 1 1 61) (loam 0) ∧ LoamClear (.loamLoop 1 (-2)) (loam 2) ∧ LoamClear (.loamLoop 1 (-2)) (loam 1) ∧
    (LoamClear .loamSync (loam 0) ∧ ((loam 0).lplot (loam 0).lrun).out = []) ∧
    (LoamClear .loamDone (loam 0 [coming]) ∧ ((loam 0 [coming]).lplot (loam 0 [coming]).lrun).out ≠ []) ∧ LoamClear .loamDone (loam 0) ∧
    (LoamClear .loamYield (loam 0) ∧ ∀ o ∈ ((loam 0).loam 0).queue, o ≠ (loam 0).lrun → ((loam 0).lplot (loam 0).lrun).cls < ((loam 0).lplot o).cls) ∧
    (∃ a ∈ ((loam 0 [coming]).lplot (loam 0 [coming]).lrun).out, a.kind ≠ 1 ∧ a.kind ≠ 3) ∧
    (let s := { loam 0 with loams := [(0, { queue := [2 ^ 32, 2 ^ 32 + 1], run := some (2 ^ 32) })] }
     LoamClear .loamYield s ∧ (s.loam 0).run = some s.lrun ∧ ∃ o ∈ (s.loam 0).queue, o ≠ s.lrun ∧ (s.lplot o).cls ≤ (s.lplot s.lrun).cls) :=
  ⟨⟨loamClear_of (by decide +kernel), by decide⟩, ⟨loamClear_of (by decide +kernel), by decide⟩, loamClear_of (by decide +kernel), loamClear_of (by decide +kernel),
    loamClear_of (by decide +kernel), loamClear_of (by decide +kernel), ⟨loamClear_of (by decide +kernel), by decide +kernel⟩,
    ⟨loamClear_of (by decide +kernel), by decide +kernel⟩, loamClear_of (by decide +kernel), ⟨loamClear_of (by decide +kernel), by decide +kernel⟩,
    ⟨coming, by decide +kernel⟩, loamClear_of (by decide +kernel), by decide +kernel, 2 ^ 32 + 1, by decide +kernel⟩

/-! The homes and the banks -/

/-- A lane and an access of the team, under identifier 5. -/
def laneTo (loc : Loc) (data : Nat := 0) (st : LSt := .pending) : Lane := { lane := 0, va := 64, loc := loc, data := data, cmp := 3, st := st }
def accTo (k : AKind) (z : Nat) (l : Lane) : Acc :=
  { id := 5, tk := tk, core := 0, dom := 0, grp := 0, kind := k, z := z, ord := 1, scope := 2, path := 0, uni := true, dreg := 3, lanes := [l] }
/-- A request left at a tick, by port 0; lost with the port, or not. -/
def wentAt (t : Nat) (lost : Bool := false) : Sent := { at_ := t, port := 0, lost := lost }
/-- A lane to node 1, which may have left. -/
def leaving (t : Option Sent) : Lane := { laneTo (.ia (2 ^ 52)) with sent := t }
/-- `mapped` with the page of VA 0 given its permissions. -/
def paged (p : Nat) : State := { mapped with dram := Mem.write mapped.dram (frameKey (plainDom (mapped.dom 0)) 1 0) (2 ^ 63 + 2 ^ 60 + 63 * 2 ^ 52 + p * 2 ^ 48 + 2) 8 }
/-- An access in flight. -/
def inFlight (s : State) (a : Acc) : State := { s with accs := [(5, a)], cur := { s.cur with arg := { a := 5 } } }
/-- The turn of its lane. -/
def itsTurn (s : State) (a : Acc) (l : Lane) : Prop :=
  laneOf (inFlight s a) (inFlight s a).cur.arg.a (inFlight s a).cur.arg.b = some (a, l) ∧ l.st = .pending ∧ mayPerform (inFlight s a) a l = true
/-- The page of an IA is in this wafer's DRAM, with a permission. -/
def localWith (f : Nat → Bool) (s : State) (ia : Nat) : Prop := ∃ u vc key p, pageOf s (iaHome ia) ia s.cur.arg.flag = (u, .local_ vc key p) ∧ f p = true
theorem local_of {f : Nat → Bool} {s : State} {ia : Nat}
    (h : (match (pageOf s (iaHome ia) ia s.cur.arg.flag).2 with | .local_ _ _ p => f p | _ => false) = true) : localWith f s ia := by
  generalize e : pageOf s (iaHome ia) ia s.cur.arg.flag = r at h
  obtain ⟨u, x⟩ := r
  cases x <;> simp at h
  exact ⟨u, _, _, _, e, h⟩
/-- The page of an IA is not present. -/
def missing (s : State) (ia : Nat) : Prop := ∃ u k, pageOf s (iaHome ia) ia s.cur.arg.flag = (u, .fault k)
theorem missing_of {s : State} {ia : Nat} (h : (match (pageOf s (iaHome ia) ia s.cur.arg.flag).2 with | .fault _ => true | _ => false) = true) : missing s ia := by
  generalize e : pageOf s (iaHome ia) ia s.cur.arg.flag = r at h
  obtain ⟨u, x⟩ := r
  cases x <;> simp at h
  exact ⟨u, _, e⟩

/-- A wait table with an entry for page 1, and one without a free place. -/
def waiting (e : WaitE) : State := mapped.modDom 0 fun d => { d with wait := [(3, e)] }
def fullTable : State := mapped.modDom 0 fun d => { d with wait := (List.range 1024).map fun i => (i, { v := true, page := 7 + i }) }
theorem find_row {α : Type} (f : Nat → α) (l : List Nat) (k : Nat) (h : k ∈ l) : Tbl.find? (l.map fun i => (i, f i)) k = some (f k) := by
  induction l with
  | nil => cases h
  | cons x r ih =>
    rw [List.map_cons, Tbl.find?]
    split
    · rename_i e; rw [e]
    · rename_i e; exact ih ((List.mem_cons.mp h).resolve_left fun c => e c.symm)
theorem fullTable_free : waitFree (fullTable.dom 0) = none := by
  rw [waitFree, List.find?_eq_none]
  intro i hi
  have e : (fullTable.dom 0).wait = (List.range 1024).map fun i => (i, ({ v := true, page := 7 + i } : WaitE)) := by decide +kernel
  rw [e, Tbl.getD, find_row _ _ _ hi]
  simp

/-- A line of the core's L1 over VA 0 to 127. -/
def cachedL1 : State := mapped.modCore 0 fun c => { c with l1 := [{ base := 0, data := 0 }] }

theorem witness_MemoryRequestPerforms :
    (∀ t ∈ [none, some (wentAt 0), some (wentAt 0 true)], itsTurn mapped (accTo .store 4 (leaving t)) (leaving t) ∧ (leaving t).lost = t.any (·.lost)) ∧
    (∀ t, Outside (inFlight mapped (accTo .store 4 (leaving t))) (accTo .store 4 (leaving t)) (leaving t)) ∧
    (let a := { accTo (.load false) 4 (laneTo (.ia 64)) with ord := 0 }
     itsTurn mapped a (laneTo (.ia 64)) ∧ (a.l1May && (laneTo (.ia 64)).left.isNone) = true ∧ (l1Read (inFlight mapped a) a.core 64 a.z).isNone = true ∧
     itsTurn cachedL1 a (laneTo (.ia 64)) ∧ (l1Read (inFlight cachedL1 a) a.core 64 a.z).isSome = true) ∧
    itsTurn mapped (accTo (.load true) 4 (laneTo (.lm 16))) (laneTo (.lm 16)) ∧ itsTurn mapped (accTo .store 4 (laneTo (.lm 16) 9)) (laneTo (.lm 16) 9) ∧
    (itsTurn mapped (accTo (.load false) 8 (laneTo (.ia (2 ^ 52)))) (laneTo (.ia (2 ^ 52))) ∧ iaNode (2 ^ 52) ≠ 0) ∧
    (itsTurn mapped (accTo (.load false) 8 (laneTo (.ia 64))) (laneTo (.ia 64)) ∧ iaNode 64 = 0 ∧ iaHome 64 = 0 ∧
      localWith permRead (inFlight mapped (accTo (.load false) 8 (laneTo (.ia 64)))) 64) ∧
    (itsTurn (paged 0) (accTo (.load false) 8 (laneTo (.ia 64))) (laneTo (.ia 64)) ∧
      localWith (fun p => !permRead p) (inFlight (paged 0) (accTo (.load false) 8 (laneTo (.ia 64)))) 64) ∧
    (itsTurn mapped (accTo (.load false) 8 (laneTo (.ia 0x10000))) (laneTo (.ia 0x10000)) ∧
      missing (inFlight mapped (accTo (.load false) 8 (laneTo (.ia 0x10000)))) 0x10000) ∧
    itsTurn mapped (accTo .store 4 (laneTo (.ia (2 ^ 52)) 9)) (laneTo (.ia (2 ^ 52)) 9) ∧
    (itsTurn mapped (accTo .store 4 (laneTo (.ia 64) 9)) (laneTo (.ia 64) 9) ∧ localWith permWrite (inFlight mapped (accTo .store 4 (laneTo (.ia 64) 9))) 64 ∧
      (Tbl.getD (mapped.dom 0).vcs 63 {}).st = 0) ∧
    (itsTurn (paged 8) (accTo .wakea 4 (laneTo (.ia 64) 9)) (laneTo (.ia 64) 9) ∧
      localWith (fun p => !permWrite p) (inFlight (paged 8) (accTo .wakea 4 (laneTo (.ia 64) 9))) 64) ∧
    (itsTurn mapped (accTo .store 4 (laneTo (.ia 0x10000) 9)) (laneTo (.ia 0x10000) 9) ∧
      missing (inFlight mapped (accTo .store 4 (laneTo (.ia 0x10000) 9))) 0x10000) ∧
    (mapped.plot (tk / 16)).st ≠ .stopping ∧ (∃ i e, waitOf ((waiting { v := true, page := 1 }).dom 0) 1 = some (i, e)) ∧
    (waitOf (mapped.dom 0) 1 = none ∧ waitFree (mapped.dom 0) = some 0) ∧ (waitOf (fullTable.dom 0) 1 = none ∧ waitFree (fullTable.dom 0) = none) := by
  unfold itsTurn
  refine ⟨?_, fun t => ⟨2 ^ 52, rfl, .inl (by decide)⟩, ?_, ?_, ?_, ?_, ⟨?_, ?_, ?_, ?_⟩, ⟨?_, ?_⟩, ⟨?_, ?_⟩, ?_, ⟨?_, ?_, ?_⟩, ⟨?_, ?_⟩, ⟨?_, ?_⟩, ?_, ⟨3, { v := true, page := 1 }, ?_⟩, ?_, ?_, fullTable_free⟩
  all_goals first | decide +kernel | exact local_of (by decide +kernel) | exact missing_of (by decide +kernel)

/-- A weak load of IA 64 by a team of domain 1; its domain holds a hint, and with it a copy of the line. -/
def abroad : Acc := { accTo (.load false) 4 (laneTo (.ia 64)) with ord := 0, core := 48, dom := 1 }
def hinted (ls : List Line) : State := (warm 1 mapped).modDom 1 fun d => { d with hints := [(0, 63)], lines := ls }
def copyOf64 : Line := ⟨true, 63, 0, 0, 256, 0, 0, 0, false, 7 * 2 ^ 512⟩
/-- Block 0 waits for an acknowledgement. -/
def awaited : State := (hinted []).modDom 0 fun d => { d with dir := [⟨0, [1], [2], []⟩] }

theorem witness_MemoryRequestPerforms_remote :
    (∀ s ∈ [mapped, hinted [copyOf64], hinted []], itsTurn s abroad (laneTo (.ia 64)) ∧ abroad.l1May = true ∧ (l1Read (inFlight s abroad) 48 64 4).isNone = true ∧
      localWith permRead (inFlight s abroad) 64) ∧
    (abroad.dom ≠ iaHome 64 ∧ abroad.ord = 0 ∧ (hintOf (mapped.dom 1) 64).isNone = true) ∧
    (hintOf ((hinted [copyOf64]).dom 1) 64 = some 63 ∧ (vcFind (hinted [copyOf64]) 1 true 63 64).2 = some copyOf64) ∧
    (hintOf ((hinted []).dom 1) 64 = some 63 ∧ (vcFind (hinted []) 1 true 63 64).2 = none) ∧
    (∀ s ∈ [mapped, hinted [], awaited], (remoteFill s 0 1 63 64 (frameKey (plainDom (mapped.dom 0)) 2 64) tk 0).isSome = true ∧ ∀ x ∈ (s.dom 1).lines, x.remote = true → x.dirty = false) ∧
    fillGeo (Tbl.getD (mapped.dom 1).vcs 63 {}) true = none ∧
    (∃ g gen b set, fillGeo (Tbl.getD ((hinted []).dom 1).vcs 63 {}) true = some (g, gen) ∧ g.place ((hinted []).dom 1) 64 = some (b, set)) ∧
    (∃ e, dirFind (awaited.dom 0) (64 / 256) = some e ∧ e.pend ≠ []) ∧ (dirFind ((hinted []).dom 0) (64 / 256)).isNone = true := by
  unfold itsTurn
  refine ⟨fun s h => ?_, by decide +kernel, by decide +kernel, by decide +kernel, by decide +kernel, by decide +kernel, ⟨_, _, _, _, rfl, rfl⟩, ⟨_, rfl, by decide +kernel⟩, by decide +kernel⟩
  simp only [List.mem_cons, List.not_mem_nil, or_false] at h
  obtain rfl | rfl | rfl := h
  all_goals exact ⟨by decide +kernel, by decide +kernel, by decide +kernel, local_of (by decide +kernel)⟩

theorem witness_AtomicPerforms :
    (itsTurn mapped (accTo (.atom 0) 4 (leaving none)) (leaving none) ∧ iaNode (2 ^ 52) ≠ 0 ∧ (leaving none).data < 2 ^ 32 ∧ (leaving none).cmp < 2 ^ 32) ∧
    itsTurn mapped (accTo (.atom 10) 4 (laneTo (.lm 16) 0xFFFFFFFF)) (laneTo (.lm 16) 0xFFFFFFFF) ∧
    (itsTurn mapped (accTo (.fatom 1) 8 (laneTo (.ia 64) 9)) (laneTo (.ia 64) 9) ∧ iaNode 64 = 0 ∧
      localWith permAtom (inFlight mapped (accTo (.fatom 1) 8 (laneTo (.ia 64) 9))) 64) ∧
    (itsTurn (paged 8) (accTo (.atom 0) 8 (laneTo (.ia 64) 9)) (laneTo (.ia 64) 9) ∧
      localWith (fun p => !permAtom p) (inFlight (paged 8) (accTo (.atom 0) 8 (laneTo (.ia 64) 9))) 64) := by
  unfold itsTurn
  exact ⟨by decide +kernel, by decide +kernel, ⟨by decide +kernel, by decide, local_of (by decide +kernel)⟩, by decide +kernel, local_of (by decide +kernel)⟩

/-- Tile 2 of domain 0 born at a tick, or not. -/
def tileFrom (x : Tile) : State := { mapped with tick := 999, tiles := [(2, x)] }
def fencedTile : State := mapped.modDom 0 fun d => { d with colF := 1 }
/-- Its first byte. -/
def tileIa : Nat := fleetBase + 2 * 4096

theorem witness_FleetingTiles :
    (itsTurn (tileFrom ⟨false, 0⟩) (accTo .fld 4 (laneTo (.ia tileIa))) (laneTo (.ia tileIa)) ∧
      tileTurn (inFlight (tileFrom ⟨false, 0⟩) (accTo .fld 4 (laneTo (.ia tileIa)))) (accTo .fld 4 (laneTo (.ia tileIa))) (tileOf tileIa) = true ∧ tileOf tileIa = 2) ∧
    itsTurn (tileFrom ⟨true, 0⟩) (accTo .fst 8 (laneTo (.ia tileIa) 5)) (laneTo (.ia tileIa) 5) ∧
    (itsTurn mapped (accTo .fbirth 4 (laneTo (.ia tileIa))) (laneTo (.ia tileIa)) ∧ tileFenced (inFlight mapped (accTo .fbirth 4 (laneTo (.ia tileIa)))) 0 2 = false) ∧
    (itsTurn fencedTile (accTo .fbirth 4 (laneTo (.ia tileIa))) (laneTo (.ia tileIa)) ∧ tileFenced (inFlight fencedTile (accTo .fbirth 4 (laneTo (.ia tileIa)))) 0 2 = true) ∧
    itsTurn (tileFrom ⟨false, 0⟩) (accTo .frenew 4 (laneTo (.ia tileIa))) (laneTo (.ia tileIa)) ∧
    itsTurn (tileFrom ⟨false, 0⟩) (accTo .flife 4 (laneTo (.ia tileIa))) (laneTo (.ia tileIa)) ∧
    ((tileAt { tileFrom ⟨false, 0⟩ with tick := 1000 } 0 2).exp = false ∧ tileLive { tileFrom ⟨false, 0⟩ with tick := 1000 } 0 2 = false) ∧
    tileLive (tileFrom ⟨false, 0⟩) 0 2 = true := by
  unfold itsTurn
  exact ⟨by decide +kernel, by decide +kernel, by decide +kernel, by decide +kernel, by decide +kernel, by decide +kernel, by decide +kernel, by decide +kernel⟩

/-- An invalidation of block 4 from domain 0 to domain 1, and the directory entry that waits for it. -/
def inval (arrived evict : Bool) (keep : List Nat := []) (pend : List Nat := [1]) (q : List Nat := []) : State :=
  { (mapped.modDom 0 fun d => { d with dir := [⟨4, [1], pend, keep⟩] }).modDom 1 (fun d => { d with invq := q }) with
    invs := [{ id := 5, home := 0, dom := 1, block := 4, by_ := tk, grp := 0, evict := evict, arrived := arrived }], cur := { arg := { a := 5 } } }

theorem witness_ResponsesAndInvalidations :
    (let a := accTo (.load false) 4 (laneTo (.ia 64) 0 (.fixed 7))
     Tbl.find? (inFlight mapped a).accs 5 = some a ∧ a.kind.returns = true) ∧
    (let a := { accTo .store 4 (laneTo (.ia 64) 0 .written) with scope := 3 }
     Tbl.find? (inFlight mapped a).accs 5 = some a ∧ a.done = true ∧ a.counted = true ∧ invsDone (inFlight mapped a) a.tk a.grp = true ∧
     invsDone { inFlight mapped a with invs := [{ id := 9, home := 0, dom := 1, block := 4, by_ := tk, grp := 0 }] } a.tk a.grp = false ∧ a.ord ≠ 0) ∧
    (accTo .store 4 (laneTo (.ia 64))).done = false ∧ (∀ p thr, (mapped.team tk).st ≠ .counterWait p thr) ∧
    (∃ v : Inv, (inval false false).invs.find? (·.id == 5) = some v ∧ v.arrived = false ∧ ((inval false false).dom v.dom).invq.length < 256) ∧
    (∃ v : Inv, (inval false false [] [1] (List.replicate 256 9)).invs.find? (·.id == 5) = some v ∧ v.arrived = false ∧
      256 ≤ ((inval false false [] [1] (List.replicate 256 9)).dom v.dom).invq.length) ∧
    ((inval true false [] [1] [4, 9]).dom 1).invq = 4 :: [9] ∧
    (∃ v : Inv, (inval true true).invs.find? (·.id == 5) = some v ∧ v.arrived = true ∧ v.evict = true) ∧
    (∃ v : Inv, ∃ e, (inval true false [] [2, 1]).invs.find? (·.id == 5) = some v ∧ v.arrived = true ∧ v.evict = false ∧
      dirFind ((inval true false [] [2, 1]).dom 0) v.block = some e ∧ e.pend.erase v.dom ≠ []) ∧
    (∃ v : Inv, ∃ e, (inval true false [2]).invs.find? (·.id == 5) = some v ∧ v.arrived = true ∧ v.evict = false ∧
      dirFind ((inval true false [2]).dom 0) v.block = some e ∧ e.pend.erase v.dom = [] ∧ e.keep ≠ []) ∧
    (∃ v : Inv, ∃ e, (inval true false).invs.find? (·.id == 5) = some v ∧ v.arrived = true ∧ v.evict = false ∧
      dirFind ((inval true false).dom 0) v.block = some e ∧ e.pend.erase v.dom = [] ∧ e.keep = []) ∧
    (∃ v : Inv, ∃ e, (inval true false [] [2]).invs.find? (·.id == 5) = some v ∧ v.arrived = true ∧ v.evict = false ∧
      dirFind ((inval true false [] [2]).dom 0) v.block = some e ∧ v.dom ∉ e.pend) ∧
    (∃ v : Inv, ((inval true false).modDom 0 fun d => { d with dir := [] }).invs.find? (·.id == 5) = some v ∧
      dirFind (((inval true false).modDom 0 fun d => { d with dir := [] }).dom 0) v.block = none) := by
  refine ⟨by decide +kernel, by decide +kernel, by decide +kernel, fun p thr => ?_, ⟨_, rfl, by decide +kernel⟩, ⟨_, rfl, by decide +kernel⟩, by decide +kernel,
    ⟨_, rfl, by decide +kernel⟩, ⟨_, ⟨4, [1], [2, 1], []⟩, rfl, by decide +kernel⟩, ⟨_, ⟨4, [1], [1], [2]⟩, rfl, by decide +kernel⟩, ⟨_, ⟨4, [1], [1], []⟩, rfl, by decide +kernel⟩,
    ⟨_, ⟨4, [1], [2], []⟩, rfl, by decide +kernel⟩, _, rfl, by decide +kernel⟩
  have h : (mapped.team tk).st = .ready := by decide +kernel
  rw [h]; nofun

/-- The invalidation of a team's store, and one of a record of domain 2's fault queue. -/
theorem witness_Responses_records :
    (∃ v : Inv, (inval true false).invs.find? (·.id == 5) = some v ∧ v.by_ < 2 ^ 82 ∧ ∀ p ∈ v.also, p.1 < 2 ^ 82) ∧
    ∃ v : Inv, ({ inval true false with invs := [{ id := 5, home := 0, dom := 1, block := 4, by_ := 2 ^ 82 + 2, grp := 0, arrived := true }] } : State).invs.find?
      (·.id == 5) = some v ∧ v.by_ = 2 ^ 82 + 2 ∧ v.also = [] := ⟨⟨_, rfl, by decide +kernel⟩, _, rfl, rfl, rfl⟩

/-- A WAITA for a word that is 0. -/
def watching (want : Nat) : Acc := { accTo .waita 4 (laneTo (.ia 64) want) with ord := 1 }
def watchFree (s : State) : State := s.modDom 0 fun d => { d with watch := [⟨1, [2]⟩] }

theorem witness_WatchCompare :
    (itsTurn mapped (watching 0) (laneTo (.ia 64) 0) ∧ iaNode 64 = 0 ∧ localWith permRead (inFlight mapped (watching 0)) 64) ∧
    (itsTurn mapped (watching 7) (laneTo (.ia 64) 7) ∧ localWith permRead (inFlight mapped (watching 7)) 64) ∧
    (itsTurn (paged 0) (watching 7) (laneTo (.ia 64) 7) ∧ localWith (fun p => !permRead p) (inFlight (paged 0) (watching 7)) 64) ∧
    (∃ e, ((watchFree mapped).dom 0).watch.find? (·.block == 64 / 64) = some e ∧ e.waiters.length < 16) := by
  unfold itsTurn
  exact ⟨⟨by decide +kernel, by decide, local_of (by decide +kernel)⟩, ⟨by decide +kernel, local_of (by decide +kernel)⟩, ⟨by decide +kernel, local_of (by decide +kernel)⟩,
    ⟨1, [2]⟩, by decide +kernel⟩

/-! Faults, refusals, engines -/

/-- An access whose lane of VA 0x10000 waits under token 1,024, not yet reported. -/
def reported (k : AKind) (f : Core → Core) : State := inFlight (mapped.modCore 0 f) (accTo k 4 (laneTo (.ia 0x10000) 9 (.faulted 1024 false)))
/-- The fault filter full, with reports that wait. -/
def fullFilter (c : Core) : Core := { c with filt := (List.range 32).map fun i => ⟨50 + i, 7, 16, [tk]⟩ }
/-- An entry of the wait table of domain 0, at the turn of its record; a fault queue that is full, or not. -/
def recording (e : WaitE) (prod : Word) : State :=
  { mapped.modDom 0 fun d => { d with wait := [(3, e)], fqprod := prod } with tick := 1, cur := { arg := { a := 0, b := 3, c := 5 } } }

theorem witness_FaultReports :
    (∃ a l, laneOf (reported (.load false) id) 5 0 = some (a, l) ∧ l.st = .faulted 1024 false ∧ l.loc = .ia 0x10000 ∧ a.kind ≠ .store ∧ a.kind ≠ .wakea ∧
      ((reported (.load false) id).core a.core).filt = [] ∧ ((reported (.load false) id).team a.tk).st = .ready) ∧
    (∃ a l, laneOf (reported (.load false) fullFilter) 5 0 = some (a, l) ∧ l.st = .faulted 1024 false ∧ l.loc = .ia 0x10000 ∧
      (∀ f ∈ ((reported (.load false) fullFilter).core a.core).filt, ¬ (f.page = 0x10000 / 2 ^ 16 ∧ f.tok = 1024)) ∧
      32 ≤ ((reported (.load false) fullFilter).core a.core).filt.length ∧ (5, 0) ∉ ((reported (.load false) fullFilter).core a.core).filtQ) ∧
    (∃ a l, laneOf (reported .store id) 5 0 = some (a, l) ∧ l.st = .faulted 1024 false ∧ a.kind = .store ∧ ((reported .store id).core a.core).filt = [] ∧
      ((reported .store id).core a.core).glean.length + ((Tbl.vals (reported .store id).accs).map (·.lanes.length)).sum ≤ 256) ∧
    ((mapped.modCore 0 fun c => { c with filtQ := [(5, 0)] }).core 0).filtQ = (5, 0) :: [] ∧
    (((mapped.modCore 0 fun c => { fullFilter c with filtQ := [(5, 0)] }).core 0).filtQ = (5, 0) :: [] ∧
      32 ≤ ((mapped.modCore 0 fun c => { fullFilter c with filtQ := [(5, 0)] }).core 0).filt.length) ∧
    (∃ a l, laneOf (inFlight (mapped.modDom 0 fun d => { d with stageQ := [(5, 0)] }) (accTo .store 4 (laneTo (.ia 0x10000) 9 .stage))) 5 0 = some (a, l) ∧ l.st = .stage) ∧
    waitFree (fullTable.dom 0) = none ∧
    (∃ e, Tbl.find? ((recording { v := true, kind := 1 } 1023).dom 0).wait 3 = some e ∧ e.v = true ∧ e.st = 0 ∧ e.kind ≠ 0 ∧ e.tick ≠ (recording { v := true, kind := 1 } 1023).tick ∧
      ((recording { v := true, kind := 1 } 1023).dom 0).fqwait = [] ∧
      (((recording { v := true, kind := 1 } 1023).dom 0).fqprod - ((recording { v := true, kind := 1 } 1023).dom 0).fqcons).toNat ≠
        2 ^ ((recording { v := true, kind := 1 } 1023).dom 0).fqsize) ∧
    (((recording { v := true, kind := 1 } 1024).dom 0).fqprod - ((recording { v := true, kind := 1 } 1024).dom 0).fqcons).toNat =
      2 ^ ((recording { v := true, kind := 1 } 1024).dom 0).fqsize ∧
    (∃ e, Tbl.find? ((recording { v := true, kind := 1, tick := 1 } 0).dom 0).wait 3 = some e ∧ e.tick = (recording { v := true, kind := 1, tick := 1 } 0).tick) :=
  ⟨⟨_, _, rfl, by decide +kernel⟩, ⟨_, _, rfl, by decide +kernel⟩, ⟨_, _, rfl, by decide +kernel⟩, by decide +kernel, by decide +kernel, ⟨_, _, rfl, by decide +kernel⟩, fullTable_free,
    ⟨_, rfl, by decide +kernel⟩, by decide +kernel, ⟨_, rfl, by decide +kernel⟩⟩

/-- A record whose last word waits, with the acknowledgements come, or not; and none. -/
theorem witness_FaultReports_record :
    (((recording {} 0).dom 0).fqput = false ∧ ((recording {} 0).dom 0).fqwait = [] ∧ (∀ i ∈ (recording {} 0).invs, i.isOf (2 ^ 82 + 0) (fun _ => true) = false) ∧
      ∀ h, ((recording {} 0).dom h).dir = []) ∧
    (let s := (recording {} 0).modDom 0 fun d => { d with fqput := true }
     (s.dom 0).fqput = true ∧ (∀ i ∈ s.invs, i.isOf (2 ^ 82 + 0) (fun _ => true) = false) ∧
      ∃ i ∈ { s with invs := [{ id := 9, home := 0, dom := 1, block := 0, by_ := 2 ^ 82, grp := 0 }] }.invs, i.isOf (2 ^ 82 + 0) (fun _ => true) = true) :=
  ⟨⟨by decide +kernel, by decide +kernel, by decide +kernel, fun h => by
      cases h with
      | zero => decide +kernel
      | succ n => rfl⟩, by decide +kernel, by decide +kernel, _, .head _, by decide +kernel⟩

/-- Two logged stores of the team, the older to a block of IAs. -/
def logged (block : Nat) (ready : Bool) (sent : Option Sent := none) : GleanE :=
  { tk := tk, ready := ready, ord := 0, scope := 0, tok := 1024, block := block, be := 15, data := 9, wake := false, sent := sent, grp := 0, seq := 5 }
def gleaning (g : GleanE) (c : Nat) : State :=
  { mapped.modCore 0 (fun k => { k with glean := [g, { g with seq := 6 }] }) with tick := 200, cur := { arg := { a := tk, c := c } } }

/-- A store to node 1 in the log, which may have left. -/
def outgoing (t : Option Sent) : GleanE := logged (2 ^ 46) true t

/-- It before it left, after, and lost, at each turn of R326. -/
def outgoings : List (State × GleanE) :=
  (List.range 4).flatMap fun c => [none, some (wentAt 0), some (wentAt 150), some (wentAt 0 true)].map fun t => (gleaning (outgoing t) c, outgoing t)

/-- A store out to node 1 and a store to this wafer, each with the turns of R326; what performing one gives; a lane refused, one to another
node with its answer due, or overdue. -/
theorem witness_GleanAndRefusals :
    (∀ b, gleanOf (gleaning (logged 1 b) 0) tk = logged 1 b :: [{ logged 1 b with seq := 6 }]) ∧
    DrainMay (gleaning (logged 1 true) 0) tk 0 (logged 1 true) ∧
    ¬ DrainMay { gleaning { logged 1 true with grp := 1 } 0 with accs := [(4, { accTo .store 4 (laneTo (.ia 64)) with id := 4 })] } tk 0 { logged 1 true with grp := 1 } ∧
    (∀ p ∈ outgoings, (p.1.cur.arg.c < 4 ∧ DrainMay p.1 tk 0 p.2)) ∧ iaNode (64 * (outgoing none).block) ≠ 0 ∧
    expired (gleaning (outgoing (some (wentAt 0))) 2) (some (wentAt 0)) = true ∧ expired (gleaning (outgoing (some (wentAt 150))) 2) (some (wentAt 150)) = false ∧
    (iaNode (64 * (logged 1 true).block) = 0 ∧ (logged 1 true).ord ≠ 3 ∧ (gleaning (logged 1 true) 0).cur.arg.c = 0 ∧
      ∃ u v, drained (gleaning (logged 1 true) 0) (logged 1 true) 0 tk false = (u, .ok v)) ∧
    (∃ u, drained { gleaning (logged 1 true) 0 with dram := (paged 8).dram } (logged 1 true) 0 tk false = (u, .perm)) ∧
    (∃ u k, drained (gleaning (logged 1024 true) 0) (logged 1024 true) 0 tk false = (u, .fault k)) ∧
    (let a := accTo (.load false) 4 (laneTo (.ia 64) 0 (.refused 0x12))
     laneOf (inFlight mapped a) 5 0 = some (a, laneTo (.ia 64) 0 (.refused 0x12))) ∧
    (∀ k ∈ [AKind.load false, .wakea], ∀ t ∈ [none, some (wentAt 0), some (wentAt 0 true)], itsTurn { mapped with tick := 200 } (accTo k 4 (leaving t)) (leaving t) ∧
      expired { mapped with tick := 200 } t = t.isSome ∧ (leaving t).lost = t.any (·.lost)) ∧
    (∀ k l, l.loc = .ia (2 ^ 52) → Outside mapped (accTo k 4 l) l) ∧
    ¬ Outside mapped (accTo .store 4 (laneTo (.lm 16))) (laneTo (.lm 16)) ∧ (mapped.team tk).st ≠ .ended := by
  unfold itsTurn DrainMay
  refine ⟨by decide +kernel, by decide +kernel, by decide +kernel, by decide +kernel, by decide, by decide +kernel, by decide +kernel, ⟨by decide, by decide, by decide +kernel, ?_⟩, ?_, ?_,
    by decide +kernel, by decide +kernel, fun k l h => ⟨2 ^ 52, h, .inl (by decide)⟩, ?_, by decide +kernel⟩
  · have h : (match (drained (gleaning (logged 1 true) 0) (logged 1 true) 0 tk false).2 with | .ok _ => true | _ => false) = true := by decide +kernel
    generalize drained _ _ _ _ _ = r at h ⊢
    obtain ⟨u, x⟩ := r
    cases x <;> simp at h ⊢
  · have h : (match (drained { gleaning (logged 1 true) 0 with dram := (paged 8).dram } (logged 1 true) 0 tk false).2 with | .perm => true | _ => false) = true := by decide +kernel
    generalize drained _ _ _ _ _ = r at h ⊢
    obtain ⟨u, x⟩ := r
    cases x <;> simp at h ⊢
  · have h : (match (drained (gleaning (logged 1024 true) 0) (logged 1024 true) 0 tk false).2 with | .fault _ => true | _ => false) = true := by decide +kernel
    generalize drained _ _ _ _ _ = r at h ⊢
    obtain ⟨u, x⟩ := r
    cases x <;> simp at h ⊢
  · rintro ⟨ia, h, _⟩; exact nomatch h

/-- A trap of the team waits. -/
def trapWaits (st : TState) : State := { withTeam (fun t => { t with st := st, traps := [⟨0x12, 2 ^ 63, 7, false, none⟩], pc := 36, waitAt := 24 }) with cur := { arg := { a := tk } } }

theorem witness_ResponsePreciseTraps : ∃ tr : Trap, tr ∈ ((trapWaits .ready).team tk).traps ∧ tr.held = false ∧
    Tbl.find? (trapWaits .ready).accs tr.seq = none ∧ (∀ u ∈ ((trapWaits .ready).team tk).traps, u.held = false → u = tr ∨ tr.seq < u.seq) ∧ ((trapWaits .ready).plot (tk / 16)).st = .bound ∧
    ((trapWaits .ready).team tk).st = .ready ∧ ((trapWaits (.counterWait 4 0)).team tk).st = .counterWait 4 0 ∧
    (∀ st ∈ [TState.netWait 0, .engineStall, .barWait 16 0, .watchWait 5, .releasePark], ((trapWaits st).team tk).st = st) ∧
    (((trapWaits .ready).modPlot (tk / 16) fun p => { p with st := .preempting }).plot (tk / 16)).st ≠ .bound := ⟨⟨0x12, 2 ^ 63, 7, false, none⟩, by decide +kernel⟩

/-- An access of node 1: its kind, its IA. -/
def fromOutside (s : State) (c ia : Nat) (flag : Bool := false) : State := { s with cur := { arg := { node := 1, a := ia, b := 4, c := c, ext := 9, flag := flag } } }
/-- An access of node 1 that has arrived: its identifier, kind, IA, tick. -/
def arrival (id kind ia tick : Nat) : Inbound := { id := id, node := 1, tag := 5, kind := kind, ia := ia, size := 4, ord := 0, scope := 2, data := 9, cmp := 0, tick := tick }
/-- Three that wait: two for a moving page, one with its value for the acknowledgements of its invalidations. -/
def inboundWaits : State := { mapped with
  tick := 200, inbound := [arrival 5 0 64 99, arrival 6 0 64 150, { arrival 7 1 64 0 with val := some 0 }], cur := { arg := { a := 5, flag := true } } }

/-- The page is in this wafer's DRAM, and the walk is not answered from a copy. -/
def localAt (f : Nat → Bool) (s : State) (ia : Nat) : Prop := ∃ u vc key p, pageOf s (iaHome ia) ia true = (u, .local_ vc key p) ∧ f p = true
theorem localAt_of {f : Nat → Bool} {s : State} {ia : Nat}
    (h : (match (pageOf s (iaHome ia) ia true).2 with | .local_ _ _ p => f p | _ => false) = true) : localAt f s ia := by
  generalize e : pageOf s (iaHome ia) ia true = r at h
  obtain ⟨u, x⟩ := r
  cases x <;> simp at h
  exact ⟨u, _, _, _, e, h⟩
/-- The page is far. -/
def farAt (f : Nat → Bool) (s : State) (ia : Nat) : Prop := ∃ u p, pageOf s (iaHome ia) ia true = (u, .far p) ∧ f p = true
theorem farAt_of {f : Nat → Bool} {s : State} {ia : Nat} (h : (match (pageOf s (iaHome ia) ia true).2 with | .far p => f p | _ => false) = true) :
    farAt f s ia := by
  generalize e : pageOf s (iaHome ia) ia true = r at h
  obtain ⟨u, x⟩ := r
  cases x <;> simp at h
  exact ⟨u, _, e, h⟩

theorem faultAt_of {s : State} {ia k : Nat} (h : (match (pageOf s (iaHome ia) ia true).2 with | .fault j => j == k | _ => false) = true) :
    ∃ u, pageOf s (iaHome ia) ia true = (u, .fault k) := by
  generalize e : pageOf s (iaHome ia) ia true = r at h
  obtain ⟨u, x⟩ := r
  cases x <;> simp at h
  subst h
  exact ⟨u, rfl⟩

theorem witness_OtherNodes :
    ((fromOutside mapped 0 64).cur.arg.dest = 0 ∧ (fromOutside mapped 0 64).cur.arg.flag = false) ∧ ({ (fromOutside mapped 0 64).cur.arg with dest := 1 }.dest ≠ 0) ∧
    (∀ id v, (id, v) ∈ [(5, none), (7, some 0)] → ∃ r, { inboundWaits.cur.arg with a := id }.flag = true ∧ inboundWaits.inbound.find? (·.id == id) = some r ∧ r.val = v) ∧
    (∃ r, inboundWaits.inbound.find? (·.id == 5) = some r ∧ 100 ≤ (inboundWaits.tick + 2 ^ 40 - r.tick) % 2 ^ 40) ∧
    (∃ r, inboundWaits.inbound.find? (·.id == 6) = some r ∧ ¬ 100 ≤ (inboundWaits.tick + 2 ^ 40 - r.tick) % 2 ^ 40) ∧
    72 ≤ iaHome ((arrival 5 0 (72 * 2 ^ 45) 0).ia % 2 ^ 52) ∧ (iaHome fleetBase < 72 ∧ fleetBase ≤ iaOff fleetBase) ∧
    (iaHome 64 < 72 ∧ iaOff 64 < fleetBase ∧ localAt permRead mapped 64 ∧ localAt permWrite mapped 64 ∧ localAt permAtom mapped 64) ∧
    localAt (fun p => !permRead p && !permWrite p && !permAtom p) (paged 0) 64 ∧
    farAt (fun p => permRead p && permWrite p && permAtom p) (paged (15 + 2 ^ 13)) 64 ∧ farAt (fun p => !permRead p && !permWrite p && !permAtom p) (paged (2 ^ 13)) 64 ∧
    (∃ u, pageOf mapped (iaHome 0x10000) 0x10000 true = (u, .fault 1)) ∧ (∃ u, pageOf (paged (3 * 2 ^ 13)) (iaHome 64) 64 true = (u, .fault 0)) ∧
    (∀ i ∈ mapped.invs, i.isOf (2 ^ 80 + 5) (fun _ => true) = false) ∧
    (∃ i ∈ { mapped with invs := [{ id := 9, home := 0, dom := 1, block := 0, by_ := 2 ^ 80 + 5, grp := 0 }] }.invs, i.isOf (2 ^ 80 + 5) (fun _ => true) = true) ∧
    ((mapped.dom 0).repQ = [] ∧ waitFree (mapped.dom 0) = some 0 ∧ (mapped.dom 0).fqwait = [] ∧ (mapped.dom 0).fqprod - (mapped.dom 0).fqcons ≠ BitVec.ofNat 32 (2 ^ (mapped.dom 0).fqsize)) ∧
    ((mapped.modDom 0 fun d => { d with fqwait := [(none, [])] }).dom 0).fqwait ≠ [] ∧ waitFree (fullTable.dom 0) = none := by
  refine ⟨by decide +kernel, by decide, ?_, ⟨_, rfl, by decide +kernel⟩, ⟨_, rfl, by decide +kernel⟩, by decide, by decide,
    ⟨by decide, by decide, localAt_of (by decide +kernel), localAt_of (by decide +kernel), localAt_of (by decide +kernel)⟩, localAt_of (by decide +kernel),
    farAt_of (by decide +kernel), farAt_of (by decide +kernel), faultAt_of (by decide +kernel), faultAt_of (by decide +kernel), by decide +kernel,
    ⟨_, .head _, by decide +kernel⟩, by decide +kernel, by decide +kernel, fullTable_free⟩
  intro id v h
  simp only [List.mem_cons, Prod.mk.injEq, List.not_mem_nil, or_false] at h
  obtain ⟨rfl, rfl⟩ | ⟨rfl, rfl⟩ := h
  · exact ⟨_, rfl, rfl, rfl⟩
  · exact ⟨_, rfl, rfl, rfl⟩

/-- The core's matrix FIFO holds an entry. -/
def product1 : MEnt := { id := 3, tk := tk, kind := 0, d := 0, a := 0, b := 1, cw := 16, granted := true }
def fifo (e : MEnt) (us : List Nat := []) (f : Core → Core := id) : State :=
  { (engine []).modCore 0 (fun c => f { c with fifo := [e] }) with cur := { arg := { us := us } } }

theorem witness_MatrixEntryStarts :
    (((fifo product1).core 0).fifo = product1 :: [] ∧ product1.st = .queued ∧ product1.kind = 0 ∧ product1.weights = none ∧ product1.granted = true ∧ product1.code = 0) ∧
    (let e := { product1 with kind := 1, fetch := some 2, weights := some (List.replicate 4160 (0 : Byte)) }
     ((fifo e).core 0).fifo = e :: [] ∧ e.kind = 1 ∧ ∃ w, e.weights = some w ∧ w.length = 4160) ∧
    (let u := (fifo product1).modQuad 0 fun q => { q with resv := [⟨.matrix 0 3, 4, tk, 0, 1, 0, true, none⟩] }
     ∃ y ∈ (u.quad 0).resv, y.who = .matrix 0 product1.id ∧ y.granted = true ∧ y.till = none) ∧
    (∀ q ∈ base.races, q.tk = tk → q.elem ≠ 3) ∧
    (∀ v : State, v ∈ [unseen base 3 true, (unseen base 3 true).modTeam tk fun t => { t with win := [(3, 5)] }] → ∃ q ∈ v.races, q.tk = tk ∧
      (∀ p ∈ v.races, p.tk = tk → p.elem = q.elem → p = q) ∧ q.ordered = true) ∧
    Tbl.getD ((unseen base 3 true).team tk).win 3 0 = 0 ∧ Tbl.getD (((unseen base 3 true).modTeam tk fun t => { t with win := [(3, 5)] }).team tk).win 3 0 = 5 ∧
    (((fifo { product1 with kind := 2 }).core 0).fifo = { product1 with kind := 2 } :: []) ∧
    (((fifo { product1 with kind := 1, code := 8 }).core 0).fifo = { product1 with kind := 1, code := 8 } :: []) ∧
    (((fifo { product1 with granted := false }).core 0).fifo = { product1 with granted := false } :: []) ∧
    (((fifo { product1 with kind := 1 }).core 0).fifo = { product1 with kind := 1 } :: [] ∧ ({ product1 with kind := 1 } : MEnt).fetch = none ∧
      ((fifo { product1 with kind := 1 }).core 0).copyQ.length < 32) :=
  ⟨by decide +kernel, ⟨rfl, rfl, _, rfl, List.length_replicate ..⟩, ⟨_, .head _, by decide +kernel⟩, by decide +kernel, fun v h => by
      simp only [List.mem_cons, List.not_mem_nil, or_false] at h
      obtain rfl | rfl := h
      · exact ⟨_, .head _, by decide +kernel⟩
      · exact ⟨_, .head _, by decide +kernel⟩, by decide +kernel, by decide +kernel, by decide +kernel, by decide +kernel, by decide +kernel, by decide +kernel⟩

/-- A TMMAF behind a product. -/
theorem witness_MatrixEntryStarts_second :
    let e := { product1 with id := 4, kind := 1 }
    let s := (fifo product1).modCore 0 fun c => { c with fifo := [product1, e] }
    (s.core 0).fifo = product1 :: e :: [] ∧ product1.id ≠ e.id ∧ product1.kind ≠ 1 ∧ e.kind = 1 ∧ e.fetch = none ∧ e.code = 0 ∧ (s.core 0).copyQ.length < 32 ∧
      (∀ p ∈ (s.team tk).pend, 0 ≤ p.grp) := by decide +kernel

/-- The entry has started, with a result held. -/
def ending : MEnt := { product1 with st := .started 4, res := [(12288, 7)], flags := 16 }

theorem witness_MatrixEntryEnds :
    (((fifo ending).core 0).fifo = ending :: [] ∧ ending.st = .started 4 ∧ ending.kind ≠ 2 ∧ ending.code = 0 ∧ (∀ p ∈ (fifo ending).credits, p.inst ≠ ending.id) ∧
      ((fifo ending).cur.arg.us.filter fun b => decide (b < 4) && !((fifo ending).core 0).subF.contains b).eraseDups = [] ∧ ((fifo ending).team tk).st ≠ .ended) ∧
    (((fifo ending [3]).cur.arg.us.filter fun b => decide (b < 4) && !((fifo ending [3]).core 0).subF.contains b).eraseDups = [3] ∧ ((fifo ending [3]).core 0).subF = []) ∧
    ((fifo ending [3, 0, 3]).cur.arg.us.filter fun b => decide (b < 4) && !((fifo ending [3, 0, 3]).core 0).subF.contains b).eraseDups = [3, 0] ∧
    (((fifo ending [3, 2] fun c => { c with subF := [2] }).cur.arg.us.filter fun b => decide (b < 4) &&
      !((fifo ending [3, 2] fun c => { c with subF := [2] }).core 0).subF.contains b).eraseDups = [3] ∧ ((fifo ending [3, 2] fun c => { c with subF := [2] }).core 0).subF ≠ []) ∧
    (((fifo { ending with code := 0x12 }).core 0).fifo = { ending with code := 0x12 } :: []) ∧
    (((fifo { ending with kind := 2, d := 0x80 }).core 0).fifo = { ending with kind := 2, d := 0x80 } :: []) ∧
    (let u := engineWrite (fifo ending) tk 16 7 4 0 true [] 8 [5]
     (∀ r ∈ (fifo ending).races, r.tk = tk → r.elem ≠ 8 / 4) ∧ Tbl.getD (u.team tk).win 2 0 ≠ Tbl.getD ((fifo ending).team tk).win 2 0) ∧
    (∀ r ∈ base.races, r.tk ≠ tk) ∧
    (∃ q ∈ (unseen base 3 true).races, q.tk = tk ∧ (∀ p ∈ (unseen base 3 true).races, p.tk = tk → p.elem = q.elem → p = q) ∧
      (unseen base 3 true).races.count q = 1 ∧ Tbl.getD ((unseen base 3 true).team tk).win q.elem 0 = q.shown) := by
  refine ⟨by decide +kernel, by decide +kernel, by decide +kernel, by decide +kernel, by decide +kernel, by decide +kernel, by decide +kernel, by decide +kernel,
    _, .head _, rfl, by decide +kernel, by decide +kernel, by decide +kernel⟩

/-- Two elements written by an operation: each keeps its old value beside the new one until a wait observes the completion (R81). -/
theorem test_engine_write_is_unobserved :
    (engineWrite base tk 0x40000001 7 4 0 true [] 8 [1, 0, 0, 0, 2]).races.map (fun r => (r.elem, r.final, r.steps.map fun p => (p.others, p.landed))) =
      [(2, 1, [([0], false)]), (3, 2, [([0], false)])] := by decide +kernel
/-- After the credit, the wait leaves the final value. -/
theorem test_observed_is_final :
    let u := observeTarget (credited (unseen base 3 false) 7) tk 0x40000001
    (Tbl.getD (u.team tk).win 3 0, u.races) = (9, []) := by decide +kernel

/-- A command of the core's copy engine. -/
def command : Cmd := { id := 7, inst := 7, tk := tk, core := 0, grp := 0, kind := .copy, cw := 0x40000000, bytes := 64, path := 4, work := [] }
def commands (ms : List Cmd) (iredQ : List Nat := []) : State :=
  { mapped.modCore 0 (fun c => { c with copyQ := ms.map (·.id), iredQ := iredQ }) with cmds := ms.map fun m => (m.id, m), cur := { arg := { a := 0, b := 7 } } }

/-- A command with 64 bytes read, at the turn of a piece of its work. -/
def worker (w : Work) (k : CKind := .copy) (strong : Bool := false) : Cmd :=
  { command with work := [w], started := true, kind := k, left := 64, buf := List.replicate 64 1, acc := some (List.replicate 64 0), strong := strong, scope := if strong then 3 else 0 }
def working (s : State) (m : Cmd) : State :=
  { s.modCore 0 (fun c => { c with copyQ := [7], iredQ := [7] }) with cmds := [(7, m)], cur := { arg := { a := 7 } } }
/-- The piece may be made now. -/
def workTurn (s : State) (m : Cmd) : Prop :=
  laneOf (working s m) 7 0 = none ∧ Tbl.find? (working s m).cmds 7 = some m ∧ m.id = 7 ∧ m.started = true ∧ m.tok = 0 ∧ (m.chunked = true → m.left ≠ 0) ∧
  m.lost = false ∧ unsentCmd (working s m) 7 = false ∧ m.inst ∈ ((working s m).core m.core).iredQ
/-- A core-mate's store to IA 64 and to scratchpad byte 64 is queued beyond .core. -/
def queuedBy (l : Loc) : State := { mapped with
  accs := [(5, { accTo .store 4 { laneTo l 9 with st := .pending } with queued := true })] }

theorem witness_CommandWork :
    (∀ p ∈ [(.zero 32, .copy), (.drop 4, .copy), (.comb, .ired true), (.rd (.lm 16) 32, .copyg), (.rd (.win tk 8192) 32, .tst), (.wr (.lm 16) 4 3, .copyb), (.wr (.win tk 8192) 32 255, .tld),
        (.wr (.buf 8) 4 255, .wfetch), (.put (.lm 16) 4, .copyb)], workTurn mapped (worker p.1 p.2)) ∧
    (∀ p ∈ [(.rd (.mem tileIa) 32, .copy), (.wr (.mem tileIa) 4 255, .copy)], ∀ s ∈ [tileFrom ⟨false, 0⟩, tileFrom ⟨true, 0⟩, { fencedTile with tick := 5 }],
      workTurn s (worker p.1 p.2) ∧ inFleet (working s (worker p.1 p.2)) tileIa = true) ∧
    (tileLive (tileFrom ⟨false, 0⟩) 0 (tileOf tileIa) = true ∧ tileLive (tileFrom ⟨true, 0⟩) 0 (tileOf tileIa) = false ∧ tileFenced fencedTile 0 (tileOf tileIa) = true ∧
      tileFenced mapped 0 (tileOf tileIa) = false) ∧
    (∀ p ∈ [(.rd (.mem 64) 32, .copy), (.rd (.mem 64) 32, .tld), (.rd (.mem 64) 32, .ired false), (.raw 64 32, .ired true), (.wr (.mem 64) 32 255, .copy), (.wr (.mem 64) 32 255, .tst)],
      workTurn mapped (worker p.1 p.2) ∧ sectorWaits (working mapped (worker p.1 p.2)) (worker p.1 p.2) (.ia 64) 32 = false ∧
      localWith (fun q => permRead q && permWrite q) (working mapped (worker p.1 p.2)) 64 ∧ localWith (fun q => !permRead q && !permWrite q) (working (paged 0) (worker p.1 p.2)) 64) ∧
    (inFleet mapped 64 = false ∧ iaNode 64 = 0 ∧ domOf (worker (.zero 1)).core = iaHome 64) ∧
    (workTurn cachedL1 (worker (.rd (.mem 64) 32) .tld) ∧ (l1Read (working cachedL1 (worker (.rd (.mem 64) 32) .tld)) 0 64 32).isSome = true ∧
      (l1Read (working mapped (worker (.rd (.mem 64) 32) .tld)) 0 64 32).isNone = true) ∧
    (let m := { worker (.rd (.mem 64) 32) with core := 48 }
     domOf m.core ≠ iaHome 64 ∧ (match (memLoad (working mapped m) 1 false 64 32 false m.tk m.grp 0).2 with | .ok _ => true | _ => false) = true) ∧
    (∀ w, w = .rd (.mem (2 ^ 52)) 32 ∨ w = .raw (2 ^ 52) 32 → workTurn mapped (worker w (.ired (w == .raw (2 ^ 52) 32))) ∧ iaNode (2 ^ 52) ≠ 0) ∧
    (∃ u, pageOf (working (paged (15 + 2 ^ 13)) (worker (.raw 64 32) (.ired true))) 0 64 false = (u, .far 15)) ∧
    (sectorWaits (working (queuedBy (.ia 64)) (worker (.wr (.mem 64) 4 255))) (worker (.wr (.mem 64) 4 255)) (.ia 64) 4 = true ∧
      sectorWaits (working (queuedBy (.lm 64)) (worker (.wr (.lm 64) 4 255))) (worker (.wr (.lm 64) 4 255)) (.lm 64) 4 = true) ∧
    (4 ≤ (worker (.drop 1)).buf.length ∧ (Tbl.getD (mapped.dom 0).vcs 63 {}).st = 0) := by
  unfold workTurn
  refine ⟨by decide +kernel, by decide +kernel, by decide +kernel, fun p h => ?_, by decide +kernel, by decide +kernel, by decide +kernel, fun w h => ?_, ?_, by decide +kernel, by decide +kernel⟩
  · simp only [List.mem_cons, List.not_mem_nil, or_false] at h
    obtain rfl | rfl | rfl | rfl | rfl | rfl := h
    all_goals exact ⟨by decide +kernel, by decide +kernel, local_of (by decide +kernel), local_of (by decide +kernel)⟩
  · obtain rfl | rfl := h
    · exact ⟨by decide +kernel, by decide⟩
    · exact ⟨by decide +kernel, by decide⟩
  · have h : (match (pageOf (working (paged (15 + 2 ^ 13)) (worker (.raw 64 32) (.ired true))) 0 64 false).2 with | .far j => j == 15 | _ => false) = true := by decide +kernel
    generalize pageOf _ _ _ _ = r at h ⊢
    obtain ⟨u, x⟩ := r
    cases x <;> simp at h
    subst h
    exact ⟨u, rfl⟩

/-- A COPY writes the oldest bytes that it has read, the last of them masked. -/
theorem test_piece_is_written :
    (match exec .memoryRequestAtHome (working mapped (worker (.wr (.lm 16) 2 0))) with
      | .next t => (Mem.read t.spm 15 4, (Tbl.getD t.cmds 7 (worker .comb)).buf.length)
      | _ => (0, 0)) = (0x100, 62) := by decide +kernel

theorem witness_CommandsRun :
    (((queueCmds (commands [command]) ((commands [command]).core 0).copyQ).filter (·.started)).length < 4 ∧
      (queueCmds (commands [command]) ((commands [command]).core 0).copyQ).find? (fun m => !m.started) = some command) ∧
    4 ≤ ((queueCmds (commands ((List.range 5).map fun i => { command with id := i, started := decide (i < 4) }))
      ((commands ((List.range 5).map fun i => { command with id := i, started := decide (i < 4) })).core 0).copyQ).filter (·.started)).length ∧
    (Tbl.find? (commands [{ command with started := true }]).cmds 7 = some { command with started := true } ∧ command.work = [] ∧ command.tok = 0 ∧ command.rel = false ∧
      command.core = 0 ∧ ((commands [{ command with started := true }]).core 0).stallC = []) ∧
    (Tbl.find? { commands [] with cmds := [(0, { command with id := 0, kind := .tst, started := true, path := 1 })] }.cmds 0 =
      some { command with id := 0, kind := .tst, started := true, path := 1 } ∧ command.scope < 3) ∧
    (Tbl.find? (commands [{ command with kind := .ired true, acc := some (List.replicate 64 0) }] [7]).cmds 7 = some { command with kind := .ired true, acc := some (List.replicate 64 0) } ∧
      7 ∈ ((commands [{ command with kind := .ired true, acc := some (List.replicate 64 0) }] [7]).core 0).iredQ) ∧
    (∃ p : Credit, { mapped with credits := [{ at_ := 16, bytes := 64, code := 0, tk := tk, path := 4, inst := 7 }] }.credits[0]? = some p ∧ p.mx = none) ∧ cwBar 16 = true := by
  refine ⟨by decide +kernel, by decide +kernel, by decide +kernel, by decide +kernel, by decide +kernel, ⟨_, rfl, rfl⟩, by decide +kernel⟩

/-- A COPYB to cores 0 and 3 with a release at .quad; a post that waits for its place. -/
theorem witness_CommandsRun_posts :
    (let m := { command with kind := .copyb, mask := 9, rel := true, scope := 1, started := true }
     Tbl.find? (commands [m]).cmds 7 = some m ∧ m.work = [] ∧ m.tok = 0 ∧ m.scope < 3 ∧ m.mask < 16) ∧
    (let s := (commands [command]).modCore 0 fun c => { c with copyQ := [], stallC := [7] }
     (s.core 0).copyQ.length < 32 ∧ (s.core 0).stallC = 7 :: [] ∧ Tbl.find? s.cmds 7 = some command ∧ mayPost s tk = true) ∧
    (commands [command] [7]).cmds.length = 1 := by decide +kernel

/-- The product asks for its units: the capacity, and the reservations of the quad. -/
def asks (cap : Nat) (rs : List Resv) : State :=
  { (fifo { product1 with granted := false }).modQuad 0 (fun q => { q with cap := cap, resv := rs }) with cur := { arg := { a := 0, who := .matrix 0 3 } } }
/-- A unit in use by an entry of core 1 till cycle 50 of its clock, and the request of a vector group that waits. -/
def inUse : Resv := ⟨.matrix 1 8, 1, 1, 1, 1, 0, true, some 50⟩
def waitsFor (units : Nat) : Resv := ⟨.vector tk, units, tk, 0, 1, 0, false, none⟩
/-- A copy command that is to read a sector. -/
def chunking : Cmd := { command with started := true, work := [.zero 32] }

theorem witness_Reservations :
    (let s := asks 8 [inUse]
     let q := (pruneResv s 0).quad 0
     resvAsk s (.matrix 0 3) = some (tk, 0, 4) ∧ (∀ y ∈ q.resv, y.who = .matrix 0 3 → y.till ≠ none) ∧ q.resv.all (·.granted) = true ∧
       resvUsed (pruneResv s 0) q + 4 ≤ q.cap ∧ ∀ y ∈ q.resv, y.seq ≠ s.fresh) ∧
    (let q := (pruneResv (asks 4 [inUse]) 0).quad 0
     q.cap < resvUsed (pruneResv (asks 4 [inUse]) 0) q + 4) ∧
    ((pruneResv (asks 8 [waitsFor 1]) 0).quad 0).resv.all (·.granted) = false ∧ resvAsk base (.matrix 0 3) = none ∧
    (let e := { product1 with granted := false }
     ((asks 8 []).core 0).fifo = e :: [] ∧ e.st.waits = true ∧ e.granted = false ∧ e.kind ≠ 2) ∧ (∃ t, Tbl.find? base.teams tk = some t) ∧
    (Tbl.find? (commands [chunking]).cmds 7 = some chunking ∧ chunking.chunked = true ∧ chunking.started = true ∧ chunking.left = 0 ∧ chunking.work ≠ []) ∧
    (∃ y, resvNext (pruneResv (asks 8 [waitsFor 1]) 0) ((pruneResv (asks 8 [waitsFor 1]) 0).quad 0) = some y ∧
      resvUsed (pruneResv (asks 8 [waitsFor 1]) 0) ((pruneResv (asks 8 [waitsFor 1]) 0).quad 0) + y.units ≤ ((pruneResv (asks 8 [waitsFor 1]) 0).quad 0).cap) ∧
    (∃ y, resvNext (pruneResv (asks 8 [waitsFor 9]) 0) ((pruneResv (asks 8 [waitsFor 9]) 0).quad 0) = some y ∧
      ((pruneResv (asks 8 [waitsFor 9]) 0).quad 0).cap < resvUsed (pruneResv (asks 8 [waitsFor 9]) 0) ((pruneResv (asks 8 [waitsFor 9]) 0).quad 0) + y.units) ∧
    (inUse.granted = true ∧ inUse.till = some 50 ∧ (∀ c k, inUse.who ≠ .copy c k) ∧ (waitsFor 1).granted = false) := by
  exact ⟨by decide +kernel, by decide +kernel, by decide +kernel, by decide +kernel, by decide +kernel, ⟨_, rfl⟩, by decide +kernel,
    ⟨waitsFor 1, by decide +kernel⟩, ⟨waitsFor 9, by decide +kernel⟩, rfl, rfl, nofun, rfl⟩

/-! Sowings, plots, tables, the controllers -/

/-- Domain 0 is live and leads, and sowing 1, of class 2, waits to be bound: two plots of one team of 64 lanes, 1,024 bytes of scratchpad. -/
def launched (w4 : Word := 0x2000) : State := { mapped with
  lead := some 0, nextSid := 2, teams := [], plots := [], queues := [(2, [1])]
  doms := Tbl.set mapped.doms 0 { mapped.dom 0 with live := true, booted := true }
  sows := [(1, { words := [0x1004, 0, 63, 2, w4, 0, 0, 0], hdr := [0x40200000, 0x400], ranges := (mapped.sow 1).ranges, cls := 2, eligible := true })] }

/-- At most 64 co-resident sowings fit, whichever networks they use. -/
theorem nets_of {s : State} (h : (coHolders s).length ≤ 64) : netsSuffice s = true := by
  simp only [netsSuffice, Bool.and_eq_true, decide_eq_true_eq, List.all_eq_true]
  exact ⟨Nat.le_trans (List.length_filter_le ..) h, fun _ _ => Nat.le_trans (List.length_filter_le ..) h⟩

/-- The same sowing, co-resident. -/
def together : State := launched 0x2002

theorem witness_PlotBinds :
    launched.lead ≠ none ∧ (∀ k < 2, Tbl.getD launched.queues k [] = []) ∧ Tbl.getD launched.queues 2 [] = [1] ∧
    (launched.sow 1).waitsWhole = false ∧ (∃ t, (roundRobin (noteFails (noteHeads launched) 2) 2 2 false).findSome? (bindSowing (noteFails (noteHeads launched) 2)) = some t) ∧
    (∃ x, firstFit launched 1 = some x) ∧
    ((∀ k < 2, Tbl.getD together.queues k [] = []) ∧ Tbl.getD together.queues 2 [] = [1] ∧ (together.sow 1).waitsWhole = true ∧ (together.sow 1).eligible = true ∧
      ∃ t q, bindWhole (noteHeads together) 1 = (some t, q)) ∧ mapped.lead = none := by
  refine ⟨nofun, by decide +kernel, by decide +kernel, by decide +kernel, Option.isSome_iff_exists.mp (by decide +kernel), Option.isSome_iff_exists.mp (by decide +kernel),
    ⟨by decide +kernel, by decide +kernel, by decide +kernel, by decide +kernel, ?_⟩, by decide +kernel⟩
  have h : ((plotsOf (noteHeads together) 1).any fun p => p.2.st == .stopping) = false := by decide +kernel
  have g : (bindList 1 ((noteHeads together).sow 1).unbound (noteHeads together)).2 = none ∧
      (coHolders (bindList 1 ((noteHeads together).sow 1).unbound (noteHeads together)).1).length ≤ 64 := by decide +kernel
  unfold bindWhole
  rw [h]
  have l : (launchOf ((noteHeads together).sow 1).words).loam = false := by decide +kernel
  rw [l]
  generalize bindList 1 ((noteHeads together).sow 1).unbound (noteHeads together) = r at g
  obtain ⟨t, q⟩ := r
  obtain ⟨rfl, g⟩ := g
  exact ⟨_, none, by simp [nets_of g]; rfl⟩

/-- The turn of an event on number n. -/
def turnOf (s : State) (n : Nat) (k : Nat := 0) : State := { s with cur := { arg := { a := n, b := k } } }
/-- Plot 0 has found no quad since tick 0, and the sowing is at the head of its class since then. -/
def failing (t : Nat) : State := turnOf ({ launched with tick := t }.modSow 1 fun w => { w with failAt := [(0, 0)], headAt := some 0 }) 1
/-- A wait counter at IA 64 with a threshold, and, for `done`, every plot retired. -/
def counted1 (done : Bool) : State := turnOf { launched with sows := [(1, { launched.sow 1 with
  words := [0x1004, 0, 63, 2, 0x2000, 64, 0, 1], retired := if done then 2 else 0, next := if done then 2 else 0 })] } 1

theorem witness_SowingClocksAndCompletion :
    hintDom ((failing 50).sow 1).home (launchOf ((failing 50).sow 1).words).hstep 0 = 0 ∧
    (∃ t, Tbl.find? ((failing 50).sow 1).failAt 0 = some t ∧ t + 50 ≤ (failing 50).tick ∧ 0 ∉ ((failing 50).sow 1).fallback) ∧
    (∃ t, Tbl.find? ((failing 49).sow 1).failAt 0 = some t ∧ (failing 49).tick < t + 50) ∧ ((failing 50).sow 1).headAt = some 0 ∧
    (∃ t, Tbl.find? mapped.teams tk = some t ∧ t.st = .ready) ∧
    (Tbl.find? (counted1 false).sows 1 = some ((counted1 false).sow 1) ∧ ((counted1 false).sow 1).ended = false ∧ (launchOf ((counted1 false).sow 1).words).wcthr ≠ 0 ∧
      1 ∈ Tbl.getD (counted1 false).queues 2 [] ∧ iaNode (wcIa (counted1 false) ((counted1 false).sow 1)) = 0 ∧
      localAt permRead (emptyInvq (counted1 false) 0) (wcIa (counted1 false) ((counted1 false).sow 1))) ∧
    sowDone (counted1 false) 1 = false ∧ (sowDone (counted1 true) 1 = true ∧ ((counted1 true).sow 1).ended = false ∧
      localAt permAtom (counted1 true) (wcIa (counted1 true) ((counted1 true).sow 1))) ∧
    (launchOf (launched.sow 1).words).wcaddr = 0 ∧ ((counted1 true).sow 1).noInc = false ∧ sowDone (launched.modSow 1 fun w => { w with ended := true }) 1 = true :=
  ⟨by decide +kernel, ⟨0, by decide +kernel⟩, ⟨0, by decide +kernel⟩, by decide +kernel, ⟨_, rfl, by decide +kernel⟩,
    ⟨by decide +kernel, by decide +kernel, by decide +kernel, by decide +kernel, by decide +kernel, localAt_of (by decide +kernel)⟩, by decide +kernel,
    ⟨by decide +kernel, by decide +kernel, localAt_of (by decide +kernel)⟩, by decide +kernel, by decide +kernel, by decide +kernel⟩

/-- Its counter is another node's, or on a page that faults, moves, may not be read, or is far. -/
def countedAt (va perm : Nat) : State := { turnOf { launched with sows := [(1, { launched.sow 1 with
  words := [0x1004, 0, 63, 2, 0x2000, BitVec.ofNat 32 va, 0, 1] })] } 1 with dram := (paged perm).dram }

theorem witness_SowingClocks_outside :
    (∀ p ∈ [(0x400000, 15), (0x10000, 15), (64, 3 * 2 ^ 13), (64, 0), (64, 15 + 2 ^ 13)],
      let s := countedAt p.1 p.2
      let w := s.sow 1
      Tbl.find? s.sows 1 = some w ∧ w.ended = false ∧ (launchOf w.words).wcthr ≠ 0 ∧ 1 ∈ Tbl.getD s.queues 2 [] ∧ w.started = false ∧ w.next = 0 ∧ w.bound = [] ∧ w.redo = []) ∧
    (let s := countedAt 0x400000 15
     iaNode (wcIa s (s.sow 1)) ≠ 0) ∧
    (let s := countedAt 0x10000 15
     ∃ u, pageOf (emptyInvq s 0) (iaHome (wcIa s (s.sow 1))) (wcIa s (s.sow 1)) true = (u, .fault 1)) ∧
    (let s := countedAt 64 (3 * 2 ^ 13)
     ∃ u, pageOf (emptyInvq s 0) (iaHome (wcIa s (s.sow 1))) (wcIa s (s.sow 1)) true = (u, .fault 0)) ∧
    (let s := countedAt 64 0
     localAt (fun p => !permRead p) (emptyInvq s 0) (wcIa s (s.sow 1))) ∧
    (let s := countedAt 64 (15 + 2 ^ 13)
     farAt permRead (emptyInvq s 0) (wcIa s (s.sow 1))) ∧
    (let s := turnOf (launched.modSow 1 fun w => { w with ended := true }) 1
     Tbl.find? s.sows 1 = some (s.sow 1) ∧ sowDone s 1 = true ∧ (s.sow 1).ended = true ∧ (launchOf (s.sow 1).words).wcaddr = 0) :=
  ⟨by decide +kernel, by decide +kernel, faultAt_of (by decide +kernel), faultAt_of (by decide +kernel), localAt_of (by decide +kernel), farAt_of (by decide +kernel), by decide +kernel⟩

/-- The one plot in a state of its life, in a live domain. -/
def life (st : PStat) (f : Plot → Plot := id) : State := turnOf { mapped with
  doms := Tbl.set mapped.doms 0 { mapped.dom 0 with live := true, booted := true }
  plots := [(2 ^ 32, f { mapped.plot (2 ^ 32) with st := st, posn := [0], wsize := 65536, cls := 2 })] } (2 ^ 32)
def ended (s : State) : State := s.modTeam tk fun t => { t with st := .ended }

/-- The plot saved, with its block at IA 0. -/
def areaAt0 : State := (life .saved fun p => { p with area := some 0 }).modTeam tk fun t => { t with wsize := 256 }

/-- R330: words of a team's record: u159, PC, FMT, TSTAT, VWV, the state code of a counter wait beside q0 to q6, and w0. -/
theorem test_team_record :
    let t : Team := { wsize := 256, pc := 0x1234, mask := 5, sreg := [(159, 7)], qpred := 0x55, fmt := 3, tstat := 0x81, vwv := 16, st := .counterWait 0 3 }
    let l := teamImage ({ base with teams := [(tk, t)] }) tk
    (l.length, [159, 162, 164, 165, 172, 181, 182, 209].map fun k => l.getD k 0) = (3136, [7, 0x1234, 3, 0x81, 16, 0x10055, 3, 5]) := by decide +kernel

theorem witness_PlotLife :
    (((life .preempting).plot (2 ^ 32)).st = .preempting ∧ (plotTeams ((life .preempting).plot (2 ^ 32))).all (saveReady (life .preempting)) = true ∧
      (∀ o ∈ plotTeams ((life .preempting).plot (2 ^ 32)), ((life .preempting).team o).after = none) ∧ Mem.wf (life .preempting).spm = true) ∧
    ((plotTeams ((life .preempting).plot (2 ^ 32))).all (saveReady { life .preempting with accs := [(5, accTo .store 4 (laneTo (.ia 64)))] }) = false) ∧
    (∃ sp, Tbl.find? (life .saved).plots (2 ^ 32) = some ((life .saved).plot (2 ^ 32)) ∧ ((life .saved).plot (2 ^ 32)).cores = false ∧
      mayResume (life .saved) ((life .saved).plot (2 ^ 32)) = true ∧ resumeSpot (life .saved) ((life .saved).plot (2 ^ 32)) = some sp ∧
      (∀ o ∈ (life .saved).plots, o.1 = 2 ^ 32) ∧ (∀ c < ((life .saved).plot (2 ^ 32)).cls, fitsIn (life .saved) c 0 = false) ∧ 0 < ((life .saved).plot (2 ^ 32)).cls ∧
      ((life .saved).team tk).st = .ready ∧ (life .saved).cmds = [] ∧ ∀ p ∈ (life .saved).cores, p.2.stallM = []) ∧
    ((life .saved).plot (2 ^ 32)).area = none ∧
    ((areaAt0.plot (2 ^ 32)).area = some 0 ∧ blockReach areaAt0 0 (blockSize areaAt0 (areaAt0.plot (2 ^ 32))) = true ∧
      (areaAt0.plot (2 ^ 32)).sow = 1 ∧ (areaAt0.plot (2 ^ 32)).no = 0) ∧
    ((life .halted).plot (2 ^ 32)).st = .halted ∧ (retireReady (ended (life .bound)) ((ended (life .bound)).plot (2 ^ 32)) = true) ∧
    (retireReady (life .stopping fun p => { p with restart := true }) ((life .stopping fun p => { p with restart := true }).plot (2 ^ 32)) = true ∧
      ((life .stopping fun p => { p with restart := true }).sow 1).ended = false) ∧
    retireReady (life .bound) ((life .bound).plot (2 ^ 32)) = false := by
  refine ⟨by decide +kernel, by decide +kernel, ?_, by decide +kernel, by decide +kernel, by decide +kernel, by decide +kernel, by decide +kernel, by decide +kernel⟩
  obtain ⟨sp, h⟩ := Option.isSome_iff_exists.mp (show (resumeSpot (life .saved) ((life .saved).plot (2 ^ 32))).isSome = true by decide +kernel)
  exact ⟨sp, by decide +kernel, by decide +kernel, by decide +kernel, h, by decide +kernel⟩

/-- A saved plot of a co-resident sowing, alone of it; and one that is being pre-empted. -/
def coSaved (st : PStat) : State := life st fun p => { p with cores := true }

theorem witness_PlotLife_together :
    (let s := coSaved .saved
     let p := s.plot (2 ^ 32)
     Tbl.find? s.plots (2 ^ 32) = some p ∧ p.cores = true ∧ (∀ m ∈ plotsOf s p.sow, mayResume s m.2 = true) ∧
       (∀ o ∈ s.plots, o.1 = 2 ^ 32) ∧ ∀ c < p.cls, fitsIn s c p.homeDom = false) ∧
    (let s := coSaved .preempting
     let p := s.plot (2 ^ 32)
     Tbl.find? s.plots (2 ^ 32) = some p ∧ p.cores = true ∧ ∃ m ∈ plotsOf s p.sow, mayResume s m.2 = false) := by
  refine ⟨by decide +kernel, by decide +kernel, by decide +kernel, (2 ^ 32, (coSaved .preempting).plot (2 ^ 32)), by decide +kernel⟩

/-- A request of the team under identifier 5. -/
def asking (s : State) (k : RKind) (acted : Bool := false) : State :=
  turnOf { s with reqs := [(5, { id := 5, tk := tk, dom := 0, grp := 1, dreg := 3, kind := k, acted := acted })] } 5
/-- A store in flight before it. -/
def storing (s : State) : State := { s with accs := [(4, { accTo .store 4 (laneTo (.ia 64)) with id := 4 })] }

theorem witness_LaunchesAreJudged :
    (∃ r ws, Tbl.find? (asking launched (.sow [0x1004, 0, 63, 1, 0x2000, 0, 0, 0, 1] none)).reqs 5 = some r ∧ r.kind = .sow ws none ∧ launched.lead ≠ none) ∧
    (∃ r ws sc, Tbl.find? (storing (asking mapped (.sow [] (some 2)))).reqs 5 = some r ∧ r.kind = .sow ws (some sc) ∧
      releaseReady (storing (asking mapped (.sow [] (some 2)))) r.tk r.grp sc = false) ∧
    (∃ r ws sc, Tbl.find? (asking launched (.sow [] (some 2))).reqs 5 = some r ∧ r.kind = .sow ws (some sc) ∧ releaseReady (asking launched (.sow [] (some 2))) r.tk r.grp sc = true ∧
      ((asking launched (.sow [] (some 2))).team r.tk).rerr = false ∧ gleanOf (asking launched (.sow [] (some 2))) r.tk = [] ∧
      trapsClear (asking launched (.sow [] (some 2))) r.tk r.id = true) ∧ launched.cur.arg.dest = 0 ∧ mapped.lead = none ∧
    trapsClear (asking (trapWaits .ready) (.sow [] (some 2))) tk 9 = false ∧
    (launchOf [0, 0, 63, 1, 0, 0, 0, 0]).cls = 0 :=
  ⟨⟨_, _, rfl, rfl, nofun⟩, ⟨_, _, _, rfl, rfl, by decide +kernel⟩, ⟨_, _, _, rfl, rfl, by decide +kernel⟩, by decide +kernel, by decide +kernel, by decide +kernel, by decide⟩

/-- The words of a kernel header before VA 0x1000, and of a range image at VA 0x20 with the range of the page of VA 0, as node 1 gives them. -/
def loadedKernel : State := { launched with
  cur := { arg := { code := [(0xFC0, 0x40200000), (0xFC4, 0x400), (0xFE8, 0x20), (0x24, 2 ^ 31), (0x38, 1)] } } }
def images : Images := fun _ _ _ => some (2 ^ 52)

/-- A launch that is queued, of a plain and of a co-resident sowing; and what is refused. -/
theorem witness_Launches_queued :
    (launch loadedKernel [0x1004, 0, 63, 2, 0x2000, 0, 0, 0] true 0 none 0 0 images).1 = 0 ∧
    (launch loadedKernel [0x1004, 0, 63, 2, 0x2002, 0, 0, 0] true 0 none 0 0 images).1 = 0 ∧
    (kernelOf loadedKernel 0x1004 images).isSome = true ∧ (launchOf [0x1004, 0, 63, 2, 0x2002, 0, 0, 0]).cores = true ∧
    (launch loadedKernel [0x1004, 0, 63, 2, 0, 0, 0, 0] false 0 none 0 0 images).1 = 7 ∧
    (launch loadedKernel [0x1004, 0, 63, 0, 0x2000, 0, 0, 0] true 0 none 0 0 images).1 = 2 :=
  ⟨by decide +kernel, by decide +kernel, by decide +kernel, by decide +kernel, by decide +kernel, by decide +kernel⟩

theorem witness_CacheMaintenance :
    (∃ r, Tbl.find? (asking mapped (.vcm 2 [(64, 256)]) true).reqs 5 = some r ∧ r.kind = .vcm 2 [(64, 256)] ∧ r.acted = true ∧
      ∀ v ∈ (asking mapped (.vcm 2 [(64, 256)]) true).invs, v.isOf (2 ^ 64 + r.id) (fun _ => true) = false) ∧
    (∃ r, Tbl.find? { asking mapped (.vcm 2 [(64, 256)]) true with invs := [{ id := 1, home := 0, dom := 1, block := 4, by_ := 2 ^ 64 + 5, grp := 0 }] }.reqs 5 = some r ∧
      r.acted = true ∧ r.id = 5) ∧
    (∃ r, Tbl.find? (storing (asking mapped (.vcm 0 [(64, 256)]))).reqs 5 = some r ∧ r.acted = false ∧ storesDone (storing (asking mapped (.vcm 0 [(64, 256)]))) r [(64, 256)] = false) ∧
    (∃ r, Tbl.find? (asking mapped (.vcm 0 [(64, 256)])).reqs 5 = some r ∧ r.acted = false ∧ storesDone (asking mapped (.vcm 0 [(64, 256)])) r [(64, 256)] = true) ∧
    (∃ r, Tbl.find? (asking mapped (.vcquery 64)).reqs 5 = some r ∧ r.kind = .vcquery 64 ∧ iaNode 64 = 0) ∧
    (iaHome 64 < 72 ∧ iaOff 64 < fleetBase ∧ localAt (fun _ => true) mapped 64) ∧ (mapped.team tk).pend = [] ∧ (mapped.team tk).st = .ready :=
  ⟨⟨_, rfl, rfl, rfl, by decide +kernel⟩, ⟨_, rfl, rfl, rfl⟩, ⟨_, rfl, rfl, by decide +kernel⟩, ⟨_, rfl, rfl, by decide +kernel⟩, ⟨_, rfl, rfl, by decide⟩,
    ⟨by decide, by decide, localAt_of (by decide +kernel)⟩, by decide +kernel, by decide +kernel⟩

/-- The image of a definition of VC 5: way 0 of bank 0, lines of 64 bytes. -/
def image : List Nat := [0, 2 ^ 30 + 2 ^ 27 + 2 ^ 17, 1, 0, 0, 0, 0, 0, 0, 0, 0, 0, 0, 0, 0, 5]
def asker : Req := { id := 5, tk := tk, dom := 0, grp := 1, dreg := 3, kind := .vcdef 64 }
/-- VC 5 of domain 0 in a state of its record. -/
def cached (r : VcRec) (lines : List Line := []) : State :=
  turnOf (launched.modDom 0 fun d => { d with vcs := [(5, r)], lines := lines }) 0 5
def dirtyLine : Line := { remote := false, vc := 5, gen := 0, base := 0, size := 64, bank := 0, set := 0, pa := 0, dirty := true, data := 9 }
def oldLine : Line := { remote := false, vc := 5, gen := 0, base := 0, size := 64, bank := 0, set := 0, pa := 0, dirty := false, data := 0 }

/-- A VCQUERY of node 1 that has not left, has left, and is lost; a dirty line whose DRAM bytes no other line holds. -/
theorem witness_CacheMaintenance_out :
    (∀ t ∈ [none, some (wentAt 0), some (wentAt 0 true)], ∃ r : Req, r = { id := 5, tk := tk, dom := 0, grp := 1, dreg := 3, kind := .vcquery (2 ^ 52), sent := t } ∧
      Tbl.find? { asking mapped (.vcquery (2 ^ 52)) with reqs := [(5, r)] }.reqs 5 = some r ∧ r.lost = t.any (·.lost)) ∧
    (iaNode (2 ^ 52) ≠ 0 ∧ nodeIsHost (fromOutside { mapped with nodes := [] } 0 64) 1 = false ∧ nodeIsHost mapped 1 = true) ∧
    (∀ t ∈ [some (wentAt 150)], expired { mapped with tick := 200 } t = false) ∧
    (∃ l ∈ ((cached { st := 1 } [dirtyLine]).dom 0).lines, l.dirty = true ∧ l.base < 0 + 64 ∧ 0 < l.base + l.size ∧
      ∀ k ∈ ((cached { st := 1 } [dirtyLine]).dom 0).lines, k ≠ l → k.pa + k.size ≤ l.pa ∨ l.pa + l.size ≤ k.pa) := by
  refine ⟨fun t h => ?_, by decide +kernel, by decide +kernel, dirtyLine, by decide +kernel⟩
  simp only [List.mem_cons, List.not_mem_nil, or_false] at h
  obtain rfl | rfl | rfl := h
  all_goals exact ⟨_, rfl, rfl, rfl⟩

theorem witness_TableInstructionsAndSweeps :
    (∃ r, Tbl.find? (asking mapped (.ptinv 0 1)).reqs 5 = some r ∧ r.kind = .ptinv 0 1) ∧ (∃ r, Tbl.find? (asking mapped (.replay 0 0)).reqs 5 = some r ∧ r.kind = .replay 0 0) ∧
    (∃ r u ws, Tbl.find? (asking mapped (.vcdef 64)).reqs 5 = some r ∧ r.kind = .vcdef 64 ∧ imageRead (asking mapped (.vcdef 64)) r 64 16 0 = some (u, some ws)) ∧
    (∃ r, Tbl.find? (asking mapped (.vcdef 0x10000)).reqs 5 = some r ∧ r.tok = 0 ∧ r.id = 5 ∧ ∃ u, imageRead (asking mapped (.vcdef 0x10000)) r 0x10000 16 0 = some (u, none)) ∧
    (findLine ((cached { st := 1 } [dirtyLine]).dom 0) false 5 0 0 = some dirtyLine ∧ findLine ((cached { st := 1 }).dom 0) false 5 0 0 = none) ∧
    (imgDom asker image < 72 ∧ domUp (launched.dom (imgDom asker image)) = true ∧ nb (imgWord image 0) 62 2 = 1 ∧ imgZero image = true ∧
      imgBadGeo (launched.dom (imgDom asker image)) image = false ∧ imgVc image = 5 ∧ (Tbl.getD (launched.dom 0).vcs 5 {}).st = 0 ∧
      (imgGeo image).strips.any (owned (launched.dom 0)) = false) ∧
    ((Tbl.getD ((cached { st := 1 }).dom 0).vcs 5 {}).st = 1 ∧ (Tbl.getD ((cached { st := 3 }).dom 0).vcs 5 {}).st = 3) ∧
    (imgGeo image).strips.any (owned { launched.dom 0 with owner := [(0, 128)] }) = true ∧
    (∃ b st, sweepAt (Tbl.getD ((cached { st := 2, banks := 1, ways := 1, line := 0 }).dom 0).vcs 5 {}) = some (b, st)) ∧
    oldLines ((cached { st := 3 } [oldLine]).dom 0) 5 { st := 3 } ≠ [] ∧ oldLines ((cached { st := 2 }).dom 0) 5 { st := 2 } = [] := by
  refine ⟨⟨_, rfl, rfl⟩, ⟨_, rfl, rfl⟩, ?_, ⟨_, rfl, rfl, rfl, ?_⟩, by decide +kernel, by decide +kernel, by decide +kernel, by decide +kernel, ⟨0, 0, by decide +kernel⟩, by decide +kernel, by decide +kernel⟩
  have h : (match imageRead (asking mapped (.vcdef 64)) { id := 5, tk := tk, dom := 0, grp := 1, dreg := 3, kind := .vcdef 64 } 64 16 0 with
    | some (_, some _) => true | _ => false) = true := by decide +kernel
  · cases e : imageRead (asking mapped (.vcdef 64)) { id := 5, tk := tk, dom := 0, grp := 1, dreg := 3, kind := .vcdef 64 } 64 16 0 with
    | none => rw [e] at h; exact absurd h (by decide)
    | some p =>
      obtain ⟨u, o⟩ := p
      cases o with
      | none => rw [e] at h; exact absurd h (by simp)
      | some ws => exact ⟨_, u, ws, rfl, rfl, e⟩
  have h : (match imageRead (asking mapped (.vcdef 0x10000)) { id := 5, tk := tk, dom := 0, grp := 1, dreg := 3, kind := .vcdef 0x10000 } 0x10000 16 0 with
    | some (_, none) => true | _ => false) = true := by decide +kernel
  generalize imageRead (asking mapped (.vcdef 0x10000)) _ _ _ _ = x at h ⊢
  obtain _ | ⟨u, o⟩ := x
  · exact absurd h (by decide)
  · cases o with
    | none => exact ⟨u, rfl⟩
    | some ws => exact absurd h (by simp)

/-- The image of range 3: one page of 2 MiB at VA 2^21 of node 0. -/
def rangeImage (v : Bool) (n : Nat) : List Nat := [0, if v then 2 ^ 31 else 0, 0, 0, 0, 0, n, 0]

theorem witness_TableInstructions_effects :
    (let s := { asking mapped (.vcdef (2 ^ 52)) with cur := { arg := { a := 5, flag := true } } }
     ∃ r, Tbl.find? s.reqs 5 = some r ∧ r.tok = 0 ∧ storesDone s r [(2 ^ 52, 64)] = true ∧ coreAhead s r (2 ^ 52) 64 = false ∧ iaNode (2 ^ 52) ≠ 0) ∧
    2 ^ 32 ∉ image ∧ imgVc image ≠ 63 ∧ nb (imgWord image 0) 61 1 = 0 ∧ nb (imgWord image 0) 57 2 = 0 ∧
    (let g := imgGeo image
     let old : VcRec := { st := 1, line := g.line, ways := g.ways, banks := g.banks }
     let d := (cached old).dom 0
     Tbl.getD d.vcs 5 {} = old ∧ (g.strips.filter fun x => !old.g.strips.contains x).any (owned d) = false) ∧
    (let g := imgGeo image
     let d := (cached { st := 1 }).dom 0
     ((g.strips.filter fun x => !({ st := 1 } : VcRec).g.strips.contains x).any (owned d) = false) ∧ ¬ (g.line = 0 ∧ g.ways = 0 ∧ g.banks = 0)) ∧
    (let g := imgGeo image
     let d := { launched.dom 0 with owner := [(0, 128)], vcs := [(5, ({ st := 1 } : VcRec))] }
     (g.strips.filter fun x => !({ st := 1 } : VcRec).g.strips.contains x).any (owned d) = true) ∧
    (Tbl.find? mapped.sows 7 = none ∧ Tbl.find? mapped.sows 1 ≠ none ∧ 2 ^ 32 ∈ List.replicate 8 (2 ^ 32) ∧ 2 ^ 32 ∉ rangeImage true 1) ∧
    (let g := imgRange (rangeImage true 1)
     nb g.w0.toNat 36 23 = 0 ∧ nb g.w1.toNat 56 8 = 0 ∧ nb g.w2.toNat 37 27 = 0 ∧ nb g.w3.toNat 36 28 = 0 ∧ g.v = true ∧ 1 ≤ g.count ∧
       nodeIn mapped 0 (g.ibase / 2 ^ 31) = true ∧ g.w0.getLsbD 62 = false) ∧
    ((imgRange (rangeImage true 0)).v = true ∧ ¬ 1 ≤ (imgRange (rangeImage true 0)).count) ∧
    ((Tbl.getD ((waiting { v := true, page := 1 }).dom 0).wait 3 {}).v = true ∧ (Tbl.getD (mapped.dom 0).wait 3 {}).v = false) ∧
    (domUp (launched.dom 0) = true ∧ domUp (launched.dom 1) = false) ∧ (Tbl.getD ((cached { st := 2 }).dom 0).vcs 5 {}).gen < 2 ^ 32 := by
  refine ⟨⟨_, rfl, by decide +kernel⟩, by decide, by decide, by decide, by decide, by decide +kernel, by decide +kernel, by decide +kernel, by decide +kernel, by decide +kernel,
    by decide +kernel, by decide +kernel, by decide +kernel, by decide +kernel⟩

/-- The image of another node: its read has not left, has left, is lost; and an entry whose end lets no record in. -/
theorem witness_TableInstructions_out :
    (∀ t ∈ [none, some (wentAt 0), some (wentAt 0 true)], ∃ r : Req, r = { id := 5, tk := tk, dom := 0, grp := 1, dreg := 3, kind := .vcdef (2 ^ 52), sent := t } ∧
      imageOut { asking mapped (.vcdef (2 ^ 52)) with reqs := [(5, r)] } r (2 ^ 52) 16 = true ∧ r.lost = t.any (·.lost)) ∧
    (∃ r, Tbl.find? (asking mapped (.vcdef 64)).reqs 5 = some r ∧ imageOut (asking mapped (.vcdef 64)) r 64 16 = false) ∧
    expired { mapped with tick := 200 } (some (wentAt 0 true)) = true ∧ ((waiting { v := true, page := 1 }).dom 0).repQ = [] := by
  refine ⟨fun t h => ?_, ⟨_, rfl, by decide +kernel⟩, by decide +kernel, by decide +kernel⟩
  simp only [List.mem_cons, List.not_mem_nil, or_false] at h
  obtain rfl | rfl | rfl := h
  all_goals exact ⟨_, rfl, by decide +kernel, rfl⟩

theorem witness_Containments :
    ((turnOf mapped 71 11).cur.arg.a < 72 ∧ (turnOf mapped 71 11).cur.arg.b < 12 ∧ ((turnOf mapped 71 11).dom 71).colF.getLsbD 11 = false ∧
      ((turnOf mapped 71 11).dom 71).chF.getLsbD 11 = false ∧ ((turnOf mapped 71 11).dom 71).lineMemF = false) ∧
    (let s := turnOf (mapped.modDom 0 fun d => { d with colF := 1, chF := 1, lineMemF := true }) 0 0
     (s.dom 0).colF.getLsbD 0 = true ∧ (s.dom 0).chF.getLsbD 0 = true ∧ (s.dom 0).lineMemF = true) := by decide +kernel

theorem witness_TickAndSnapshots :
    latchDue { mapped with tick := 4, trip := [⟨2, 0, 3⟩] } = false ∧ latchDue { mapped with tick := 5, trip := [⟨2, 0, 3⟩] } = true ∧
    latchDue { mapped with tick := 1, trip := [⟨2, 0, 2 ^ 40 - 1⟩] } = true ∧
    (launched.dom 0).live = true ∧ (launched.dom 0).colF.getLsbD 0 = false := by decide +kernel

/-- An image without a header does not verify; that some image does is a matter of the hash and the signatures, which no definition of the
model gives a value (log entry 8). -/
theorem witness_BootAndAttestation :
    (mapped.dom 3).booted = false ∧ (mapped.dom 3).halted = false ∧ mapped.windowClosed = false ∧ imageOk ⟨[], [], [], [], [], [], [], []⟩ = false ∧
    (launched.dom 0).booted = true ∧ (mapped.tick < 5000000 ∧ 5000000 ≤ { mapped with tick := 5000000 }.tick) ∧ mapped.lead = none ∧ launched.lead ≠ none ∧ mapped.cur.arg.dest = 0 :=
  ⟨by decide +kernel, by decide +kernel, rfl, rfl, by decide +kernel, by decide +kernel, rfl, nofun, rfl⟩

theorem witness_PowerSteps :
    ((turnOf { mapped with tick := 1 } 863).cur.arg.a < 864 ∧ ((turnOf { mapped with tick := 1 } 863).quad 863).piAt ≠ 1) ∧ (mapped.quad 0).piAt = mapped.tick ∧ (mapped.dom 0).booted = false ∧
    ((launched.dom (11 / 12)).booted = true ∧ ({ launched with tick := 1 }.quad 11).piAt ≠ 1) ∧
    mayRefresh { launched with tick := 1000 } 0 0 = true ∧ mayRefresh { launched with tick := 999 } 0 0 = false := by decide +kernel

theorem witness_ControllersAndDebugger :
    (∃ c, CtlReg.tvec c = .tvec 3 ∧ (4 : Nat) % 16 ∈ [4, 8, 12]) ∧ (12 : Nat) % 16 ∈ [4, 5, 6, 7, 8, 9, 10, 11, 12] ∧ (mapped.dom 0).booted = false ∧ (launched.dom 0).booted = true ∧
    (∃ u vc key p, pageOf mapped (iaHome 64) 64 false = (u, .local_ vc key p)) ∧ missing mapped 0x10000 := by
  obtain ⟨u, vc, key, p, h, _⟩ : localWith (fun _ => true) mapped 64 := local_of (by decide +kernel)
  exact ⟨⟨3, rfl, by decide⟩, by decide, by decide +kernel, by decide +kernel, ⟨u, vc, key, p, h⟩, missing_of (by decide +kernel)⟩

theorem witness_Controllers_debug :
    (iaNode (2 ^ 52) ≠ 0 ∧ iaNode (72 * 2 ^ 45) = 0 ∧ 72 ≤ iaHome (72 * 2 ^ 45) ∧ iaHome fleetBase < 72 ∧ fleetBase ≤ iaOff fleetBase) ∧
    (iaNode 64 = 0 ∧ iaHome 64 = 0 ∧ iaOff 64 < fleetBase ∧ (64 : Nat) % 1024 + 8 ≤ 1024 ∧ (launched.dom 0).booted = true ∧ localWith permRead launched 64) ∧
    localWith (fun p => !permRead p) { launched with dram := (paged 0).dram } 64 ∧ farAt permRead { launched with dram := (paged (15 + 2 ^ 13)).dram } 64 ∧
    missing launched 0x10000 ∧ (12 : Nat) % 16 ∉ [4, 5, 6, 7, 8, 9, 10, 11] ∧ (15 : Nat) % 16 ∉ [4, 5, 6, 7, 8, 9, 10, 11, 12] ∧ launched.cur.arg.dest = 0 :=
  ⟨by decide, ⟨by decide, by decide, by decide, by decide, by decide +kernel, local_of (by decide +kernel)⟩, local_of (by decide +kernel), farAt_of (by decide +kernel),
    missing_of (by decide +kernel), by decide, by decide, rfl⟩

/-- A plot at the head of loam core 0's queue, not yet bound, its image at VA 0x100 in its sowing's first page: a length of 4 before it. -/
def loamWaiting (bound : Bool) : State :=
  let s := { mapped with loams := [(0, { queue := [2 ^ 32] })], lplots := [(2 ^ 32, { sow := 1, lk := 0, cls := 0, lanes := 32, lmem := 0, bound := bound })] }
  { s.modSow 1 (fun w => { w with words := [0x100, 0] }) with dram := Mem.write s.dram (frameKey (plainDom (s.dom 0)) 2 0xFC) 4 4, cur := { arg := {} } }
/-- The record of the loam core, at IA 0, is the plot's own. -/
def loamOwn : State := ctlWrite (loamWaiting true) (8 * 531) 8 (2 ^ 32)
def ownRecord (s : State) : Bool :=
  let p := s.lplot (2 ^ 32)
  let word (i : Nat) : Option Nat := ctlRead s ((s.dom (p.lk / 12)).lctx.toNat + 4352 * (p.lk % 12) + 8 * i) 8
  (List.range 544).all (fun i => (word i).isSome) && (word 531).getD 0 / 2 ^ 32 == p.sow && (word 532).getD 0 % 2 ^ 32 == 2 ^ 32 % 2 ^ 32
/-- A lane of a load, and of a store, of a loam plot on its way to IA 64. -/
def loamFlying (kind : Nat) : State := { loam 0 [{ kind := kind, reg := 4, lanes := [(31, 64, 64, 9)], n := 4 }] with cur := { arg := { a := 2 ^ 32, c := 31 } } }

/-- A loam sowing waits: its plots are for loam cores 0 and 1, or all of them have entered. -/
def loamSown (next : Nat) : State := turnOf (launched 0x2004 |>.modSow 1 fun w => { w with next := next }) 0

theorem witness_LoamEvents_dispatch :
    (((loamSown 0).loam 0).queue = [] ∧ (loamSown 0).lead ≠ none ∧ (∀ e ≤ 2, headWaits (loamSown 0) e = none) ∧ (∀ e < 2, roundRobin (loamSown 0) (4 + e) e true = []) ∧
      roundRobin (loamSown 0) 6 2 true = [] ++ 1 :: [] ∧
      let w := (loamSown 0).sow 1
      0 % 12 = 0 % 12 ∧ hintDom w.home (launchOf w.words).hstep (0 / 12) = 0 / 12 ∧ w.next ≤ 0 ∧ 0 < (launchOf w.words).count ∧ 0 ∉ w.bound ∧ w.redo = []) ∧
    ((∀ c < 4, roundRobin (loamSown 2) (4 + c) c true = if c = 2 then [1] else []) ∧ (launchOf ((loamSown 2).sow 1).words).count ≤ ((loamSown 2).sow 1).next ∧
      ((loamSown 2).sow 1).redo = []) := by decide +kernel

/-- A co-resident loam sowing holds its class up: it enters whole, or does not, for want of room. -/
def loamTogether (n : Nat) : State := { turnOf (launched 0x2006) 0 with loams := [(1, { queue := List.range n })] }
theorem witness_LoamEvents_whole :
    ((∀ e < 2, headWaits (loamTogether 0) e = none) ∧ headWaits (loamTogether 0) 2 = some 1 ∧ (launchOf ((loamTogether 0).sow 1).words).loam = true ∧
      (∀ c < 2, ∀ z ∈ roundRobin (loamTogether 0) (4 + c) c true, z ≠ z) ∧ (loamWhole 1 ((loamTogether 0).sow 1).unbound (loamTogether 0)).isSome = true) ∧
    (((loamTogether 8).sow 1).unbound = [0, 1] ∧ loamRoom (loamTogether 8) 1 0 = true ∧ loamRoom (loamTogether 8) 1 1 = false) ∧
    (∀ c < 4, headWaits (loamSown 2) c = none) ∧
    (let s := (loamSown 2).modSow 1 fun w => { w with redo := [0] }
     0 % 12 = 0 % 12 ∧ hintDom (s.sow 1).home (launchOf (s.sow 1).words).hstep (0 / 12) = 0 / 12 ∧ 0 ∈ (s.sow 1).redo ∧ (s.lplot (2 ^ 32 * 1 + 0)).out = []) := by decide +kernel

theorem witness_LoamEvents :
    (mapped.lead = none ∧ 8 ≤ ((turnOf { mapped with loams := [(0, { queue := List.range 8 })] } 0).loam 0).queue.length) ∧ ((launched.loam 0).queue.length < 8 ∧ launched.lead ≠ none) ∧
    (loamHead (loamWaiting false) 0 = some (2 ^ 32) ∧ ((loamWaiting false).loam 0).run = none ∧ ((loamWaiting false).lplot (2 ^ 32)).bound = false ∧
      ((loamWaiting false).dom 0).chF.getLsbD 0 = false ∧ ((loamWaiting false).dom 0).lineMemF = false ∧
      ∃ img, loamImage (loamWaiting false) ((loamWaiting false).sow 1).rangeList 0 0x100 = some img) ∧
    (loamHead (loamWaiting true) 0 = some (2 ^ 32) ∧ ((loamWaiting true).lplot (2 ^ 32)).bound = true ∧ ownRecord (loamWaiting true) = false) ∧
    (loamHead loamOwn 0 = some (2 ^ 32) ∧ (loamOwn.loam 0).run = none ∧ (loamOwn.lplot (2 ^ 32)).bound = true ∧ ownRecord loamOwn = true) :=
  ⟨by decide +kernel, ⟨by decide +kernel, nofun⟩, ⟨by decide +kernel, by decide +kernel, by decide +kernel, by decide +kernel, by decide +kernel,
    Option.isSome_iff_exists.mp (by decide +kernel)⟩, by decide +kernel, by decide +kernel⟩

theorem witness_LoamEvents_lanes :
    (let a : LAcc := { kind := 0, reg := 4, lanes := [(31, 64, 64, 9)], n := 4 }
     loamOrder [] 64 4 = true ∧ loamOrder [a] 66 4 = false ∧ loamOrder [a] 68 4 = true) ∧
    (∃ p a l, Tbl.find? (loamFlying 0).lplots (2 ^ 32) = some p ∧ p.out[0]? = some a ∧ a.lanes.find? (fun l => l.1 == 31) = some l ∧ a.tok = 0 ∧
      localWith permRead (loamFlying 0) l.2.2.1) ∧
    (∃ p a l, Tbl.find? (loamFlying 1).lplots (2 ^ 32) = some p ∧ p.out[0]? = some a ∧ a.lanes = [l] ∧ l.1 = 31 ∧ a.kind = 1 ∧
      localWith permWrite (loamFlying 1) l.2.2.1) :=
  ⟨by decide +kernel,
    ⟨_, _, (31, 64, 64, 9), rfl, rfl, rfl, rfl, local_of (by decide +kernel)⟩, ⟨_, _, (31, 64, 64, 9), rfl, rfl, rfl, rfl, rfl, local_of (by decide +kernel)⟩⟩

/-! ## The last statements -/

theorem witness_DecodeEncode :
    (Instr.wellFormed (.uadd 3 1 2 (some 0xFFFFFF)) = true ∧ forCore (.uadd 3 1 2 (some 0xFFFFFF)) = true) ∧
    (Instr.wellFormed (.loamVcvt 31 31 3 7 7) = true ∧ forLoam (.loamVcvt 31 31 3 7 7) = true) ∧ (Instr.wellFormed .tick = true ∧ Instr.tick.isEvent = true) := by decide

/-- The team that the arbiter prefers at its turn, and a start of its group of which something holds. -/
def begins (s : State) (P : State → Nat → Start → Prop) : Prop :=
  ∃ core n x r c cs, s.sched = .part core n x :: r ∧ candidatesOf { s with sched := r } core n x = c :: cs ∧
    let o := openGroup { s with sched := r } c.tk c.cyc x
    P o c.tk (startOf o c.tk)
/-- The same of a start at an address, whose group is to be fetched. -/
def atStart (P : State → Nat → Nat → Prop) (o : State) (tk : Nat) (st : Start) : Prop :=
  ∃ va, st = .at_ va ∧
    let o := o.modCt fun t => { t with pc := va, via := none }
    P { o with cur := { o.cur with gpc := va } } tk va
theorem begins_of {s : State} {P : State → Nat → Start → Prop} (f : State → Nat → Start → Bool) (hf : ∀ o tk st, f o tk st = true → P o tk st)
    (h : (match s.sched with
      | .part core n x :: r => (match candidatesOf { s with sched := r } core n x with
        | c :: _ => let o := openGroup { s with sched := r } c.tk c.cyc x
                    f o c.tk (startOf o c.tk)
        | [] => false)
      | _ => false) = true) : begins s P := by
  split at h
  · rename_i core n x r hs
    split at h
    · rename_i c cs hc
      exact ⟨core, n, x, r, c, cs, hs, hc, hf _ _ _ h⟩
    · cases h
  · cases h
theorem atStart_of {P : State → Nat → Nat → Prop} (f : State → Nat → Nat → Bool) (hf : ∀ o tk va, f o tk va = true → P o tk va) (o : State) (tk : Nat) (st : Start)
    (h : (match st with
      | .at_ va => let o := o.modCt fun t => { t with pc := va, via := none }
                   f { o with cur := { o.cur with gpc := va } } tk va
      | _ => false) = true) : atStart P o tk st := by
  cases st with
  | at_ va => exact ⟨va, rfl, hf _ _ _ h⟩
  | bad _ _ => cases h
  | wait _ _ => cases h

/-- A breakpoint at the first word; a transfer to the control word; a packet of kind 1; two uniform words in one group. -/
def stoppedAt : State := (placeCore {} [0x30080001#32]).modCore 0 fun c => { c with bkpt := [(1, BitVec.ofNat 64 (2 ^ 63 + 4))] }
def astray : State := (placeCore {} [0x30080001#32]).modTeam tk fun t => { t with pc := 16, via := some (4, false) }
def noCode : State := let s := placeCore {} [0x30080001#32]; { s with dram := Mem.write s.dram (frameKey (plainDom (s.dom 0)) 2 0) (2 ^ 30) 4 }
def clashing : State := placeCore {} [0xA0030102#32, 0x20040102#32]

theorem witness_WordsThatDoNotIssue_fetch :
    begins astray (fun _ _ st => ∃ w a, st = .bad w a) ∧
    begins stoppedAt (atStart fun o _ va => ∃ i, breakAt o o.ct va = some i) ∧
    begins noCode (atStart fun o tk va => breakAt o o.ct va = none ∧ ∃ code v e, fetchFrom o tk 4 va true = .trap code v e) ∧
    begins clashing (atStart fun o tk va => breakAt o o.ct va = none ∧ ∃ ws bad, fetchFrom o tk 4 va true = .ok ws bad ∧ groupReasons bad (parseGroup ws 0) ≠ []) ∧
    (∃ ctl w, fetchAt noCode tk 4 = .word ctl w ∧ ctl / 2 ^ 30 % 4 = 1) ∧ translate base tk (2 ^ 21) = none ∧ (∃ c v e, fetchAt base tk (2 ^ 21) = .trap c v e) ∧
    ∀ s ∈ [astray, stoppedAt, noCode, clashing], latchDue s = false := by
  refine ⟨begins_of (fun _ _ st => match st with | .bad _ _ => true | _ => false) ?_ (by decide +kernel),
    begins_of _ (atStart_of (fun o _ va => (breakAt o o.ct va).isSome) ?_) (by decide +kernel),
    begins_of _ (atStart_of (fun o tk va => (breakAt o o.ct va).isNone && match fetchFrom o tk 4 va true with | .trap _ _ _ => true | _ => false) ?_) (by decide +kernel),
    begins_of _ (atStart_of (fun o tk va => (breakAt o o.ct va).isNone && match fetchFrom o tk 4 va true with
      | .ok ws bad => groupReasons bad (parseGroup ws 0) != [] | _ => false) ?_) (by decide +kernel), ?_, by decide +kernel, ?_, by decide +kernel⟩
  · intro o tk st h
    cases st <;> simp at h ⊢
  · exact fun o tk va h => Option.isSome_iff_exists.mp h
  · intro o tk va h
    obtain ⟨hb, h⟩ := Bool.and_eq_true_iff.mp h
    refine ⟨Option.isNone_iff_eq_none.mp hb, ?_⟩
    split at h
    · exact ⟨_, _, _, ‹_›⟩
    · cases h
  · intro o tk va h
    obtain ⟨hb, h⟩ := Bool.and_eq_true_iff.mp h
    refine ⟨Option.isNone_iff_eq_none.mp hb, ?_⟩
    split at h
    · exact ⟨_, _, ‹_›, by simpa using h⟩
    · cases h
  · have h : (match fetchAt noCode tk 4 with | .word ctl _ => ctl / 2 ^ 30 % 4 == 1 | _ => false) = true := by decide +kernel
    split at h
    · exact ⟨_, _, ‹_›, by simpa using h⟩
    · cases h
  · have h : (match fetchAt base tk (2 ^ 21) with | .trap _ _ _ => true | _ => false) = true := by decide +kernel
    split at h
    · exact ⟨_, _, _, ‹_›⟩
    · cases h

/-- The conditions of the last clause of the statement about a step: a group of one instruction whose checks pass, from where its team starts. -/
def runs (o : State) (tk va : Nat) : Prop :=
  ∃ f fs i, breakAt o o.ct va = none ∧ fetchFrom o tk 4 va true = .ok (f :: fs) [] ∧
    (fs = [] ∧ decode [f.word] = some i ∨
      ∃ g, fs = [g] ∧ takesE (opcode f.word) = true ∧ chain f.word = true ∧ isE g.word = true ∧ decode [f.word, g.word] = some i) ∧
    let g : GWord := ⟨f.addr, f.word, 0, i⟩
    let link := seqAfter o tk (match fs with | [g] => g.addr | _ => f.addr) fillerFuel
    let v := { fetchTouch o tk (f :: fs) with cur := { o.cur with link := link, cpp := max 1 (form i).cpp } }
    checkWord v [g] g = .go ∧ reserved v o.ct tk [g] = true
def issues (s : State) (core n : Nat) (x : Input) (r : List Turn) : Prop :=
  ∃ c cs va, s.sched = .part core n x :: r ∧ candidatesOf { s with sched := r } core n x = c :: cs ∧
    let o := openGroup { s with sched := r } c.tk c.cyc x
    startOf o c.tk = .at_ va ∧
    let o := o.modCt fun t => { t with pc := va, via := none }
    runs { o with cur := { o.cur with gpc := va } } c.tk va
/-- The same as computations. -/
def runsB (o : State) (tk va : Nat) : Bool :=
  (breakAt o o.ct va).isNone &&
  match fetchFrom o tk 4 va true with
  | .ok (f :: fs) [] =>
    (match (match fs with
      | [] => decode [f.word]
      | [g] => if takesE (opcode f.word) && chain f.word && isE g.word then decode [f.word, g.word] else none
      | _ => none) with
    | none => false
    | some i =>
      let g : GWord := ⟨f.addr, f.word, 0, i⟩
      let link := seqAfter o tk (match fs with | [g] => g.addr | _ => f.addr) fillerFuel
      let v := { fetchTouch o tk (f :: fs) with cur := { o.cur with link := link, cpp := max 1 (form i).cpp } }
      decide (checkWord v [g] g = .go) && reserved v o.ct tk [g])
  | _ => false
def startB (st : Start) (f : Nat → Bool) : Bool := match st with | .at_ va => f va | _ => false
def issuesB (s : State) (core n : Nat) (x : Input) (r : List Turn) : Bool :=
  match candidatesOf { s with sched := r } core n x with
  | [] => false
  | c :: _ =>
    let o := openGroup { s with sched := r } c.tk c.cyc x
    startB (startOf o c.tk) fun va =>
      let o := o.modCt fun t => { t with pc := va, via := none }
      runsB { o with cur := { o.cur with gpc := va } } c.tk va

theorem runs_of {o : State} {tk va : Nat} (h : runsB o tk va = true) : runs o tk va := by
  unfold runsB at h
  obtain ⟨hb, h⟩ := Bool.and_eq_true_iff.mp h
  have hb := Option.isNone_iff_eq_none.mp hb
  split at h
  · rename_i f fs hf
    split at h
    · cases h
    rename_i i hi
    have h := Bool.and_eq_true_iff.mp h
    refine ⟨f, fs, i, hb, hf, ?_, of_decide_eq_true h.1, h.2⟩
    clear h hf
    cases fs with
    | nil => exact .inl ⟨rfl, hi⟩
    | cons g tail => cases tail with
      | nil =>
        dsimp only at hi
        split at hi
        · rename_i e
          have e := Bool.and_eq_true_iff.mp e
          exact .inr ⟨g, rfl, (Bool.and_eq_true_iff.mp e.1).1, (Bool.and_eq_true_iff.mp e.1).2, e.2, hi⟩
        · cases hi
      | cons _ _ => cases hi
  · cases h

theorem start_of {st : Start} {f : Nat → Bool} (h : startB st f = true) : ∃ va, st = .at_ va ∧ f va = true := by
  cases st with
  | at_ va => exact ⟨va, rfl, h⟩
  | bad _ _ => exact absurd h Bool.false_ne_true
  | wait _ _ => exact absurd h Bool.false_ne_true

theorem issues_of {s : State} {core n : Nat} {x : Input} {r : List Turn} (hs : s.sched = .part core n x :: r) (h : issuesB s core n x r = true) :
    issues s core n x r := by
  unfold issuesB at h
  split at h
  · cases h
  rename_i c cs hc
  obtain ⟨va, hv, h⟩ := start_of h
  exact ⟨c, cs, va, hs, hc, hv, runs_of h⟩

/-- A word alone, and a word with its E word, as the first instructions of a team; a team whose PC names a word. -/
theorem witness_StepRunsDecoded :
    (∃ r, issues (placeCore {} [0x30080001#32]) 0 0 {} r) ∧ (∃ r, issues (placeCore {} [0xA0040608#32, 0x7F7C0000#32]) 0 0 {} r) ∧
    ((openGroup base tk 0 {}).ct.via = none ∧ fillerAt (openGroup base tk 0 {}) tk (openGroup base tk 0 {}).ct.pc = false) ∧
    (∀ s ∈ [placeCore {} [0x30080001#32], placeCore {} [0xA0040608#32, 0x7F7C0000#32], placeLoam {} 0, State.reset], latchDue s = false) ∧
    latchDue { State.reset with tick := 2, trip := [⟨2, 0, 0⟩] } = true ∧
    State.reset.sched = [] ∧ Instr.tick.isEvent = true ∧ Instr.nop.isEvent = false ∧
    (∃ pid, ((placeLoam {} 0).loam 0).run = some pid ∧ (placeLoam {} 0).sched = .loam 0 :: [] ∧ ((placeLoam {} 0).lplot pid).pc < ((placeLoam {} 0).lplot pid).len) :=
  ⟨⟨[], issues_of (by decide +kernel) (by decide +kernel)⟩, ⟨[], issues_of (by decide +kernel) (by decide +kernel)⟩, by decide +kernel, by decide +kernel, by decide +kernel,
    rfl, rfl, rfl, 2 ^ 32, by decide +kernel⟩

theorem witness_MemoryCanonical : ∃ t, Mem.wf State.reset.dram = true ∧ Mem.wf State.reset.spm = true ∧ Mem.wf State.reset.fleet = true ∧ step State.reset = .next t := by
  have h : (match step State.reset with | .next _ => true | _ => false) = true := by decide +kernel
  cases e : step State.reset with
  | next t => exact ⟨t, rfl, rfl, rfl, rfl⟩
  | fault f => rw [e] at h; exact absurd h Bool.false_ne_true
  | refused f => rw [e] at h; exact absurd h Bool.false_ne_true

/-! ## Decoding: the worked encodings of the spec -/

/-- The worked encodings of chapter 7 (R54, R69 to R71, R73). -/
theorem test_decode_uniform :
    decode [0x20030102#32] = some (.uadd 3 1 2 none) ∧ decode [0xA0040608#32, 0x7F7C0000#32] = some (.uadd 4 6 8 (some 0x7C0000)) ∧
    decode [0xAF02030B#32, 0x7F700004#32] = some (.ualuAndn 2 3 (some 0x700004)) ∧ decode [0x31011234#32] = some (.movhi 1 0x1234 none) ∧
    decode [0x341105FF#32] = some (.ucmpi 2 1 5 0xFF none) ∧ decode [0xB5060203#32, 0x7F400000#32] = some (.usel 6 2 3 (some 0x400000)) ∧
    decode [0x3A030128#32] = some (.upredOr 3 1 2 none) ∧ decode [0x3E0A0002#32] = some (.getst 10 none) := by decide +kernel

/-- The control words of chapter 7 (R122 to R132). -/
theorem test_decode_control :
    decode [0x67020000#32] = some (.qredAny 2 0) ∧ decode [0x64001401#32] = some (.ret 20) ∧ decode [0x70040001#32] = some (.csrr 4 1) ∧
    decode [0x6A000042#32] = some (.trap 0x42) ∧ decode [0xE5030010#32, 0x7F000020#32] = some (.brv 0 3 0x10 (some 0x20)) ∧
    decode [0x60000000#32] = some .nop ∧ decode [0x63000000#32] = some .endTeam ∧ decode [0x68000500#32] = some (.waitc 0 5) := by decide +kernel

/-- The worked encodings of chapter 8 (R68, R73, R134). -/
theorem test_decode_vector :
    decode [0x84060708#32, 0x7F740000#32] = some (.vmul 6 7 8 (some 0x740000)) ∧ decode [0x0C120103#32] = some (.vfcmp 2 2 1 3 none) ∧
    decode [0x0E040607#32] = some (.vdot2 4 6 7 none) ∧ decode [0x96010422#32, 0x7F700005#32] = some (.vialuCmp 1 4 0 2 (some 0x700005)) ∧
    decode [0x16090284#32] = some (.vialuShl 9 2 1 none) ∧ decode [0x17030480#32] = some (.viunMov 3 4 1 none) ∧
    decode [0x180A0200#32] = some (.vfunRcp 10 2 0 none) ∧ decode [0x180C02C2#32] = some (.vfunSqrt 12 2 3 none) ∧
    decode [0x19090240#32] = some (.vcvt 9 2 4 0 none) ∧ decode [0x1B050607#32] = some (.vshufBu 5 6 7 none) ∧
    decode [0x1C090280#32] = some (.vredFaddF32 9 2 none) ∧ decode [0x9D050200#32, 0x7F300000#32] = some (.vrdiB32 5 2 (some 0x300000)) := by decide +kernel

/-- The worked encodings of chapter 9 (R156 to R162). -/
theorem test_decode_tile :
    decode [0x59010C00#32] = some (.tshape 1 12) ∧ decode [0x59800D01#32] = some (.tzero 0x80 13) ∧ decode [0x5A001003#32] = some (.tld 0 16 3) ∧
    decode [0x5A020845#32] = some (.tld 2 8 0x45) ∧ decode [0x5B00146D#32] = some (.tst 0 20 0x6D) ∧ decode [0x5C0118B0#32] = some (.tfetch 1 24 1 3 0) ∧
    decode [0xF3000001#32, 0x7F00000E#32] = some (.tmma 0 0 1 (some 14)) ∧ decode [0xF4010018#32, 0x7F00000E#32] = some (.tmmaf 1 0 24 (some 14)) := by decide +kernel

/-- The worked encodings of chapter 11 (R75, R190). -/
theorem test_decode_memory :
    decode [0x43040A01#32] = some (.ldB64 4 10 1 none) ∧ decode [0x46070303#32] = some (.ldS16 7 3 3 none) ∧
    decode [0xC9090502#32, 0x7F700208#32] = some (.stB32 9 5 2 (some 0x700208)) ∧ decode [0x4F080671#32] = some (.ustB64 8 6 0x71 none) ∧
    decode [0xD0060C8D#32, 0x7F700000#32] = some (.atomB32 6 12 0x8D (some 0x700000)) ∧ decode [0xD0060C29#32, 0x7F702800#32] = some (.atomB32 6 12 0x29 (some 0x702800)) ∧
    decode [0xD3060C29#32, 0x7F700000#32] = some (.uatomB32 6 12 0x29 (some 0x700000)) ∧ decode [0xD202082C#32, 0x7F700000#32] = some (.fatom 2 8 0x2C (some 0x700000)) ∧
    decode [0x5400006C#32] = some (.fence 3 3) ∧ decode [0x55010201#32] = some (.prefetchVc 2 1 none) ∧ decode [0x56040449#32] = some (.fld 4 4 0x49 none) ∧
    decode [0x58141000#32] = some (.fbirth 20 16) ∧ decode [0x58151002#32] = some (.flife 21 16) ∧ decode [0x7A050200#32] = some (.vclean 5 2) ∧
    decode [0x7A060203#32] = some (.vcquery 6 2) := by decide +kernel

/-- The worked encodings of chapters 13 to 15 (R227 to R235, R262 to R266, R273 to R279). -/
theorem test_decode_engines :
    decode [0x750D104A#32] = some (.copy 13 16 0 1 1 0 1 0) ∧ decode [0x750D1001#32] = some (.copy 13 16 0 0 0 0 0 1) ∧
    decode [0x760C1002#32] = some (.copyg 12 16 0 0 0 0 1 0) ∧ decode [0x770C149F#32] = some (.copyb 12 20 1 1 15) ∧
    decode [0x78180300#32] = some (.iredM 24 3) ∧ decode [0x78180301#32] = some (.iredC 24 3) ∧ decode [0x790610A0#32] = some (.sow 6 16 1 2) := by decide +kernel
theorem test_decode_tables_and_barriers :
    decode [0x7B060200#32] = some (.vcdef 6 2) ∧ decode [0x7B060201#32] = some (.vcresize 6 2) ∧ decode [0x7C060200#32] = some (.rgset 6 2) ∧
    decode [0x7C050201#32] = some (.ptinv 5 2) ∧ decode [0x7C060202#32] = some (.replay 6 2) ∧ decode [0x6D050C00#32] = some (.barinit 5 12) ∧
    decode [0x6D050C01#32] = some (.bararm 5 12) ∧ decode [0x6D060C02#32] = some (.barwait 6 12) ∧ decode [0x6E000000#32] = some .pbar ∧
    decode [0x6E000002#32] = some .wbar ∧ decode [0x6B06044D#32] = some (.waita 6 4 0x13) ∧ decode [0x6C07046D#32] = some (.wakea 7 4 0x1B) := by decide +kernel

/-- The words of the loam listings of chapters 16 and 22 (R299 to R311). -/
theorem test_decode_loam :
    decodeLoam 0x4C200000#32 = .loamLdk 1 0 ∧ decodeLoam 0x4C400008#32 = .loamLdk 2 8 ∧ decodeLoam 0x80010000#32 = .loamVld 0 1 0 0 ∧
    decodeLoam 0x00401801#32 = .loamVadd 2 0 3 0 0 1 ∧ decodeLoam 0x84420000#32 = .loamVst 2 2 0 0 ∧ decodeLoam 0xE8000000#32 = .loamDone ∧
    decodeLoam 0x48800004#32 = .loamMovi 4 4 ∧ decodeLoam 0x00400840#32 = .loamVadd 2 0 1 0 1 0 ∧ decodeLoam 0x44420080#32 = .loamSaddi 2 2 0x80 ∧
    decodeLoam 0xC804FFF9#32 = .loamLoop 4 0xFFF9 := by decide +kernel

/-- A word that names no instruction, and no word at all. -/
theorem test_decode_refused : decode [0x1F000000#32] = some (.unassignedOpcode 0x1F000000#32) ∧ decode [] = none := by decide +kernel

/-! ## Single steps, with results worked out by hand from the rules -/

def after (o : Host.Outcome State Fault Refusal) : State := match o with | .next t => t | _ => {}
/-- The results on their way after an instruction. -/
def sent (i : Instr) (s : State) : List (List (Slot × Nat)) := (after (exec i s)).ct.pend.map (·.ws)

/-- R112: 0xFFFFFFFF + 1 wraps. -/
theorem test_uadd_wraps : sent (.uadd 3 1 2 none) (withRegs [(1, 0xFFFFFFFF), (2, 1)]) = [[(.s 3, 0), (.latU, 0)]] := by decide +kernel
/-- R93: the quotient truncates toward zero; of a zero divisor it is all ones. -/
theorem test_udivs : sent (.udivs 3 1 2 none) (withRegs [(1, 0xFFFFFFF9), (2, 2)]) = [[(.s 3, 0xFFFFFFFD), (.latU, 0xFFFFFFFD)]] := by decide +kernel
theorem test_udivs_zero : sent (.udivs 3 1 2 none) (withRegs [(1, 7)]) = [[(.s 3, 0xFFFFFFFF), (.latU, 0xFFFFFFFF)]] := by decide +kernel
/-- R114: the immediate goes to the high half, the low half stays. -/
theorem test_movhi : sent (.movhi 1 0x1234 none) (withRegs [(1, 0xABCD5678)]) = [[(.s 1, 0x12345678), (.latU, 0x12345678)]] := by decide +kernel
/-- R115: an LTS compare of 5 with the immediate -1. -/
theorem test_ucmpi_signed : sent (.ucmpi 2 1 5 0xFF none) (withRegs [(5, 5)]) = [[(.q 1, 0)]] := by decide +kernel
/-- The listing of chapter 2: y + 0.5 x for x = 3.0, y = 1.0, in lane 0. -/
theorem test_vfma : sent (.vfmaBu 1 2 4 none) (withTeam fun t => (({ t with mask := 1, sreg := [(4, 0x3F000000)] }.put (.v 0 1) 0x3F800000).put (.v 0 2) 0x40400000)) =
    [[(.v 0 1, 0x40200000), (.lat .V0 0, 0x40200000)]] := by decide +kernel
/-- R95, R145: 1.0 in E4M3 is 0x38. -/
theorem test_vcvt_e4m3 : sent (.vcvt 9 2 4 0 none) (withTeam fun t => { t with mask := 1 }.put (.v 0 2) 0x3F800000) =
    [[(.v 0 9, 0x38), (.lat .V1 0, 0x38)]] := by decide +kernel
/-- R316: a TRAP of an unprivileged team: the code, the immediate, the address after the group, and PRIV. -/
theorem test_trap : ((after (exec (.trap 0x42) base)).ct.tcause, (after (exec (.trap 0x42) base)).ct.tval, (after (exec (.trap 0x42) base)).ct.tepc,
    (after (exec (.trap 0x42) base)).ct.tstat) = (0x22, 0x42, 8, 256) := by decide +kernel
/-- R175, R194: a store of 0x01020304 to the scratchpad is little-endian. -/
theorem test_ust_lm : (let s := after (exec (.ustB32 1 4 3 none) (reaching 16)); (s.spm, s.ct.count 2)) = ([(16, 7)], 1) := by decide +kernel
/-- R125: lanes 0 and 1 of four take the branch; the others go on. -/
theorem test_brv : ((after (exec (.brv 0 1 8 (some 4)) (split 3 0))).ct.mask, (after (exec (.brv 0 1 8 (some 4)) (split 3 0))).ct.stack.map fun e => (e.rejoin, e.pc, e.mask)) =
    (12, [(false, 36, 3), (true, 20, 15)]) := by decide +kernel
/-- R302: an i32 add in lanes 0 and 31; x1 is broadcast. -/
theorem test_loam_vadd : (let p := ((after (exec (.loamVadd 2 0 1 1 2 1) (loam 0xFFFFFFFF))).lplot (2 ^ 32)); (p.rdW 2 0, p.rdW 2 1, p.rdW 2 31, p.pc)) =
    (0xFFFFFFFF, 0, 0xFFFFFFFF, 12) := by decide +kernel

end Sys2Proof.Tests
end

section
/-! SUPPORT. USEL (R116): its guard chooses the value and never withholds the write, and its word needs an E word. -/
namespace Sys2Proof.Proofs.Select
open Sys2Proof.Machine Sys2Proof.Safety Sys2Proof.Laws
open BitVec (extractLsb'_append_eq_of_le extractLsb'_append_eq_right getLsbD_append)

/-! ## Sources and guards of uniform instructions -/

/-- R57: what a source of n registers delivers fits their width, so lat.u receives all of it. -/
theorem uniRes_rdU (t : Team) (d v n : Nat) : uniRes d n (t.rdU v n) = wrU d n (t.rdU v n) ++ [(.latU, t.rdU v n)] := by
  rw [uniRes, Nat.mod_eq_of_lt (rdU_lt t v n)]

/-- R56: guard code 7 reads no register, so gneg alone decides. -/
theorem guardQ_of_eGuard_eq_seven (t : Team) {e : EPay} (h : eGuard e = 7) : t.guardQ e = !eNeg e := by
  simp [Team.guardQ, Team.rdQ, h]

/-! ## The effect of USEL -/

/-- A USEL that issues sends the source its guard chooses to its destination and lat.u. -/
theorem exec_usel {d a b : BitVec 8} {e : EPay} {s : State} (h : Clear (.usel d a b e) s) :
    exec (.usel d a b e) s = .next (result s (some 1) s.cur.cyc
      (uniRes d.toNat (eRegs e) ((now s).rdU (if (now s).guardQ e then a else b).toNat (eRegs e)))) := by
  have arm : exec (.usel d a b e) s = execUsel d a b e s := rfl
  rw [arm, execUsel]
  exact issue_clear h noCheck _ rfl

/-- R55, R69: a USEL without its E word is illegal in every state. -/
theorem illegal_usel_none (d a b : BitVec 8) (s : State) : illegal (.usel d a b none) s = true := rfl

/-! ## A word of format A with the chain bit set, and its E word (R53, R54) -/

section
variable (c : BitVec 1) (op : BitVec 7) (d a b : BitVec 8) (p : BitVec 24)

theorem fld_formatA_b : fld (c ++ op ++ d ++ a ++ b) 0 8 = b := extractLsb'_append_eq_right

theorem fld_formatA_a : fld (c ++ op ++ d ++ a ++ b) 8 8 = a :=
  (extractLsb'_append_eq_of_le (by decide)).trans extractLsb'_append_eq_right

theorem fld_formatA_d : fld (c ++ op ++ d ++ a ++ b) 16 8 = d :=
  (extractLsb'_append_eq_of_le (by decide)).trans <| (extractLsb'_append_eq_of_le (by decide)).trans extractLsb'_append_eq_right

theorem fld_eWord_payload : fld (c ++ op ++ p) 0 24 = p := extractLsb'_append_eq_right

theorem fld_eWord_op : fld (c ++ op ++ p) 24 7 = op :=
  (extractLsb'_append_eq_of_le (by decide)).trans extractLsb'_append_eq_right

theorem fld_formatA_op : fld (c ++ op ++ d ++ a ++ b) 24 7 = op :=
  (extractLsb'_append_eq_of_le (by decide)).trans <| (extractLsb'_append_eq_of_le (by decide)).trans <|
    (extractLsb'_append_eq_of_le (by decide)).trans extractLsb'_append_eq_right

theorem opcode_formatA : opcode (c ++ op ++ d ++ a ++ b) = op.toNat := by rw [opcode, fld_formatA_op]

theorem chain_formatA : chain (c ++ op ++ d ++ a ++ b) = c.getLsbD 0 := by
  simp only [chain, getLsbD_append, Nat.reduceLT, Nat.reduceSub, if_false]

theorem isE_eWord : isE (c ++ 0x7F#7 ++ p) = true := by rw [isE, opcode, fld_eWord_op]; rfl

/-- R55: a chained word whose opcode takes an E word takes the payload of the E word after it. -/
theorem decode_chained (h : takesE op.toNat = true) :
    decode [1#1 ++ op ++ d ++ a ++ b, 0#1 ++ 0x7F#7 ++ p] = some (decodeMain (1#1 ++ op ++ d ++ a ++ b) (some p)) := by
  rw [decode, opcode_formatA, h, chain_formatA, isE_eWord, fld_eWord_payload]
  rfl

/-- R69: opcode 0x35 has one row, USEL, of format A. -/
theorem decodeMain_usel (e : EPay) : decodeMain (c ++ 0x35#7 ++ d ++ a ++ b) e = .usel d a b e := by
  rw [decodeMain, opcode_formatA]
  simp [mainRows, pick, Row.fits, fld_formatA_d, fld_formatA_a, fld_formatA_b]

end

/-! ## O4 -/

/-- Settles O4: a USEL that issues writes the source its guard chooses, at guard code 7 by gneg alone, and its word decodes
with the E word it requires. -/
theorem selectResult : Obligations.SelectResult := by
  refine ⟨fun d a b e s h => ⟨?_, fun h7 => ?_⟩, fun d a b p s => ⟨?_, illegal_usel_none d a b s⟩⟩
  · rw [exec_usel h, uniRes_rdU]
  · rw [guardQ_of_eGuard_eq_seven _ h7]
    cases eNeg e <;> rfl
  · rw [decode_chained 0x35#7 d a b p rfl, decodeMain_usel]

end Sys2Proof.Proofs.Select
end

section
/-! SUPPORT. TRAP (R130) beside a BARWAIT that met a fault (R274): of the two traps the model takes that of the BARWAIT. -/
namespace Sys2Proof.Proofs.Trap
open Sys2Proof.Machine Sys2Proof.Safety Sys2Proof.Laws

/-! ## What a TRAP does where a BARWAIT of its group met a fault -/

/-- R60, R71: a TRAP takes pipe U, has no operand and accesses no memory. -/
theorem form_trap (k : BitVec 16) : form (.trap k) = {} := rfl

/-- A TRAP has no operand, so it issues in any state but that of its check. -/
theorem clear_trap {k : BitVec 16} {s : State} (h : s.cur.phase ≠ .check) : Clear (.trap k) s where
  issues := h
  formed := rfl
  mode := nofun
  legal := nofun
  settled := by simp [form_trap, interlockHold, Form.passes, Form.lanes, Form.reads, Form.touches, latchOf]
  written := by simp [form_trap, underrun, Form.passes, Form.lanes, Form.reads]
  ordered := nofun

/-- R130: a TRAP ends the first group of a handler and leaves its trap to the end of its group. -/
theorem exec_trap {k : BitVec 16} {s : State} (h : Clear (.trap k) s) :
    exec (.trap k) s =
      .next (afterGroup (s.modCt fun t => { t with entered := false }) (.trap 0x22 k.toNat s.cur.link)) := by
  have arm : exec (.trap k) s = execTrap k s := rfl
  rw [arm, execTrap]
  exact issue_clear h noCheck _ rfl

/-- R274: what comes after a group gives way to the trap of its BARWAIT. -/
theorem afterGroup_of_barFlt {s : State} (a : After) (h : s.cur.barFlt.isSome) : afterGroup s a = s := if_pos h

theorem exec_trap_of_barFlt {k : BitVec 16} {s : State} (h : Clear (.trap k) s) (hb : s.cur.barFlt.isSome) :
    exec (.trap k) s = .next (s.modCt fun t => { t with entered := false }) := by
  rw [exec_trap h]
  exact congrArg _ (afterGroup_of_barFlt _ hb)

/-- A team that has taken a trap stands at its handler's first group. -/
theorem trapped_entered (s : State) (tk code tval tepc : Nat) : ((trapped s tk code tval tepc).team tk).entered = true := by
  simp [trapped]

/-- Beside a BARWAIT that met a fault, a TRAP does not enter the handler. -/
theorem exec_trap_ne_trapped {k : BitVec 16} {s : State} (h : Clear (.trap k) s) (hb : s.cur.barFlt.isSome) (u : State)
    (code tval tepc : Nat) : exec (.trap k) s ≠ .next (trapped u s.cur.tk code tval tepc) := by
  rw [exec_trap_of_barFlt h hb]
  intro e
  injection e with e
  have he : ((s.modCt fun t => { t with entered := false }).team s.cur.tk).entered = true := by
    rw [e]
    exact trapped_entered ..
  simp [State.modCt] at he

/-! ## A group of a BARWAIT and a TRAP -/

/-- The number of the team. -/
def teamKey : Nat := 16 * 2 ^ 32

/-- `barwait u2, u1`, on pipe X, chained to the word after it. -/
def waitWord : GWord := ⟨4, 0xED020102#32, 0, .barwait 2 1⟩
/-- `trap 0x42`, on pipe U. -/
def trapWord : GWord := ⟨8, 0x6A000042#32, 1, .trap 0x42⟩

/-- A team at that group, whose u1 names completion register 1, which holds a fault. -/
def faulted : State :=
  { placeCore {} [waitWord.word, trapWord.word] with
    teams := [(teamKey, { pc := 4, mask := 1, unif := 160, sreg := [(1, 0x40000001)], cc := [(1, 0x80000000)] })] }

/-- The BARWAIT of the group has its effect. -/
def waiting : State := aim { faulted with cur := { tk := teamKey, gpc := 4, link := 12 } } [waitWord, trapWord] waitWord .effect

/-- The state the BARWAIT leaves: the fault is kept for the end of the group. -/
def met : State := { waiting with cur := { waiting.cur with barFlt := some (4, 0x40000001, 0) } }

theorem exec_waitWord : exec waitWord.instr waiting = .next met := rfl

/-- The TRAP of the group has its effect, next after the BARWAIT. -/
def atTrap : State := aim met [waitWord, trapWord] trapWord .effect

/-- The two words are one group that issues, and the step that issues it takes the ENGINE_FAULT of the BARWAIT: TVAL holds its
completion word, TEPC its address. -/
theorem step_faulted : ∃ t, step faulted = .next t ∧
    ((t.team teamKey).tcause, (t.team teamKey).tval, (t.team teamKey).tepc) = (0x1A, 0x4000000100000000, 4) :=
  ⟨_, rfl, by decide +kernel⟩

/-! ## O9 -/

/-- Refutes O9: the clause on TRAP leaves out that a BARWAIT of the TRAP's group may have met a fault. In `atTrap`, which such a
BARWAIT leaves, the TRAP issues and the team is ready, but the trap with code 0x22 is not taken: the BARWAIT's own comes at the
end of the group. -/
theorem not_trapsAndReturn : ¬ Obligations.TrapsAndReturn := by
  rintro ⟨-, -, h⟩
  obtain ⟨htrap, -, -⟩ := h atTrap
  have hc : Clear (.trap 0x42) atTrap := clear_trap (by decide)
  exact exec_trap_ne_trapped hc rfl _ _ _ _ (htrap 0x42 hc rfl)

end Sys2Proof.Proofs.Trap
end
